-- ==== Sys2Proof/Word.lean ====
section
/-! DEFINITION. Word.lean: the part's plainest types: bytes, unit numbers, notch-table rows and timers. -/

namespace Sys2Proof

/-- One byte of a frame or of the configuration image. -/
abbrev Byte := BitVec 8

/-- A unit number as the identifier's five source bits carry it: 0 is a maintenance tool, 1 to 31 are
stations (R156, and the conventions of 00_scope.md). -/
abbrev UnitNo := Fin 32

/-- A notch-table row: 0 is LO, 1 is ID, 2 to 9 are N1 to N8 (00_scope.md, "Notch-table rows"). -/
abbrev Row := Fin 10

/-- A timer: `none` while it is stopped, otherwise the microseconds since it was started from 0.
Limits are given in milliseconds; see notes/assumptions/2.md for the resolution. -/
abbrev Timer := Option Nat

end Sys2Proof
end

