-- ==== Sys2Proof/Config.lean ====
section
/-! DEFINITION. Config.lean: the shape of the applied parameter set (Chapter 12), and the one free value.
The built-in defaults, the ranges and the clamps are in Machine/Image.lean. -/

namespace Sys2Proof

/-- FREE VALUE (notes/assumptions/5.md). Where one step of the part leaves open which of two of its
effects comes first (R49, and the FIRE comparison of R29), the n-th such choice of a run is
`freeChoice n`. It has no body: nothing about it can be proved. -/
opaque Config.freeChoice : Nat → Bool

namespace Config

/-- Line polarity (R146, R169). -/
inductive Polarity where
  | activeHigh | activeLow
deriving DecidableEq, Repr

/-- The LINK record's fields (R165). Times in ms; `silenceExp` is s of R96. -/
structure LinkParams where
  statusPeriod : Nat
  silenceExp : Nat
  demandTimeout : Nat
  demandHold : Nat
deriving DecidableEq, Repr

/-- Scaling of one converter channel (R8). -/
structure Scale where
  low : Int
  high : Int
deriving DecidableEq, Repr

/-- The SENSE record's fields (R2, R3, R8, R13, R19). -/
structure SenseParams where
  teeth : Nat
  gate : Nat
  stallTime : Nat
  stoppedSpeed : Nat
  coldLimit : Int
  hotLimit : Int
  lube : Scale
  resv : Scale
  cool : Scale
  batt : Scale
deriving DecidableEq, Repr

/-- Prelubrication mode of a start profile (section 2.3). -/
inductive PrelubeMode where
  | timed | pressure
deriving DecidableEq, Repr

/-- A start profile, START-N or START-C (section 2.3). Times in seconds. -/
structure StartProfile where
  mode : PrelubeMode
  prelubeTime : Nat
  prelubePressure : Nat
  prelubeLimit : Nat
  rollSpeed : Nat
  rollTime : Nat
  fuelOnSpeed : Nat
  releaseSpeed : Nat
  crankLimit : Nat
  fireLimit : Nat
  confirmTime : Nat
  confirmLimit : Nat
  confirmLube : Nat
deriving DecidableEq, Repr

/-- One row of a notch table (section 5.1). -/
structure NotchRow where
  setpoint : Nat
  power : Nat
  lubeMin : Nat
  upCold : Nat
  upWarm : Nat
  upHot : Nat
deriving DecidableEq, Repr

/-- A notch table, NOTCH or NOTCH-ALT: ten rows, LO first (section 5.1). -/
structure NotchTable where
  rows : List NotchRow
  downDwell : Nat
  fullScale : Nat
  band : Nat
deriving DecidableEq, Repr

/-- The CRANK record's fields (Chapter 7). `peerCrankLimit` and `recrank` in seconds. -/
structure CrankParams where
  maxCranking : Nat
  startPressure : Nat
  floor : Nat
  claimSettle : Nat
  overlapWindow : Nat
  peerCrankLimit : Nat
  maxAttempts : Nat
  recrank : Nat
deriving DecidableEq, Repr

/-- The STEP record's fields (section 5.1). `settleLimit` and `lowIdleTime` in seconds. -/
structure StepParams where
  settleLimit : Nat
  stagger : Nat
  lowIdleEnable : Bool
  lowIdleTime : Nat
  makeUpEnable : Bool
  makeUpLimit : Nat
deriving DecidableEq, Repr

/-- The LAYOVER record's fields (Chapter 9). `idleTime` in minutes. -/
structure LayoverParams where
  enable : Bool
  idleTime : Nat
  quota : Nat
  intentHold : Nat
  coolMin : Int
  battMin : Nat
  resvMin : Nat
  restartTemp : Int
  restartVolt : Nat
  restartPress : Nat
deriving DecidableEq, Repr

/-- The PROTECT record's fields (Chapter 3). Delays and the hold in seconds. -/
structure ProtectParams where
  overspeed : Nat
  derate1Temp : Int
  derate1Cap : Row
  derate2Temp : Int
  derate2Cap : Row
  hotTemp : Int
  hotDelay : Nat
  lubeDelay : Nat
  fuelCutHold : Nat
deriving DecidableEq, Repr

/-- One on/off output's entry of the LINES record (section 10). `mismatch` in ms. -/
structure OutputParams where
  polarity : Polarity
  sensePolarity : Polarity
  mismatch : Nat
deriving DecidableEq, Repr

/-- The LINES record's fields (Chapter 10, section 13.2). -/
structure LinesParams where
  fuelPump : OutputParams
  prelube : OutputParams
  crankValve : OutputParams
  rackEnable : OutputParams
  loadPermit : OutputParams
  runLamp : Polarity
  layoverLamp : Polarity
  faultLamp : Polarity
  handle1 : Polarity
  handle2 : Polarity
  handle3 : Polarity
  handle4 : Polarity
  cabActive : Polarity
  reverserCentre : Polarity
  brakeSet : Polarity
  runIsolate : Polarity
  startPb : Polarity
  stopPb : Polarity
  estop : Polarity
  groundRelay : Polarity
  derateSelect : Polarity
deriving DecidableEq, Repr

end Config

/-- The applied parameter set, handed to every block at handover (R165, R167). -/
structure Params where
  unit : UnitNo
  link : Config.LinkParams
  sense : Config.SenseParams
  startN : Config.StartProfile
  startC : Config.StartProfile
  notch : Config.NotchTable
  notchAlt : Config.NotchTable
  crank : Config.CrankParams
  step : Config.StepParams
  layover : Config.LayoverParams
  protect : Config.ProtectParams
  lines : Config.LinesParams
deriving DecidableEq, Repr

end Sys2Proof
end

