-- ==== Sys2Proof/Syntax.lean ====
section
/-! DEFINITION. Syntax.lean: the commands, one constructor per row of spec/opcode_table.json, and the types
their operands are made of. The table gives the rows no bits and no operands: the operands are what the
rules of each row read (notes/assumptions/1.md). -/

namespace Sys2Proof

/-- The four converter channels (Chapter 1). -/
inductive Channel where
  | lube | resv | cool | batt
deriving DecidableEq, Repr

/-- The thirteen discrete input lines (section 4.1). -/
inductive InputLine where
  | handle1 | handle2 | handle3 | handle4 | cabActive | reverserCentre | brakeSet
  | runIsolate | startPb | stopPb | estop | groundRelay | derateSelect
deriving DecidableEq, Repr

/-- The five on/off outputs that have a sense return (Chapter 10). -/
inductive Output where
  | fuelPump | prelube | crankValve | rackEnable | loadPermit
deriving DecidableEq, Repr

/-- The coolant temperature class (R13). -/
inductive TempClass where
  | cold | warm | hot
deriving DecidableEq, Repr

/-- The start levels, least first (section 2.2). -/
inductive Level where
  | routine | quota | demand | protect
deriving DecidableEq, Repr

/-- The start phases (section 2.1). -/
inductive Phase where
  | prep | crank | fire | confirm
deriving DecidableEq, Repr

/-- The lockout reasons (section 2.1). -/
inductive LockReason where
  | attempts | overspeed | lube | hot | valve | rack | fuelCut
deriving DecidableEq, Repr

/-- The engine states as STATUS carries them (R169). -/
inductive EngineCode where
  | inhibited | stopped | starting | running | stopping | retryWait | lockedOut | layover
deriving DecidableEq, Repr

/-- The stop destinations as STATUS carries them (R169). -/
inductive DestCode where
  | stopped | retryWait | lockedOut | layover | prep
deriving DecidableEq, Repr

/-- The content of a STATUS frame, field by field (section 13.1). `none` is an absent value. -/
structure StatusContent where
  engine : EngineCode
  phase : Option Phase
  dest : Option DestCode
  lockReason : Option LockReason
  attempts : Byte
  crankCount : Byte
  current : Option Row
  target : Option Row
  available : Option Row
  demandRow : Option Row
  claim : Option (Level × Byte)
  intent : Option Byte
  rated : Nat
  avail : Nat
  headroom : Nat
  tempClass : TempClass
  settled : Bool
  stalled : Bool
  lubeStale : Bool
  resvStale : Bool
  coolStale : Bool
  battStale : Bool
  cabActive : Bool
  isolated : Bool
  derated : Bool
  laboring : Bool
  ground : Bool
  fuelHold : Bool
  handleFault : Bool
  demandLost : Bool
  demandConflict : Bool
  rosterFull : Bool
  lineFault : Bool
  configClamped : Bool
deriving DecidableEq, Repr

/-- What a frame carries after its length byte, by kind (section 13.1). Bytes whose range a receive
check or a block's own rule judges are kept as bytes; a REPLY is kept as its whole payload. -/
inductive Content where
  | fuelCut
  | crankOn (level serial : Byte)
  | crankOff (result level serial count : Byte)
  | claim (level serial : Byte)
  | withdraw (serial : Byte)
  | demand (row reverser brake serial : Byte)
  | step (row : Byte)
  | layoverIntent (serial : Byte)
  | layoverCancel (serial : Byte)
  | status (c : StatusContent)
  | query (dest kind part : Byte)
  | reply (payload : List Byte)
deriving DecidableEq, Repr

/-- Either the station itself or a unit heard on the link. The own unit number is not known before
handover, so the lists that hold the station name it so (R107). -/
inductive Who where
  | own
  | unit (u : UnitNo)
deriving DecidableEq, Repr

/-- The commands the block takes: one constructor per row of spec/opcode_table.json. A command is one
whole event of the part (95_what_each_step_holds.md). The received-frame rows carry the sender and the
payload; DISCARDED_FRAME carries the bits on the line. -/
inductive Instr where
  | reset
  | memoryAnswer (byte : Byte)
  | memoryRequestTimeout
  | pickupEdge
  | stallTimeout
  | gateCounterMaximum
  | converterSlotEnd
  | converterReply (named : Channel) (raw : BitVec 12) (valid : Bool)
  | stalenessTimeout (ch : Channel)
  | inputRawChange (line : InputLine) (level : Bool)
  | debounceTimeout (line : InputLine)
  | invalidCodeTimeout
  | demandTimeout
  | demandHoldExpiry
  | recentSourceExpiry (source : Who)
  | prelubeTimeExpiry
  | prelubeLimitExpiry
  | claimSettleExpiry
  | joinTimeExpiry
  | crankGrant
  | rollTimeExpiry
  | crankLimitExpiry
  | fireLimitExpiry
  | confirmTimeReached
  | confirmLimitExpiry
  | recrankIntervalExpiry
  | turningWatchEnd
  | lubeTripDelayExpiry
  | hotStopDelayExpiry
  | fuelCutHoldExpiry
  | dwellTimeout
  | settleLimitExpiry
  | staggerIntervalExpiry
  | staggerHoldExpiry
  | lowIdleTimeExpiry
  | silenceTimeout (u : UnitNo)
  | peerCrankLimitExpiry (u : UnitNo)
  | overlapWindowExpiry
  | layoverIdleTimeExpiry
  | intentHoldExpiry
  | senseRawChange (out : Output) (level : Bool)
  | senseDebounceTimeout (out : Output)
  | mismatchTimeExpiry (out : Output)
  | statusPeriodExpiry
  | lineIdle
  | arbitrationLost
  | transmitError
  | frameSentInFull
  | fuelCut (source : UnitNo)
  | crankOn (source : UnitNo) (level serial : Byte)
  | crankOff (source : UnitNo) (result level serial count : Byte)
  | claim (source : UnitNo) (level serial : Byte)
  | withdraw (source : UnitNo) (serial : Byte)
  | demand (source : UnitNo) (row reverser brake serial : Byte)
  | step (source : UnitNo) (row : Byte)
  | layoverIntent (source : UnitNo) (serial : Byte)
  | layoverCancel (source : UnitNo) (serial : Byte)
  | status (source : UnitNo) (c : StatusContent)
  | query (source : UnitNo) (dest kind part : Byte)
  | reply (source : UnitNo) (payload : List Byte)
  | discardedFrame (bits : List Bool)
deriving DecidableEq, Repr

end Sys2Proof
end

