-- ==== Sys2Proof/Decode.lean ====
section
/-! DEFINITION. Decode.lean: the words the table's bits spell. No row of spec/opcode_table.json carries bits (its
"fields" are empty and the reader counts n_rows_with_fixed 0), so no word spells a command. -/

namespace Sys2Proof

/-- The command a word spells by the table's bits: none, since no row gives bits. -/
def decodeTableWord (_nbits _w : Nat) : Option Instr := none

end Sys2Proof
end

