-- ==== Sys2Proof/Machine/State.lean ====
section
/-! DEFINITION. State.lean: everything the spec gives one station, as plain data, block by block, and its reset. -/

namespace Sys2Proof.Machine

/-- One debounced line (R58, R147): the raw level, the debounced level (none while undetermined) and the
stability timer in microseconds, which counts up to 20 ms. -/
structure Debounce where
  raw : Bool
  settled : Option Bool
  stable : Nat
deriving DecidableEq, Repr

/-- A line's debounce after reset: the level undetermined, the stability timer from 0 (R59, R147). -/
def debounceReset (raw : Bool) : Debounce := { raw, settled := none, stable := 0 }

/-- One value for each of the thirteen input lines. -/
structure Inputs where
  handle1 : Debounce
  handle2 : Debounce
  handle3 : Debounce
  handle4 : Debounce
  cabActive : Debounce
  reverserCentre : Debounce
  brakeSet : Debounce
  runIsolate : Debounce
  startPb : Debounce
  stopPb : Debounce
  estop : Debounce
  groundRelay : Debounce
  derateSelect : Debounce
deriving DecidableEq, Repr

/-- One converter channel (R9 to R12). -/
structure ChannelState where
  window : List Int
  value : Option Int
  stale : Bool
  timer : Timer
deriving DecidableEq, Repr

/-- The gate states (R1 to R5). -/
inductive GateState where
  | idle | timing
deriving DecidableEq, Repr

/-- The speed gate (R1 to R5): the gate state, the pulse count, the gate counter in microseconds (it stands at
16,777,215 at most) and the stall timer, which runs only in TIMING. -/
structure Gate where
  state : GateState
  count : Nat
  counter : Nat
  stall : Timer
deriving DecidableEq, Repr

/-- The measurement unit (Chapter 1). -/
structure Measurement where
  gate : Gate
  speed : Nat
  stalled : Bool
  lube : ChannelState
  resv : ChannelState
  cool : ChannelState
  batt : ChannelState
  request : Option Channel
  slot : Timer
  taken : Bool
  tempClass : TempClass
deriving DecidableEq, Repr

/-- The demand source states (R64). -/
inductive DemandSource where
  | own | waiting | current | holding | lost
deriving DecidableEq, Repr

/-- The own record: the demand built from the own cab (R65). -/
structure OwnRecord where
  row : Row
  centred : Bool
  brake : Bool
  serial : Fin 16
deriving DecidableEq, Repr

/-- The remote record: the latest DEMAND received (R68). -/
structure RemoteRecord where
  source : UnitNo
  row : Row
  centred : Bool
  brake : Bool
  serial : Byte
deriving DecidableEq, Repr

/-- An entry of the recent-source list, its age in microseconds (R71). -/
structure RecentSource where
  who : Who
  age : Nat
deriving DecidableEq, Repr

/-- The demand unit (Chapter 4). -/
structure DemandUnit where
  inputs : Inputs
  handle : Row
  invalidTimer : Timer
  handleFault : Bool
  source : DemandSource
  ownRecord : OwnRecord
  ownSerial : Fin 16
  remote : Option RemoteRecord
  demandTimer : Timer
  holdTimer : Timer
  recent : List RecentSource
deriving DecidableEq, Repr

/-- The inhibit reasons (section 2.1). -/
inductive InhibitReason where
  | noMemory | image | unit | duplicate
deriving DecidableEq, Repr

/-- A stop destination, LOCKED-OUT with its reason (section 2.1). -/
inductive StopDest where
  | stopped
  | retryWait
  | lockedOut (reason : LockReason)
  | layover
  | prep
deriving DecidableEq, Repr

/-- The engine state with what is held with it (section 2.1). -/
inductive EngineState where
  | inhibited (reason : InhibitReason)
  | stopped
  | starting (phase : Phase)
  | running
  | stopping (dest : StopDest)
  | retryWait
  | lockedOut (reason : LockReason)
  | layover
deriving DecidableEq, Repr

/-- The start profile chosen at PREP entry (R20). -/
inductive ProfileId where
  | normal | cold
deriving DecidableEq, Repr

/-- The results of an attempt (R39). -/
inductive AttemptResult where
  | running | noPrelube | noRoll | noFire | noRun | noConfirm | floor | yielded | stopped | tripped
deriving DecidableEq, Repr

/-- A phase entry of the attempt record: the elapsed time in ms once the phase is closed (0 while it is in
progress, when a query reports the phase timer), and the speed at its end (R39). -/
structure PhaseEntry where
  elapsed : Nat
  speed : Option Nat
deriving DecidableEq, Repr

/-- The attempt record (R39); the phase list is in the order PREP, CRANK, FIRE, CONFIRM. -/
structure AttemptRecord where
  level : Level
  number : Nat
  phases : List PhaseEntry
  result : Option AttemptResult
deriving DecidableEq, Repr

/-- The start sequencer (R17). `rolling` and `rackOn` record that the present crank has reached the roll
and the fuel-on speed (R24, R35); `inBand` is the latest comparison of the speed with the ID band in
CONFIRM (R30, R41); `turningWatch` is R168's. -/
structure Sequencer where
  engine : EngineState
  origLevel : Option Level
  startLevel : Option Level
  attempts : Nat
  profile : Option ProfileId
  phaseTimer : Timer
  confirmTimer : Timer
  recrankTimer : Timer
  prelubeDone : Bool
  rolling : Bool
  rackOn : Bool
  inBand : Bool
  keptSerial : Option Byte
  crankCount : Byte
  record : Option AttemptRecord
  turningWatch : Timer
deriving DecidableEq, Repr

/-- The source of a fuel cut in the trip record (R57). -/
inductive CutSource where
  | localEstop
  | frame (sender : UnitNo)
deriving DecidableEq, Repr

/-- The trip record (R57). `row` is the current row if the state was RUNNING; COOL and LUBE are none
where the record says STALE. -/
structure TripRecord where
  reason : LockReason
  source : Option CutSource
  engine : EngineState
  row : Option Row
  speed : Nat
  stalled : Bool
  cool : Option Int
  lube : Option Int
deriving DecidableEq, Repr

/-- The protection unit (R42). DERATED, LABORING and GROUND are read off the available row and the caps
(Machine/Flags.lean). `groundOff` is its off command on LOAD-PERMIT for a ground (R47). -/
structure Protection where
  derate1 : Bool
  derate2 : Bool
  hotStop : Bool
  hotCap : Option Row
  lubeStaleCap : Option Row
  groundCap : Option Row
  groundOff : Bool
  laboringCap : Option Row
  available : Row
  hotTimer : Timer
  lubeTimer : Timer
  tripLatch : Bool
  holdTimer : Timer
  lastSpeed : Nat
  record : Option TripRecord
deriving DecidableEq, Repr

/-- The notch stepper (R74). `stagger` is none while it stands at "none heard". -/
structure Stepper where
  current : Option Row
  target : Option Row
  settled : Bool
  dwell : Timer
  settleTimer : Timer
  stagger : Timer
  staggerHold : Timer
  lowIdleTimer : Timer
  lowIdleReached : Bool
  loadRow : Option Row
  loadPermit : Bool
deriving DecidableEq, Repr

/-- A peer's layover intent (R96, R104); its age in microseconds. -/
structure PeerIntent where
  serial : Byte
  age : Nat
deriving DecidableEq, Repr

/-- A roster entry (R96); ages in microseconds. -/
structure RosterEntry where
  unit : UnitNo
  age : Nat
  status : Option StatusContent
  lastCount : Option Byte
  intent : Option PeerIntent
  lastStep : Option Nat
deriving DecidableEq, Repr

/-- The peer roster (R96). -/
structure Roster where
  entries : List RosterEntry
  full : Bool
deriving DecidableEq, Repr

/-- The state of a claim-list entry; a CRANKING peer's age in microseconds (R110). -/
inductive ClaimState where
  | waiting
  | cranking (age : Nat)
deriving DecidableEq, Repr

/-- A claim-list entry (R110). -/
structure Claim where
  who : Who
  level : Level
  serial : Byte
  state : ClaimState
deriving DecidableEq, Repr

/-- A pair of the expired list (R116). -/
structure ExpiredClaim where
  unit : UnitNo
  serial : Byte
deriving DecidableEq, Repr

/-- The crank arbiter (R107). The overlap timer is none once it has reached the overlap window (R123). -/
structure Arbiter where
  claims : List Claim
  rotation : List Who
  ownSerial : Byte
  claimTimer : Timer
  joinTimer : Timer
  placed : Bool
  overlapTimer : Timer
  crossing : List UnitNo
  expired : List ExpiredClaim
deriving DecidableEq, Repr

/-- The make-up calculator (R126): the inputs of its latest run and its result. -/
structure MakeUp where
  rated : Nat
  avail : Nat
  headroom : Nat
  shortfall : Nat
  total : Nat
  counted : List UnitNo
  extra : Nat
  row : Option Row
deriving DecidableEq, Repr

/-- The layover unit's idle timer (R133, R135), running in microseconds. -/
inductive IdleTimer where
  | stopped
  | running (us : Nat)
  | reached
deriving DecidableEq, Repr

/-- The intent phases (R133). -/
inductive IntentPhase where
  | none | announced | committed
deriving DecidableEq, Repr

/-- The restart watch (R141): inactive, or active with a standing level or none. -/
inductive RestartWatch where
  | inactive
  | active (standing : Option Level)
deriving DecidableEq, Repr

/-- The layover unit (R133). -/
structure LayoverUnit where
  eligible : Bool
  idle : IdleTimer
  q : Nat
  ownIntent : Option Byte
  phase : IntentPhase
  serial : Byte
  holdTimer : Timer
  watch : RestartWatch
deriving DecidableEq, Repr

/-- The faults of an on/off output (R146). -/
inductive LineFault where
  | none | sensedOn | sensedOff
deriving DecidableEq, Repr

/-- What the line driver holds for one on/off output (R146). -/
structure OutputLine where
  command : Bool
  sense : Debounce
  mismatch : Timer
  present : LineFault
  last : LineFault
deriving DecidableEq, Repr

/-- An output line after reset (R146, R147). -/
def outputReset (raw : Bool) : OutputLine :=
  { command := false, sense := debounceReset raw, mismatch := none, present := .none, last := .none }

/-- The line driver (R146). `driven` is set once the part drives its on/off outputs and lamps: at handover
or when the read ends FAILED. `polarities` are those it then drives them with (R146, R164). -/
structure LineDriver where
  fuelPump : OutputLine
  prelube : OutputLine
  crankValve : OutputLine
  rackEnable : OutputLine
  loadPermit : OutputLine
  runLamp : Bool
  layoverLamp : Bool
  faultLamp : Bool
  speedSet : Nat
  loadRef : Nat
  driven : Bool
  polarities : Option Config.LinesParams
deriving DecidableEq, Repr

/-- A frame asked for: one that carries the content given when it was queued, or a STATUS or REPLY, which
take their content when a try begins (R158). -/
inductive TxFrame where
  | made (c : Content)
  | status
  | reply (dest : UnitNo) (kind part : Byte)
deriving DecidableEq, Repr

/-- The transmit buffer's frame: its content as formed for the present try, the try count 1 to 3, and
whether it is on the line or awaits its next try (R155, R158). -/
structure TxBuffer where
  frame : TxFrame
  content : Content
  tries : Nat
  onLine : Bool
deriving DecidableEq, Repr

/-- The link states (R155). -/
inductive LinkState where
  | down | up | silent
deriving DecidableEq, Repr

/-- The receive states (R155). -/
inductive ReceiveState where
  | waitingIdle | idle | receiving
deriving DecidableEq, Repr

/-- The link controller (R155). -/
structure Link where
  state : LinkState
  queue : List TxFrame
  buffer : Option TxBuffer
  statusTimer : Timer
  receive : ReceiveState
deriving DecidableEq, Repr

/-- The reader states (R163). -/
inductive ReaderState where
  | reading | applied | failed
deriving DecidableEq, Repr

/-- The configuration reader (R163): the image as read, first byte first, the time since the outstanding
read request, and the applied parameter set from handover on. -/
structure Reader where
  state : ReaderState
  image : List Byte
  request : Timer
  applied : Option Params
  clamped : Bool
deriving DecidableEq, Repr

/-- The whole station. `choices` counts the free choices taken so far (notes/assumptions/5.md) and
`pending` is the queue of commands that wait, first in, first out; both are the model's own. -/
structure State where
  reader : Reader
  meas : Measurement
  demand : DemandUnit
  seq : Sequencer
  prot : Protection
  step : Stepper
  roster : Roster
  arb : Arbiter
  makeUp : MakeUp
  layover : LayoverUnit
  lines : LineDriver
  link : Link
  choices : Nat
  pending : List Instr
deriving DecidableEq, Repr

/-- The faults of the machine. There are none: the spec gives every command an effect in every state. -/
inductive Fault where
deriving DecidableEq, Repr

/-- The refusals of the machine. -/
inductive Refusal where
  /-- Raised only by an arm of exec whose command has no meaning yet; there is no such arm. Safe: the
  model says nothing of such a command. -/
  | notModelled (mnemonic : String)
deriving DecidableEq, Repr

/-- A converter channel after reset (R12). -/
def channelReset : ChannelState := { window := [], value := none, stale := true, timer := none }

/-- The gate after reset: IDLE, both counts 0, the stall timer stopped (R5). -/
def gateReset : Gate := { state := .idle, count := 0, counter := 0, stall := none }

/-- The measurement unit after reset (R5, R12, R15). -/
def measurementReset : Measurement :=
  { gate := gateReset, speed := 0, stalled := true, lube := channelReset, resv := channelReset
    cool := channelReset, batt := channelReset, request := none, slot := none, taken := false
    tempClass := .cold }

/-- The input lines after reset, with the raw levels the pins stand at (R59, R73). -/
def inputsReset (i : Inputs) : Inputs :=
  { handle1 := debounceReset i.handle1.raw, handle2 := debounceReset i.handle2.raw
    handle3 := debounceReset i.handle3.raw, handle4 := debounceReset i.handle4.raw
    cabActive := debounceReset i.cabActive.raw
    reverserCentre := debounceReset i.reverserCentre.raw
    brakeSet := debounceReset i.brakeSet.raw, runIsolate := debounceReset i.runIsolate.raw
    startPb := debounceReset i.startPb.raw, stopPb := debounceReset i.stopPb.raw
    estop := debounceReset i.estop.raw, groundRelay := debounceReset i.groundRelay.raw
    derateSelect := debounceReset i.derateSelect.raw }

/-- The demand unit after reset (R70, R73), on the given input lines. -/
def demandReset (inputs : Inputs) : DemandUnit :=
  { inputs, handle := 1, invalidTimer := none, handleFault := false, source := .waiting
    ownRecord := { row := 1, centred := true, brake := true, serial := 0 }, ownSerial := 0
    remote := none, demandTimer := none, holdTimer := none, recent := [] }

/-- The start sequencer after reset (R17). -/
def sequencerReset : Sequencer :=
  { engine := .stopped, origLevel := none, startLevel := none, attempts := 0, profile := none
    phaseTimer := none, confirmTimer := none, recrankTimer := none, prelubeDone := false
    rolling := false, rackOn := false, inBand := false, keptSerial := none, crankCount := 0
    record := none, turningWatch := none }

/-- The protection unit after reset (R42). -/
def protectionReset : Protection :=
  { derate1 := false, derate2 := false, hotStop := false, hotCap := none, lubeStaleCap := none
    groundCap := none, groundOff := false, laboringCap := none, available := 9, hotTimer := none, lubeTimer := none
    tripLatch := false, holdTimer := none, lastSpeed := 0, record := none }

/-- The notch stepper after reset (R74). -/
def stepperReset : Stepper :=
  { current := none, target := none, settled := false, dwell := none, settleTimer := none
    stagger := none, staggerHold := none, lowIdleTimer := none, lowIdleReached := false
    loadRow := none, loadPermit := false }

/-- The crank arbiter after reset: the station's own number alone in the rotation (R107). -/
def arbiterReset : Arbiter :=
  { claims := [], rotation := [.own], ownSerial := 0, claimTimer := none, joinTimer := none
    placed := false, overlapTimer := none, crossing := [], expired := [] }

/-- The make-up calculator after reset (R126). -/
def makeUpReset : MakeUp :=
  { rated := 0, avail := 0, headroom := 0, shortfall := 0, total := 0, counted := [], extra := 0
    row := none }

/-- The layover unit after reset (R133). -/
def layoverReset : LayoverUnit :=
  { eligible := false, idle := .stopped, q := 0, ownIntent := none, phase := .none, serial := 0
    holdTimer := none, watch := .inactive }

/-- The line driver after reset: nothing driven, every command off, both duties 0 (R146), on sense
returns standing at the given raw levels. -/
def linesReset (d : LineDriver) : LineDriver :=
  { fuelPump := outputReset d.fuelPump.sense.raw, prelube := outputReset d.prelube.sense.raw
    crankValve := outputReset d.crankValve.sense.raw
    rackEnable := outputReset d.rackEnable.sense.raw
    loadPermit := outputReset d.loadPermit.sense.raw
    runLamp := false, layoverLamp := false, faultLamp := false, speedSet := 0, loadRef := 0
    driven := false, polarities := none }

/-- The link controller after reset (R155). -/
def linkReset : Link :=
  { state := .down, queue := [], buffer := none, statusTimer := none, receive := .waitingIdle }

/-- The configuration reader after reset: READING, the first byte requested (R163). -/
def readerReset : Reader :=
  { state := .reading, image := [], request := some 0, applied := none, clamped := false }

/-- Input lines whose raw levels are all low (DESIGN CHOICE, notes/assumptions/4.md). -/
def inputsLow : Inputs :=
  { handle1 := debounceReset false, handle2 := debounceReset false
    handle3 := debounceReset false, handle4 := debounceReset false
    cabActive := debounceReset false, reverserCentre := debounceReset false
    brakeSet := debounceReset false, runIsolate := debounceReset false
    startPb := debounceReset false, stopPb := debounceReset false, estop := debounceReset false
    groundRelay := debounceReset false, derateSelect := debounceReset false }

/-- A line driver whose sense returns are all low (DESIGN CHOICE, notes/assumptions/4.md). -/
def linesLow : LineDriver :=
  { fuelPump := outputReset false, prelube := outputReset false, crankValve := outputReset false
    rackEnable := outputReset false, loadPermit := outputReset false, runLamp := false
    layoverLamp := false, faultLamp := false, speedSet := 0, loadRef := 0, driven := false
    polarities := none }

/-- The station right after reset. The raw levels of the input lines and sense returns, which the
outside gives, stand low, and the choice counter at 0 (notes/assumptions/4.md, 5.md). -/
def State.reset : State :=
  { reader := readerReset, meas := measurementReset, demand := demandReset inputsLow
    seq := sequencerReset, prot := protectionReset, step := stepperReset
    roster := { entries := [], full := false }, arb := arbiterReset, makeUp := makeUpReset
    layover := layoverReset, lines := linesLow, link := linkReset, choices := 0, pending := [] }

end Sys2Proof.Machine
end

