-- ==== Sys2Proof/Machine/Flags.lean ====
section
/-! DEFINITION. Flags.lean: what is read off the state: line levels, channel readings, the table and demand in
force, the published flags, and the levels the pins stand at. -/

namespace Sys2Proof.Machine

open Config

/-! ### Timers -/

/-- The timer runs and has reached a limit in milliseconds. -/
def timerReached (t : Timer) (ms : Nat) : Bool :=
  match t with
  | none => false
  | some us => decide (ms * 1000 ≤ us)

/-- The whole milliseconds a timer shows, 0 where it is stopped. -/
def timerMs (t : Timer) : Nat := t.getD 0 / 1000

/-! ### Lines -/

/-- The debounce of an input line. -/
def inputOf (i : Inputs) : InputLine → Debounce
  | .handle1 => i.handle1 | .handle2 => i.handle2 | .handle3 => i.handle3 | .handle4 => i.handle4
  | .cabActive => i.cabActive | .reverserCentre => i.reverserCentre | .brakeSet => i.brakeSet
  | .runIsolate => i.runIsolate | .startPb => i.startPb | .stopPb => i.stopPb | .estop => i.estop
  | .groundRelay => i.groundRelay | .derateSelect => i.derateSelect

/-- The polarity of an input line (R59). -/
def inputPolarity (l : LinesParams) : InputLine → Polarity
  | .handle1 => l.handle1 | .handle2 => l.handle2 | .handle3 => l.handle3 | .handle4 => l.handle4
  | .cabActive => l.cabActive | .reverserCentre => l.reverserCentre | .brakeSet => l.brakeSet
  | .runIsolate => l.runIsolate | .startPb => l.startPb | .stopPb => l.stopPb | .estop => l.estop
  | .groundRelay => l.groundRelay | .derateSelect => l.derateSelect

/-- A level read with a polarity, or a command placed with one: on is the active level (R59, R147). -/
def levelOn (p : Polarity) (level : Bool) : Bool :=
  match p with
  | .activeHigh => level
  | .activeLow => !level

/-- R59: an input line is on; a line still undetermined is taken as off. -/
def lineOn (p : Params) (s : State) (line : InputLine) : Bool :=
  match (inputOf s.demand.inputs line).settled with
  | none => false
  | some level => levelOn (inputPolarity p.lines line) level

/-- What the line driver holds for an output. -/
def outputOf (d : LineDriver) : Output → OutputLine
  | .fuelPump => d.fuelPump | .prelube => d.prelube | .crankValve => d.crankValve
  | .rackEnable => d.rackEnable | .loadPermit => d.loadPermit

/-- The LINES entry of an output. -/
def outputParams (l : LinesParams) : Output → OutputParams
  | .fuelPump => l.fuelPump | .prelube => l.prelube | .crankValve => l.crankValve
  | .rackEnable => l.rackEnable | .loadPermit => l.loadPermit

/-- R146, R147: the sensed state of an output, none while it is undetermined. It keeps its reset value,
undetermined, until handover, and in a station whose read FAILED until the next reset, however far the debounce
of the sense return has come; from handover on it is the debounced level read with the sense polarity. -/
def sensed (s : State) (out : Output) : Option Bool :=
  match s.reader.applied with
  | none => none
  | some p => (outputOf s.lines out).sense.settled.map (levelOn (outputParams p.lines out).sensePolarity)

/-- R147: the sensed state as the comparison takes it, undetermined being off. -/
def sensedOn (s : State) (out : Output) : Bool := (sensed s out).getD false

/-- ISOLATED: clear from reset until handover, and from then on set while RUN-ISOLATE is off (R60, R73). -/
def isolated (s : State) : Bool :=
  match s.reader.applied with
  | none => false
  | some p => !lineOn p s .runIsolate

/-- The station is link-silent (R155). -/
def linkSilent (s : State) : Bool := s.link.state == .silent

/-! ### Measurements -/

/-- The state of a converter channel. -/
def channelOf (m : Measurement) : Channel → ChannelState
  | .lube => m.lube | .resv => m.resv | .cool => m.cool | .batt => m.batt

/-- A channel's value while it is fresh; none while it is STALE or has no value (R11, R12). -/
def freshValue (c : ChannelState) : Option Int := if c.stale then none else c.value

/-- A fresh channel's value at or above a bound. -/
def freshAtLeast (c : ChannelState) (bound : Int) : Bool :=
  match freshValue c with
  | none => false
  | some v => decide (bound ≤ v)

/-- The speed is below the stopped speed (R19, R34). -/
def atRest (p : Params) (s : State) : Bool := decide (s.meas.speed < p.sense.stoppedSpeed)

/-! ### Notch table -/

/-- R76: the notch table DERATE-SELECT chooses. -/
def tableInForce (p : Params) (s : State) : NotchTable :=
  if lineOn p s .derateSelect then p.notchAlt else p.notch

/-- A row of a table; a table holds ten rows (section 5.1). -/
def rowOf (t : NotchTable) (r : Row) : NotchRow :=
  t.rows.getD r.val
    { setpoint := 0, power := 0, lubeMin := 0, upCold := 0, upWarm := 0, upHot := 0 }

/-- The power of a row, P[r] of Chapters 5 and 8. -/
def powerOf (t : NotchTable) (r : Row) : Nat := (rowOf t r).power

/-- The speed lies within the confirm band of a row's setpoint, both ends included (R30, R84). A band as wide as
the setpoint takes in the speed 0 of a stall, of which R84 says both that the band settles the row and that a
stall settles none; the band decides (DESIGN CHOICE, notes/assumptions/26.md). -/
def inBandOf (t : NotchTable) (r : Row) (speed : Nat) : Bool :=
  decide ((rowOf t r).setpoint ≤ speed + t.band) && decide (speed ≤ (rowOf t r).setpoint + t.band)

/-- R93: the duty of a row's setpoint. -/
def speedDuty (t : NotchTable) (r : Row) : Nat := 1023 * (rowOf t r).setpoint / t.fullScale

/-- R94: the duty of a load-reference row's power. -/
def loadDuty (t : NotchTable) (r : Row) : Nat := 1023 * powerOf t r / powerOf t 9

/-- R80: the up-dwell of a row for a temperature class. -/
def upDwell (t : NotchTable) (r : Row) : TempClass → Nat
  | .cold => (rowOf t r).upCold
  | .warm => (rowOf t r).upWarm
  | .hot => (rowOf t r).upHot

/-! ### Demand -/

/-- The demand in force: row, reverser centred and brake set (section 4.3). -/
structure DemandInForce where
  row : Row
  centred : Bool
  brake : Bool
deriving DecidableEq, Repr

/-- The safe demand: ID, centred and set (R64). -/
def safeDemand : DemandInForce := { row := 1, centred := true, brake := true }

/-- DEMAND-CONFLICT: the recent-source list holds two or more entries (R71). -/
def demandConflict (s : State) : Bool := decide (2 ≤ s.demand.recent.length)

/-- DEMAND-LOST: the demand source state is LOST (R64). -/
def demandLost (s : State) : Bool := s.demand.source == .lost

/-- R64: the demand in force, by source state and conflict. A record absent where the table reads one
(no run reaches that) gives the safe demand. -/
def demandInForce (s : State) : DemandInForce :=
  if demandConflict s then safeDemand
  else
    match s.demand.source with
    | .own =>
      { row := s.demand.ownRecord.row, centred := s.demand.ownRecord.centred
        brake := s.demand.ownRecord.brake }
    | .current | .holding =>
      match s.demand.remote with
      | some r => { row := r.row, centred := r.centred, brake := r.brake }
      | none => safeDemand
    | .waiting | .lost => safeDemand

/-- The handle code of section 4.2, HANDLE-4 first; none for the seven invalid codes. -/
def handleOfCode : Bool → Bool → Bool → Bool → Option Row
  | false, false, false, false => some 1
  | false, false, false, true => some 2
  | false, false, true, true => some 3
  | false, false, true, false => some 4
  | false, true, true, false => some 5
  | false, true, true, true => some 6
  | false, true, false, true => some 7
  | false, true, false, false => some 8
  | true, true, false, false => some 9
  | _, _, _, _ => none

/-- R62: the position the four debounced code lines spell. -/
def handleCode (p : Params) (s : State) : Option Row :=
  handleOfCode (lineOn p s .handle4) (lineOn p s .handle3) (lineOn p s .handle2)
    (lineOn p s .handle1)

/-! ### Engine state, protection and lines -/

/-- The engine state is RUNNING. -/
def isRunning (s : State) : Bool := s.seq.engine == .running

/-- The engine state is INHIBITED. -/
def isInhibited (s : State) : Bool :=
  match s.seq.engine with
  | .inhibited _ => true
  | _ => false

/-- DERATED (R43). -/
def derated (s : State) : Bool := decide (s.prot.available.val < 9)

/-- LABORING (R48). -/
def laboring (s : State) : Bool := s.prot.laboringCap.isSome

/-- GROUND (R47). -/
def ground (s : State) : Bool := s.prot.groundCap.isSome

/-- FUEL-HOLD: the fuel-cut hold runs (R55). -/
def fuelHold (s : State) : Bool := s.prot.holdTimer.isSome

/-- LINE-FAULT: some output has a present fault (R146). -/
def lineFault (s : State) : Bool :=
  s.lines.fuelPump.present != .none || s.lines.prelube.present != .none
    || s.lines.crankValve.present != .none || s.lines.rackEnable.present != .none
    || s.lines.loadPermit.present != .none

/-- R148: the protection unit's off is in force on a line. -/
def protectionOff (s : State) (out : Output) : Bool :=
  s.prot.tripLatch || (out == .loadPermit && s.prot.groundOff)

/-- R35: the start sequencer's command of a line, by state and phase. LOAD-PERMIT is the stepper's. -/
def sequencerCommand (s : State) : Output → Bool
  | .fuelPump =>
    match s.seq.engine with
    | .starting _ | .running => true
    | _ => false
  | .prelube =>
    match s.seq.engine with
    | .starting .prep | .starting .crank => true
    | _ => false
  | .crankValve => s.seq.engine == .starting .crank
  | .rackEnable =>
    match s.seq.engine with
    | .starting .crank => s.seq.rackOn
    | .starting .fire | .starting .confirm | .running => true
    | _ => false
  | .loadPermit => false

/-- R148: the resolved command of a line. -/
def resolvedCommand (s : State) (out : Output) : Bool :=
  (match out with
   | .loadPermit => s.step.loadPermit
   | _ => sequencerCommand s out)
  && !protectionOff s out
  && !(out == .rackEnable && fuelHold s)

/-- The level an on/off output's pin stands at; none while the part has released it (R146, R147). -/
def outputPin (s : State) (out : Output) : Option Bool :=
  if s.lines.driven then
    match s.lines.polarities with
    | some l => some (levelOn (outputParams l out).polarity (outputOf s.lines out).command)
    | none => some (outputOf s.lines out).command
  else none

/-- The levels of RUN-LAMP, LAYOVER-LAMP and FAULT-LAMP; none while released (R146, R153). -/
def lampPins (s : State) : Option (Bool × Bool × Bool) :=
  if s.lines.driven then
    match s.lines.polarities with
    | some l =>
      some (levelOn l.runLamp s.lines.runLamp, levelOn l.layoverLamp s.lines.layoverLamp,
        levelOn l.faultLamp s.lines.faultLamp)
    | none => some (s.lines.runLamp, s.lines.layoverLamp, s.lines.faultLamp)
  else none

end Sys2Proof.Machine
end

