-- ==== Sys2Proof/Machine/Operands.lean ====
section
/-! DEFINITION. Operands.lean: the byte layouts of the frames' payloads and their codes (Chapter 13, R169),
and the field and length checks of R160 step 5 as R170 gives them. -/

namespace Sys2Proof.Machine

/-- An engine state's code (R169). -/
def engineByte : EngineCode → Byte
  | .inhibited => 0 | .stopped => 1 | .starting => 2 | .running => 3
  | .stopping => 4 | .retryWait => 5 | .lockedOut => 6 | .layover => 7

/-- The engine state a code stands for; none outside the listed values (R169, R170). -/
def engineOfByte (b : Byte) : Option EngineCode :=
  match b.toNat with
  | 0 => some .inhibited | 1 => some .stopped | 2 => some .starting | 3 => some .running
  | 4 => some .stopping | 5 => some .retryWait | 6 => some .lockedOut | 7 => some .layover
  | _ => none

/-- A phase's code, 0 for none (R169). -/
def phaseByte : Option Phase → Byte
  | none => 0 | some .prep => 1 | some .crank => 2 | some .fire => 3 | some .confirm => 4

/-- The phase a code stands for (R169, R170). -/
def phaseOfByte (b : Byte) : Option (Option Phase) :=
  match b.toNat with
  | 0 => some none | 1 => some (some .prep) | 2 => some (some .crank) | 3 => some (some .fire)
  | 4 => some (some .confirm) | _ => none

/-- A stop destination's code, 0 for none (R169). -/
def destByte : Option DestCode → Byte
  | none => 0 | some .stopped => 1 | some .retryWait => 2 | some .lockedOut => 3
  | some .layover => 4 | some .prep => 5

/-- The stop destination a code stands for (R169, R170). -/
def destOfByte (b : Byte) : Option (Option DestCode) :=
  match b.toNat with
  | 0 => some none | 1 => some (some .stopped) | 2 => some (some .retryWait)
  | 3 => some (some .lockedOut) | 4 => some (some .layover) | 5 => some (some .prep) | _ => none

/-- A lockout reason's code, 0 for none (R169). -/
def lockReasonByte : Option LockReason → Byte
  | none => 0 | some .attempts => 1 | some .overspeed => 2 | some .lube => 3 | some .hot => 4
  | some .valve => 5 | some .rack => 6 | some .fuelCut => 7

/-- The lockout reason a code stands for (R169, R170). -/
def lockReasonOfByte (b : Byte) : Option (Option LockReason) :=
  match b.toNat with
  | 0 => some none | 1 => some (some .attempts) | 2 => some (some .overspeed)
  | 3 => some (some .lube) | 4 => some (some .hot) | 5 => some (some .valve)
  | 6 => some (some .rack) | 7 => some (some .fuelCut) | _ => none

/-- A temperature class's code (R169). -/
def classByte : TempClass → Byte
  | .cold => 0 | .warm => 1 | .hot => 2

/-- The temperature class a code stands for (R169, R170). -/
def classOfByte (b : Byte) : Option TempClass :=
  match b.toNat with
  | 0 => some .cold | 1 => some .warm | 2 => some .hot | _ => none

/-- A level's number, ROUTINE 0 to PROTECT 3 (section 2.2). -/
def levelNum : Level → Nat
  | .routine => 0 | .quota => 1 | .demand => 2 | .protect => 3

/-- The level of a number; numbers above 3 are read as PROTECT (callers give 0 to 3). -/
def levelOfNum : Nat → Level
  | 0 => .routine | 1 => .quota | 2 => .demand | _ => .protect

/-- A level's code (R169). -/
def levelByte (l : Level) : Byte := BitVec.ofNat 8 (levelNum l)

/-- The level a code stands for; none above 3 (R169, R112). -/
def levelOfByte (b : Byte) : Option Level :=
  match b.toNat with
  | 0 => some .routine | 1 => some .quota | 2 => some .demand | 3 => some .protect | _ => none

/-- A row's byte, 255 where absent (R169). -/
def rowByte : Option Row → Byte
  | none => 255
  | some r => BitVec.ofNat 8 r.val

/-- The row a byte stands for: 0 to 9, or absent for 255; anything else fails the field check (R170). -/
def rowOfByte (b : Byte) : Option (Option Row) :=
  if h : b.toNat < 10 then some (some ⟨b.toNat, h⟩)
  else if b = 255 then some none else none

/-- A mark's byte: 1 for on, set, centred or enabled (R169). -/
def markByte (b : Bool) : Byte := if b then 1 else 0

/-- A two-byte field, most significant byte first (R169). -/
def twoBytes (n : Nat) : List Byte := [BitVec.ofNat 8 (n / 256), BitVec.ofNat 8 n]

/-- A three-byte field, most significant byte first (R169). -/
def threeBytes (n : Nat) : List Byte :=
  [BitVec.ofNat 8 (n / 65536), BitVec.ofNat 8 (n / 256), BitVec.ofNat 8 n]

/-- The value of a two-byte field (R169). -/
def natOfTwo (hi lo : Byte) : Nat := hi.toNat * 256 + lo.toNat

/-- A signed value in two bytes, two's complement (R169); absent is 65,535. -/
def signedTwoBytes : Option Int → List Byte
  | none => [255, 255]
  | some v => twoBytes (BitVec.ofInt 16 v).toNat

/-- Eight marks packed into a byte, the first in bit 7 (section 13.1). -/
def packBits (b7 b6 b5 b4 b3 b2 b1 b0 : Bool) : Byte :=
  BitVec.ofNat 8 (b7.toNat * 128 + b6.toNat * 64 + b5.toNat * 32 + b4.toNat * 16
    + b3.toNat * 8 + b2.toNat * 4 + b1.toNat * 2 + b0.toNat)

/-- The 24 bytes of a STATUS payload (section 13.1). An absent claim or intent carries all ones in its
serial byte (R169). -/
def statusBytes (c : StatusContent) : List Byte :=
  [engineByte c.engine, phaseByte c.phase, destByte c.dest, lockReasonByte c.lockReason,
   c.attempts, c.crankCount, rowByte c.current, rowByte c.target, rowByte c.available,
   rowByte c.demandRow]
  ++ (match c.claim with
      | none => [255, 255]
      | some (l, serial) => [levelByte l, serial])
  ++ (match c.intent with
      | none => [0, 255]
      | some serial => [1, serial])
  ++ twoBytes c.rated ++ twoBytes c.avail ++ twoBytes c.headroom
  ++ [classByte c.tempClass,
      packBits c.settled c.stalled c.lubeStale c.resvStale c.coolStale c.battStale c.cabActive
        c.isolated,
      packBits c.derated c.laboring c.ground c.fuelHold c.handleFault c.demandLost
        c.demandConflict c.rosterFull,
      packBits false false false false false false c.lineFault c.configClamped]

/-- The claim shown by the two claim bytes: NONE is level 255 (R169); any other level above 3 fails. -/
def claimOfBytes (level serial : Byte) : Option (Option (Level × Byte)) :=
  if level = 255 then some none
  else (levelOfByte level).map fun l => some (l, serial)

/-- The intent shown by the two intent bytes; the present mark is 0 or 1 (R169). -/
def intentOfBytes (present serial : Byte) : Option (Option Byte) :=
  if present = 0 then some none else if present = 1 then some (some serial) else none

/-- R170: the field check of a STATUS beyond its codes and rows. -/
def statusValid (c : StatusContent) : Bool :=
  decide (c.rated ≤ 1000) && decide (c.avail ≤ 1000) && decide (c.headroom ≤ 1000)

/-- The STATUS content of 24 payload bytes, none where the length or field check fails (R170). -/
def statusOfBytes : List Byte → Option StatusContent
  | [b0, b1, b2, b3, b4, b5, b6, b7, b8, b9, b10, b11, b12, b13, b14, b15, b16, b17, b18, b19,
     b20, b21, b22, b23] => do
    let engine ← engineOfByte b0
    let phase ← phaseOfByte b1
    let dest ← destOfByte b2
    let lockReason ← lockReasonOfByte b3
    let current ← rowOfByte b6
    let target ← rowOfByte b7
    let available ← rowOfByte b8
    let demandRow ← rowOfByte b9
    let claim ← claimOfBytes b10 b11
    let intent ← intentOfBytes b12 b13
    let tempClass ← classOfByte b20
    let c : StatusContent :=
      { engine, phase, dest, lockReason, attempts := b4, crankCount := b5, current, target,
        available, demandRow, claim, intent,
        rated := natOfTwo b14 b15, avail := natOfTwo b16 b17, headroom := natOfTwo b18 b19,
        tempClass,
        settled := b21.getLsbD 7, stalled := b21.getLsbD 6, lubeStale := b21.getLsbD 5,
        resvStale := b21.getLsbD 4, coolStale := b21.getLsbD 3, battStale := b21.getLsbD 2,
        cabActive := b21.getLsbD 1, isolated := b21.getLsbD 0,
        derated := b22.getLsbD 7, laboring := b22.getLsbD 6, ground := b22.getLsbD 5,
        fuelHold := b22.getLsbD 4, handleFault := b22.getLsbD 3, demandLost := b22.getLsbD 2,
        demandConflict := b22.getLsbD 1, rosterFull := b22.getLsbD 0,
        lineFault := b23.getLsbD 1, configClamped := b23.getLsbD 0 }
    if statusValid c then some c else none
  | _ => none

/-- A kind's identifier code, which is also its order of arbitration (Chapter 11's kinds table). -/
def contentKind : Content → Nat
  | .fuelCut => 0 | .crankOn .. => 1 | .crankOff .. => 2 | .claim .. => 3 | .withdraw .. => 4
  | .demand .. => 5 | .step .. => 6 | .layoverIntent .. => 7 | .layoverCancel .. => 8
  | .status .. => 9 | .query .. => 10 | .reply .. => 11

/-- The mark the kinds table gives a kind: QUERY and REPLY are addressed (Chapter 11). -/
def kindAddressed (kind : Nat) : Bool := kind == 10 || kind == 11

/-- The payload bytes of a content (section 13.1). -/
def contentBytes : Content → List Byte
  | .fuelCut => []
  | .crankOn level serial => [level, serial]
  | .crankOff result level serial count => [result, level, serial, count]
  | .claim level serial => [level, serial]
  | .withdraw serial => [serial]
  | .demand row reverser brake serial => [row, reverser, brake, serial]
  | .step row => [row]
  | .layoverIntent serial => [serial]
  | .layoverCancel serial => [serial]
  | .status c => statusBytes c
  | .query dest kind part => [dest, kind, part]
  | .reply payload => payload

/-- How many roster items a REPLY's part carries of a roster of `count` entries (R162, R170). -/
def rosterItems (part count : Nat) : Nat :=
  if part = 0 then min count 4 else if part = 1 then min (count - 4) 3 else 0

/-- R170's length check of a REPLY payload: from its record kind, and for ATTEMPT, TRIP and ROSTER from
its own count fields. A record kind the table does not list has no length and fails. -/
def replyLengthOk (payload : List Byte) : Bool :=
  match payload with
  | _ :: kind :: rest =>
    match kind.toNat with
    | 0 => rest.length == 1
    | 1 =>
      match rest with
      | [] => false
      | present :: more =>
        if present = 0 then more.length == 0
        else
          match more with
          | _ :: _ :: _ :: n :: entries => entries.length == 5 * n.toNat
          | _ => false
    | 2 =>
      match rest with
      | [] => false
      | present :: more => if present = 0 then more.length == 0 else more.length == 14
    | 3 =>
      match rest with
      | part :: counts :: items => items.length == 6 * rosterItems part.toNat (counts.toNat % 8)
      | _ => false
    | 4 => rest.length == 10
    | _ => false
  | _ => false

/-- R160 step 5 for a content already read: the length and field values of R170. -/
def contentValid : Content → Bool
  | .crankOn level _ => decide (level.toNat ≤ 3)
  | .crankOff result level _ _ => decide (level.toNat ≤ 3) && decide (result.toNat ≤ 4)
  | .demand _ reverser brake serial =>
    decide (reverser.toNat ≤ 1) && decide (brake.toNat ≤ 1) && decide (serial.toNat ≤ 15)
  | .status c => statusValid c
  | .reply payload => replyLengthOk payload && decide (payload.length ≤ 32)
  | _ => true

/-- The content of a payload of the given kind, none where its length or a code is wrong (R160 step 5). -/
def contentOfBytes (kind : Nat) (payload : List Byte) : Option Content :=
  match kind, payload with
  | 0, [] => some .fuelCut
  | 1, [level, serial] => some (.crankOn level serial)
  | 2, [result, level, serial, count] => some (.crankOff result level serial count)
  | 3, [level, serial] => some (.claim level serial)
  | 4, [serial] => some (.withdraw serial)
  | 5, [row, reverser, brake, serial] => some (.demand row reverser brake serial)
  | 6, [row] => some (.step row)
  | 7, [serial] => some (.layoverIntent serial)
  | 8, [serial] => some (.layoverCancel serial)
  | 9, bytes => (statusOfBytes bytes).map .status
  | 10, [dest, kindAsked, part] => some (.query dest kindAsked part)
  | 11, bytes => some (.reply bytes)
  | _, _ => none

end Sys2Proof.Machine
end

