-- ==== Sys2Proof/Machine/Ops.lean ====
section
/-! DEFINITION. Ops.lean: the shared operations: the transmit queue, the claim and rotation lists, the start
sequencer's transitions, attempts and trips. A family's meanings are written over these. -/

namespace Sys2Proof.Machine

/-! ### The transmit queue (R157) -/

/-- The identifier code of a frame asked for. -/
def txKind : TxFrame → Nat
  | .made c => contentKind c
  | .status => 9
  | .reply _ _ _ => 11

/-- R157 step 3: the kind whose queued frame a request of this kind removes. -/
def cancelledKind : Nat → Option Nat
  | 4 => some 3
  | 3 => some 4
  | 8 => some 7
  | 7 => some 8
  | _ => none

/-- A frame joined in its place by identifier (R157 step 4). -/
def insertFrame (f : TxFrame) : List TxFrame → List TxFrame
  | [] => [f]
  | g :: gs => if txKind f < txKind g then f :: g :: gs else g :: insertFrame f gs

/-- R157 steps 2 to 5: a request taken into the queue. -/
def enqueue (f : TxFrame) (q : List TxFrame) : List TxFrame :=
  if q.any (fun g => txKind g == txKind f) then
    q.map (fun g => if txKind g = txKind f then f else g)
  else
    let q' := q.filter (fun g => decide (cancelledKind (txKind f) ≠ some (txKind g)))
    if q'.length < 8 then insertFrame f q'
    else
      match q'.getLast? with
      | some g => if txKind f < txKind g then insertFrame f q'.dropLast else q'
      | none => insertFrame f q'

/-- R157: a block asks for a frame. In DOWN or SILENT the request is not taken. -/
def requestFrame (f : TxFrame) (s : State) : State :=
  if s.link.state = .up then { s with link := { s.link with queue := enqueue f s.link.queue } }
  else s

/-- A request for a frame that carries the content given now (R158). -/
def requestMade (c : Content) (s : State) : State := requestFrame (.made c) s

/-! ### Claim list and rotation (Chapter 7) -/

/-- The claim-list entry of a unit. -/
def claimOf (who : Who) (claims : List Claim) : Option Claim :=
  claims.find? (fun c => c.who == who)

/-- The claim list without a unit's entry. -/
def dropClaim (who : Who) (claims : List Claim) : List Claim :=
  claims.filter (fun c => c.who != who)

/-- A unit's entry made, or put in place of the one it has: at most one entry for each unit (R110). -/
def putClaim (c : Claim) (claims : List Claim) : List Claim :=
  if claims.any (fun d => d.who == c.who) then
    claims.map (fun d => if d.who = c.who then c else d)
  else claims ++ [c]

/-- The entry is in CRANKING. -/
def isCranking (c : Claim) : Bool :=
  match c.state with
  | .cranking _ => true
  | .waiting => false

/-- The CRANKING count, the own entry included (R110). -/
def crankingCount (a : Arbiter) : Nat := (a.claims.filter isCranking).length

/-- The unit `x` stands ahead of `y` where the levels are equal: by rotation, but by unit number for the
station and a peer of the crossing list (R110, R124). -/
def tieAhead (unit : UnitNo) (a : Arbiter) (x y : Who) : Bool :=
  match x, y with
  | .own, .unit u =>
    if u ∈ a.crossing then decide (unit < u)
    else decide (a.rotation.idxOf x < a.rotation.idxOf y)
  | .unit u, .own =>
    if u ∈ a.crossing then decide (u < unit)
    else decide (a.rotation.idxOf x < a.rotation.idxOf y)
  | _, _ => decide (a.rotation.idxOf x < a.rotation.idxOf y)

/-- R110: one entry, ranked as WAITING, is ahead of another. -/
def claimAhead (unit : UnitNo) (a : Arbiter) (x y : Claim) : Bool :=
  decide (levelNum y.level < levelNum x.level)
    || (x.level == y.level && tieAhead unit a x.who y.who)

/-- The station's own entry; where there is none (no run asks then), the claim it would last have had. -/
def ownClaim (s : State) : Claim :=
  (claimOf .own s.arb.claims).getD
    { who := .own, level := s.seq.startLevel.getD .routine, serial := s.arb.ownSerial
      state := .waiting }

/-- R111: the own entry is removed, and the claim-posted and overlap timers stop. -/
def removeOwnClaim (s : State) : State :=
  { s with arb := { s.arb with
      claims := dropClaim .own s.arb.claims, claimTimer := none, overlapTimer := none } }

/-- R108: a unit of the rotation list is moved to its tail. -/
def toTail (who : Who) (rotation : List Who) : List Who :=
  if who ∈ rotation then rotation.filter (fun w => w != who) ++ [who] else rotation

/-- R108 and R124: the station or a peer is moved to the rotation tail; the moved peer leaves the crossing
list, and at the station's own move every peer does. -/
def moveToTail (who : Who) (s : State) : State :=
  { s with arb := { s.arb with
      rotation := toTail who s.arb.rotation
      crossing :=
        match who with
        | .own => []
        | .unit u => s.arb.crossing.filter (fun v => v != u) } }

/-- R21, R111: the own claim is posted as WAITING at the start level, with the kept serial where there is
one and otherwise the next, and CLAIM is queued. -/
def postOwnClaim (level : Level) (s : State) : State :=
  let serial := s.seq.keptSerial.getD (s.arb.ownSerial + 1)
  let counter := if s.seq.keptSerial.isSome then s.arb.ownSerial else s.arb.ownSerial + 1
  requestMade (.claim (levelByte level) serial)
    { s with
      seq := { s.seq with keptSerial := none }
      arb := { s.arb with
        claims := putClaim { who := .own, level, serial, state := .waiting } s.arb.claims
        ownSerial := counter, claimTimer := some 0 } }

/-! ### Engine-state transitions -/

/-- R75: what the stepper does when the engine state leaves RUNNING; its stagger timer is kept. -/
def clearStepper (s : State) : State :=
  { s with
    step := { stepperReset with stagger := s.step.stagger }
    prot := { s.prot with laboringCap := none } }

/-- R75: what the stepper sets at entry to RUNNING; its target is then computed under R77. -/
def startStepper (s : State) : State :=
  { s with step := { s.step with
      current := some 1, settled := true, dwell := some 0, settleTimer := none
      staggerHold := none, loadRow := some 1 } }

/-- R140: the committed own intent ends. -/
def endIntent (s : State) : State :=
  { s with layover := { s.layover with ownIntent := none, phase := .none } }

/-- The engine state is STOPPING, with any destination. -/
def isStopping : EngineState → Bool
  | .stopping _ => true
  | _ => false

/-- The engine state is STARTING, in any phase. -/
def isStarting : EngineState → Bool
  | .starting _ => true
  | _ => false

/-- R38: a link-silent station that would become STOPPED becomes INHIBITED(DUPLICATE). -/
def stateReached (s : State) (e : EngineState) : EngineState :=
  if e = .stopped ∧ linkSilent s then .inhibited .duplicate else e

/-- The sequencer's own items at a change of engine state: outside STARTING no phase or confirm timer
runs, the re-crank timer runs from 0 in RETRY-WAIT only (R33), and the turning watch ends when the state
leaves STOPPED (R168). -/
def changeSequencer (e : EngineState) (q : Sequencer) : Sequencer :=
  { q with
    engine := e
    phaseTimer := if isStarting e then q.phaseTimer else none
    confirmTimer := if isStarting e then q.confirmTimer else none
    prelubeDone := isStarting e && q.prelubeDone
    rolling := isStarting e && q.rolling
    rackOn := isStarting e && q.rackOn
    inBand := isStarting e && q.inBand
    recrankTimer := if e = .retryWait then some 0 else none
    turningWatch := if e = .stopped then q.turningWatch else none }

/-- R141, R140: the restart watch is active in LAYOVER only; a committed own intent ends when the state
leaves LAYOVER, or leaves STOPPING for any state but LAYOVER. -/
def changeLayover (before e : EngineState) (s : State) : State :=
  let s1 :=
    if s.layover.phase = .committed ∧ e ≠ .layover
        ∧ (before = .layover ∨ (isStopping before ∧ !isStopping e)) then endIntent s
    else s
  { s1 with layover := { s1.layover with
      watch := if e = .layover then .active none else .inactive } }

/-- Every change of engine state: the new state with what the blocks do on leaving the old and entering
the new. -/
def enterState (e : EngineState) (s : State) : State :=
  let before := s.seq.engine
  let e' := stateReached s e
  let s1 := { s with seq := changeSequencer e' s.seq }
  let s2 := if before = .running ∧ e' ≠ .running then clearStepper s1 else s1
  let s3 := if before ≠ .running ∧ e' = .running then startStepper s2 else s2
  changeLayover before e' s3

/-! ### The attempt record (R39) -/

/-- The elapsed time in the phase in ms, saturating at 16,777,215 (R39). -/
def phaseElapsed (s : State) : Nat := min (timerMs s.seq.phaseTimer) 16777215

/-- The last phase entry closed with the elapsed time and the speed. -/
def closeLast (elapsed speed : Nat) : List PhaseEntry → List PhaseEntry
  | [] => []
  | [_] => [{ elapsed, speed := some speed }]
  | e :: es => e :: closeLast elapsed speed es

/-- R39: the phase in progress is closed with the speed and elapsed time at this moment. -/
def closePhase (s : State) : State :=
  { s with seq := { s.seq with record := s.seq.record.map fun r =>
      { r with phases := closeLast (phaseElapsed s) s.meas.speed r.phases } } }

/-- R39: the attempt ends: the phase in progress is closed and the result written. -/
def endAttempt (result : AttemptResult) (s : State) : State :=
  let s1 := closePhase s
  { s1 with seq := { s1.seq with record := s1.seq.record.map fun r =>
      { r with result := some result } } }

/-- A later phase of the attempt is entered: the phase before is closed, an entry for the new one added,
and the phase timer restarted from 0 (R24, R25, R29, R39). -/
def enterPhase (phase : Phase) (s : State) : State :=
  let s1 := closePhase s
  { s1 with seq := { s1.seq with
      engine := .starting phase, phaseTimer := some 0, confirmTimer := none, prelubeDone := false
      record := s1.seq.record.map fun r =>
        { r with phases := r.phases ++ [{ elapsed := 0, speed := none }] } } }

/-! ### Starting -/

/-- R20: the profile the class standing at PREP entry chooses. -/
def chosenProfile (s : State) : ProfileId :=
  if s.meas.tempClass = .cold then .cold else .normal

/-- The profile that governs the attempt (R20). -/
def profileOf (p : Params) (s : State) : Config.StartProfile :=
  match s.seq.profile with
  | some .cold => p.startC
  | _ => p.startN

/-- R21: entry to STARTING/PREP at the present start level. -/
def enterPrep (s : State) : State :=
  let level := s.seq.startLevel.getD .routine
  let s1 := enterState (.starting .prep) s
  postOwnClaim level
    { s1 with seq := { s1.seq with
        prelubeDone := false, phaseTimer := some 0, confirmTimer := none, rolling := false
        rackOn := false, profile := some (chosenProfile s)
        record := some { level, number := s.seq.attempts + 1
                         phases := [{ elapsed := 0, speed := none }], result := none } } }

/-- R18 and R19: a start request. It is accepted in STOPPED and LAYOVER with RUN-ISOLATE on, the station
not link-silent and the engine still; in every other case it changes nothing. -/
def startRequest (p : Params) (level : Level) (s : State) : State :=
  if (s.seq.engine = .stopped ∨ s.seq.engine = .layover)
      ∧ lineOn p s .runIsolate ∧ !linkSilent s ∧ atRest p s then
    enterPrep { s with seq := { s.seq with
      attempts := 0, origLevel := some level, startLevel := some level } }
  else s

/-! ### How an own crank or claim ends -/

/-- The crank results' codes (R169). -/
def releasedByte : Byte := 0
/-- FAILED (R169). -/
def failedByte : Byte := 1
/-- STOPPED (R169). -/
def stoppedByte : Byte := 2
/-- FLOOR (R169). -/
def floorByte : Byte := 3
/-- YIELDED (R169). -/
def yieldedByte : Byte := 4

/-- An own crank ends with RELEASED, FAILED or STOPPED: the own claim is removed, the station moves to the
rotation tail, the crank count is incremented and CRANK-OFF is queued with the new count (R25, R31, R36,
R37, R40, R103). -/
def endCrankCounted (result : Byte) (s : State) : State :=
  let c := ownClaim s
  let s1 := moveToTail .own (removeOwnClaim s)
  let count := s1.seq.crankCount + 1
  requestMade (.crankOff result (levelByte c.level) c.serial count)
    { s1 with seq := { s1.seq with crankCount := count } }

/-- An own crank ends with FLOOR or YIELDED: the own claim is removed, rotation and crank count stand, and
CRANK-OFF is queued (R27, R28). -/
def endCrankUncounted (result : Byte) (s : State) : State :=
  let c := ownClaim s
  requestMade (.crankOff result (levelByte c.level) c.serial s.seq.crankCount) (removeOwnClaim s)

/-- The own claim of PREP is removed and WITHDRAW queued with its serial (R31, R36, R37). -/
def withdrawClaim (s : State) : State :=
  requestMade (.withdraw (ownClaim s).serial) (removeOwnClaim s)

/-- R36, R37: the kept claim serial of a yield is discarded and WITHDRAW queued with it. -/
def discardKept (s : State) : State :=
  match s.seq.keptSerial with
  | none => s
  | some serial =>
    requestMade (.withdraw serial) { s with seq := { s.seq with keptSerial := none } }

/-- R25: the crank ends RELEASED and the phase becomes FIRE. -/
def releaseCrank (s : State) : State := enterPhase .fire (endCrankCounted releasedByte s)

/-- R27: the crank ends FLOOR. -/
def floorCrank (s : State) : State :=
  enterState (.stopping .prep) (endAttempt .floor (endCrankUncounted floorByte s))

/-- R28: the crank ends YIELDED and its serial is kept. -/
def yieldCrank (s : State) : State :=
  let s1 := endAttempt .yielded (endCrankUncounted yieldedByte s)
  enterState (.stopping .prep)
    { s1 with seq := { s1.seq with keptSerial := some (ownClaim s).serial } }

/-- R23, R24, R111: entry to CRANK on the arbiter's grant. R24 acts on a threshold "at the first speed value that
reaches it" and does not say whether the value standing at the grant is one: the engine enters CRANK not marked
rolling and the rack off, and the next new value is the first judged (DESIGN CHOICE, notes/assumptions/25.md). -/
def enterCrank (s : State) : State :=
  let c := ownClaim s
  let s1 := enterPhase .crank s
  requestMade (.crankOn (levelByte c.level) c.serial)
    { s1 with
      seq := { s1.seq with rolling := false, rackOn := false }
      arb := { s1.arb with
        claims := putClaim { c with state := .cranking 0 } s1.arb.claims
        overlapTimer := some 0 } }

/-- R31: a counted failure of the attempt in progress; outside STARTING it changes nothing. -/
def failAttempt (p : Params) (result : AttemptResult) (s : State) : State :=
  match s.seq.engine with
  | .starting phase =>
    let s1 :=
      match phase with
      | .prep => withdrawClaim s
      | .crank => endCrankCounted failedByte s
      | .fire | .confirm => s
    let s2 := endAttempt result s1
    let count := s2.seq.attempts + 1
    enterState
      (.stopping (if p.crank.maxAttempts ≤ count then .lockedOut .attempts else .retryWait))
      { s2 with seq := { s2.seq with attempts := count } }
  | _ => s

/-! ### Trips (Chapter 3) and the stop push-button -/

/-- R37: the start sequencer's part of a trip, by state. -/
def tripRequest (reason : LockReason) (s : State) : State :=
  match s.seq.engine with
  | .starting phase =>
    let s1 :=
      match phase with
      | .prep => withdrawClaim s
      | .crank => endCrankCounted failedByte s
      | .fire | .confirm => s
    enterState (.stopping (.lockedOut reason)) (endAttempt .tripped s1)
  | .running | .retryWait | .layover | .stopped => enterState (.stopping (.lockedOut reason)) s
  | .stopping dest =>
    match dest with
    | .lockedOut _ => s
    | .prep => enterState (.stopping (.lockedOut reason)) (discardKept s)
    | .stopped | .retryWait | .layover => enterState (.stopping (.lockedOut reason)) s
  | .lockedOut _ | .inhibited _ => s

/-- R57: the trip record as the values stand. -/
def tripRecordOf (reason : LockReason) (source : Option CutSource) (s : State) : TripRecord :=
  { reason, source, engine := s.seq.engine
    row := if s.seq.engine = .running then s.step.current else none
    speed := s.meas.speed, stalled := s.meas.stalled
    cool := freshValue s.meas.cool, lube := freshValue s.meas.lube }

/-- R54: a trip: the record, the latch, the fuel-cut hold from 0, and the request to the sequencer. In
INHIBITED no trip is taken. -/
def trip (reason : LockReason) (source : Option CutSource) (s : State) : State :=
  if isInhibited s then s
  else
    tripRequest reason
      { s with prot := { s.prot with
          record := some (tripRecordOf reason source s), tripLatch := true, holdTimer := some 0 } }

/-- R36: a press of STOP-PB, by state. Leaving LOCKED-OUT clears the trip latch and withdraws the off command on
LOAD-PERMIT, which a GROUND-RELAY that is on gives again in the same step (R56, R47). -/
def stopPress (p : Params) (s : State) : State :=
  match s.seq.engine with
  | .starting phase =>
    let clear (t : State) : State := { t with seq := { t.seq with attempts := 0 } }
    match phase with
    | .prep => enterState .stopped (clear (endAttempt .stopped (withdrawClaim s)))
    | .crank =>
      enterState (.stopping .stopped) (clear (endAttempt .stopped (endCrankCounted stoppedByte s)))
    | .fire | .confirm => enterState (.stopping .stopped) (clear (endAttempt .stopped s))
  | .running => enterState (.stopping .stopped) s
  | .stopping dest =>
    match dest with
    | .lockedOut _ => s
    | .prep => enterState (.stopping .stopped) (discardKept s)
    | .stopped | .retryWait | .layover => enterState (.stopping .stopped) s
  | .retryWait | .layover => enterState .stopped s
  | .lockedOut _ =>
    if atRest p s ∧ !fuelHold s then
      enterState .stopped { s with prot := { s.prot with tripLatch := false, groundOff := false } }
    else s
  | .stopped | .inhibited _ => s

/-- R38: the start sequencer's part of a duplicate unit number, once the link is SILENT. In PREP, whatever the
speed, STOPPING passes at once to STOPPED, which is INHIBITED(DUPLICATE) by then. -/
def silenceSequencer (s : State) : State :=
  match s.seq.engine with
  | .starting phase =>
    let s1 := endAttempt .stopped (removeOwnClaim s)
    enterState (if phase = .prep then .stopped else .stopping .stopped)
      { s1 with seq := { s1.seq with attempts := 0 } }
  | .stopping dest =>
    let s1 := { s with seq := { s.seq with keptSerial := none } }
    match dest with
    | .prep | .retryWait | .layover => enterState (.stopping .stopped) s1
    | .stopped | .lockedOut _ => s1
  | .retryWait | .layover | .stopped => enterState .stopped s
  | .running | .lockedOut _ | .inhibited _ => s

/-- R34: the STOPPING station's engine is at rest: the stop destination is entered. -/
def arriveAt (dest : StopDest) (s : State) : State :=
  match dest with
  | .stopped => enterState .stopped { s with seq := { s.seq with attempts := 0 } }
  | .retryWait => enterState .retryWait s
  | .lockedOut reason => enterState (.lockedOut reason) s
  | .layover => enterState .layover s
  | .prep => enterPrep s

/-! ### Crossing cranks (R122 to R124) -/

/-- R114, R122: a peer's entry has become CRANKING. Where the station is in CRANK within its overlap window
and the count exceeds C, the pair is ranked, the peer joins the crossing list, and the station yields if
the peer stands ahead. A peer whose entry has ceased to be CRANKING and becomes so again within one overlap window
is judged again (DESIGN CHOICE, notes/assumptions/31.md). -/
def judgeCrossing (p : Params) (u : UnitNo) (s : State) : State :=
  if s.seq.engine = .starting .crank ∧ s.arb.overlapTimer.isSome
      ∧ p.crank.maxCranking < crankingCount s.arb then
    match claimOf (.unit u) s.arb.claims with
    | none => s
    | some c =>
      let crossed :=
        { s with arb := { s.arb with
            crossing := if u ∈ s.arb.crossing then s.arb.crossing else s.arb.crossing ++ [u] } }
      if claimAhead p.unit s.arb c (ownClaim s) then yieldCrank crossed else crossed
  else s

end Sys2Proof.Machine
end

