-- ==== Sys2Proof/Machine/Settle.lean ====
section
/-! DEFINITION. Settle.lean: what follows at once from a change. The rules hand each new value to the blocks that
read it "at the moment" it changes; here those blocks' conditions are judged, block by block, after a
command's own effect, until nothing more follows (notes/assumptions/6.md). -/

namespace Sys2Proof.Machine

/-- The lesser of two rows. -/
def rowMin (a b : Row) : Row := if a.val ≤ b.val then a else b

/-- A cap in the arithmetic of R43: none counts as row 9. -/
def capRow (c : Option Row) : Row := c.getD 9

/-- A timer that runs while a condition holds: started from 0 when it becomes true, running on while it
stays true, stopped when it ceases. -/
def timerWhile (holds : Bool) (t : Timer) : Timer :=
  if holds then some (t.getD 0) else none

/-! ### Demand unit: the own record (R65, R66) -/

/-- The DEMAND a record asks for (R66, section 13.1). -/
def demandContent (r : OwnRecord) : Content :=
  .demand (rowByte (some r.row)) (markByte r.centred) (markByte r.brake)
    (BitVec.ofNat 8 r.serial.val)

/-- R65: the own record as its four parts stand. -/
def ownRecordNow (p : Params) (s : State) : OwnRecord :=
  { row := s.demand.handle, centred := lineOn p s .reverserCentre, brake := lineOn p s .brakeSet
    serial := s.demand.ownSerial }

/-- R65 and R66: the own record is rebuilt at a change of a part, and in OWN its DEMAND is asked for. -/
def settleOwnRecord (p : Params) (s : State) : State :=
  let r := ownRecordNow p s
  if r = s.demand.ownRecord then s
  else
    let s1 := { s with demand := { s.demand with ownRecord := r } }
    if s.demand.source = .own then requestMade (demandContent r) s1 else s1

/-! ### Protection unit: the caps (R43 to R47) -/

/-- R44: the hot cap, the least cap of the latches that are set. -/
def hotCapOf (p : Params) (d1 d2 hot : Bool) : Option Row :=
  if d1 || d2 || hot then
    some (rowMin (if d1 then p.protect.derate1Cap else 9)
      (rowMin (if d2 then p.protect.derate2Cap else 9) (if hot then 1 else 9)))
  else none

/-- R43: the available row under four caps. -/
def availableOf (hot lubeStale gnd labor : Option Row) : Row :=
  rowMin (capRow hot) (rowMin (capRow lubeStale) (rowMin (capRow gnd) (capRow labor)))

/-- R46: the lube-stale cap's condition. -/
def lubeStaleHolds (s : State) : Bool := isRunning s && (freshValue s.meas.lube).isNone

/-- R47: the ground cap's condition. -/
def groundHolds (p : Params) (s : State) : Bool :=
  lineOn p s .groundRelay || s.lines.loadPermit.present == .sensedOn

/-- R47: the off command on LOAD-PERMIT: given while GROUND-RELAY is on, and withdrawn at the moment neither of
the ground cap's conditions holds (notes/assumptions/24.md). -/
def groundOffAfter (p : Params) (s : State) : Bool :=
  lineOn p s .groundRelay || (s.prot.groundOff && groundHolds p s)

/-- R43 to R47: the caps, the ground off command and the available row as their conditions stand. -/
def settleCaps (p : Params) (s : State) : State :=
  let hot := hotCapOf p s.prot.derate1 s.prot.derate2 s.prot.hotStop
  let stale := if lubeStaleHolds s then some 1 else none
  let gnd := if groundHolds p s then some 1 else none
  { s with prot := { s.prot with
      hotCap := hot, lubeStaleCap := stale, groundCap := gnd, groundOff := groundOffAfter p s
      available := availableOf hot stale gnd s.prot.laboringCap } }

/-! ### Make-up calculator (Chapter 8) -/

/-- The three published figures of a station (section 8.2). -/
structure Figures where
  rated : Nat
  avail : Nat
  headroom : Nat
deriving DecidableEq, Repr

/-- Row H + M cut to row 9 and to V (R127, R131). -/
def makeUpTop (p : Params) (h v : Row) : Row :=
  rowMin (Fin.ofNat 10 (min (h.val + p.step.makeUpLimit) 9)) v

/-- R127: the station's R, A and h as the values stand. -/
def ownFigures (p : Params) (s : State) : Figures :=
  let h := (demandInForce s).row
  let v := s.prot.available
  let t := tableInForce p s
  let gives := isRunning s && !isolated s
  if h.val < 2 then { rated := 0, avail := 0, headroom := 0 }
  else
    { rated := powerOf t h
      avail := if gives && !linkSilent s then powerOf t (rowMin h v) else 0
      headroom :=
        if gives && decide (h.val ≤ v.val) && p.step.makeUpEnable then
          powerOf t (makeUpTop p h v) - powerOf t h
        else 0 }

/-- R128: the status parts of the peers counted, in unit order. -/
def countedPeers (s : State) : List (UnitNo × StatusContent) :=
  s.roster.entries.filterMap fun e => e.status.map fun c => (e.unit, c)

/-- R130: the extra. -/
def extraOf (p : Params) (h : Row) (shortfall total headroom : Nat) : Nat :=
  if p.step.makeUpEnable ∧ 1 ≤ p.step.makeUpLimit ∧ 2 ≤ h.val
      ∧ 0 < shortfall ∧ 0 < total ∧ 0 < headroom then
    min headroom (shortfall * headroom / total)
  else 0

/-- R131: the highest row from `low` to `low + n` whose power is within the target power, found from the
top. -/
def highestRow (t : Config.NotchTable) (target : Nat) (low : Row) : Nat → Row
  | 0 => low
  | n + 1 =>
    let r : Row := Fin.ofNat 10 (min (low.val + n + 1) 9)
    if powerOf t r ≤ target then r else highestRow t target low n

/-- R131: the make-up row of an extra. -/
def makeUpRowOf (p : Params) (t : Config.NotchTable) (h v : Row) (extra : Nat) : Option Row :=
  if extra = 0 then none
  else
    let r := highestRow t (powerOf t h + extra) h ((makeUpTop p h v).val - h.val)
    if r = h then none else some r

/-- R129 to R131: one run, from the values as they stand. -/
def makeUpRun (p : Params) (s : State) : MakeUp :=
  let own := ownFigures p s
  let peers := countedPeers s
  let h := (demandInForce s).row
  let shortfall := (peers.map fun e => e.2.rated - e.2.avail).sum
  let total := own.headroom + (peers.map fun e => e.2.headroom).sum
  let extra := extraOf p h shortfall total own.headroom
  { rated := own.rated, avail := own.avail, headroom := own.headroom, shortfall, total
    counted := peers.map (·.1), extra
    row := makeUpRowOf p (tableInForce p s) h s.prot.available extra }

/-- R132: the calculator runs. It runs too at the moment the station goes link-silent, which R132 does not name, so
that the own A it holds is 0 from then on (DESIGN CHOICE, notes/assumptions/32.md). -/
def settleMakeUp (p : Params) (s : State) : State := { s with makeUp := makeUpRun p s }

/-! ### Notch stepper (Chapter 5) -/

/-- R78: the low-idle condition. -/
def lowIdleHolds (p : Params) (s : State) : Bool :=
  p.step.lowIdleEnable && isRunning s && (demandInForce s).row == 1 && (demandInForce s).centred
    && s.meas.tempClass != .cold

/-- R78: the low-idle timer runs while the condition holds; a break clears it and low idle reached. -/
def settleLowIdle (p : Params) (s : State) : State :=
  let holds := lowIdleHolds p s
  { s with step := { s.step with
      lowIdleTimer := timerWhile holds s.step.lowIdleTimer
      lowIdleReached := holds && s.step.lowIdleReached } }

/-- R77: the wanted row: the demand row, or the make-up row where it is above it. -/
def wantedRow (s : State) : Row :=
  let h := (demandInForce s).row
  match s.makeUp.row with
  | none => h
  | some r => if h.val < r.val then r else h

/-- R77: the computed target, before low idle. -/
def computedTarget (s : State) : Row :=
  rowMin (rowMin (wantedRow s) s.prot.available)
    (if isolated s || linkSilent s then 1 else 9)

/-- R77: the target row in RUNNING. -/
def targetRow (s : State) : Row :=
  if computedTarget s = 1 ∧ s.step.lowIdleReached then 0 else computedTarget s

/-- R77: the target row; there is none outside RUNNING. -/
def settleTarget (s : State) : State :=
  { s with step := { s.step with
      target := if isRunning s then some (targetRow s) else none } }

/-- The target row lies below the current row. -/
def targetBelow (s : State) : Bool :=
  match s.step.current, s.step.target with
  | some c, some t => decide (t.val < c.val)
  | _, _ => false

/-- R79, R48: the report of a target below the current row clears the laboring cap. -/
def settleReport (s : State) : State :=
  if targetBelow s then { s with prot := { s.prot with laboringCap := none } } else s

/-- R84, R91: the row settles when the speed stands within the band; the settle timer stops, the laboring
cap of this row clears and the load-reference row becomes the current row. -/
def settleRow (p : Params) (s : State) : State :=
  match s.step.current with
  | none => s
  | some r =>
    if !s.step.settled && inBandOf (tableInForce p s) r s.meas.speed then
      { s with
        step := { s.step with settled := true, settleTimer := none, loadRow := some r }
        prot := { s.prot with
          laboringCap := if s.prot.laboringCap = some r then none else s.prot.laboringCap } }
    else s

/-- R50: the lube trip condition. -/
def lubeTripHolds (p : Params) (s : State) : Bool :=
  isRunning s &&
    match freshValue s.meas.lube, s.step.current with
    | some v, some r => decide (v < ((rowOf (tableInForce p s) r).lubeMin : Int))
    | _, _ => false

/-- R50: the lube trip timer runs while its condition holds. -/
def settleLubeTimer (p : Params) (s : State) : State :=
  { s with prot := { s.prot with lubeTimer := timerWhile (lubeTripHolds p s) s.prot.lubeTimer } }

/-- R88: a peer of the roster is ahead of the station at row `r`. -/
def entryAhead (unit : UnitNo) (r : Row) (e : RosterEntry) : Bool :=
  match e.status with
  | none => false
  | some c =>
    c.engine == .running && !c.isolated && c.current == some r
      && (match c.target with
          | some t => decide (r.val < t.val)
          | none => false)
      && decide (e.unit < unit)

/-- R88: some peer is ahead. -/
def peerAhead (p : Params) (s : State) (r : Row) : Bool :=
  s.roster.entries.any (entryAhead p.unit r)

/-- R87: the stagger interval is passed. -/
def staggerPassed (p : Params) (s : State) : Bool :=
  match s.step.stagger with
  | none => true
  | some _ => timerReached s.step.stagger p.step.stagger

/-- R81 without the stagger rule: target above, settled, and the up-dwell spent. -/
def stepUpReady (p : Params) (s : State) (r : Row) : Bool :=
  (match s.step.target with
   | some t => decide (r.val < t.val)
   | none => false)
  && s.step.settled
  && timerReached s.step.dwell (upDwell (tableInForce p s) r s.meas.tempClass)

/-- R81, R87 to R89: a step up is permitted. -/
def stepUpHolds (p : Params) (s : State) (r : Row) : Bool :=
  stepUpReady p s r && staggerPassed p s
    && (!peerAhead p s r || timerReached s.step.staggerHold (3 * p.step.stagger))

/-- R82: a step down is permitted. -/
def stepDownHolds (p : Params) (s : State) : Bool :=
  targetBelow s && timerReached s.step.dwell (tableInForce p s).downDwell

/-- The next row up; N8 has none. -/
def rowUp (r : Row) : Row := Fin.ofNat 10 (min (r.val + 1) 9)

/-- The next row down; LO has none. -/
def rowDown (r : Row) : Row := Fin.ofNat 10 (r.val - 1)

/-- R83, items 1 to 6: a step to `r`, with the load-reference row R91 leaves. -/
def moveRow (r : Row) (loadRow : Option Row) (s : State) : State :=
  { s with step := { s.step with
      current := some r, settled := false, settleTimer := some 0, dwell := some 0
      staggerHold := none, loadRow } }

/-- R83: a step up from `r`, with its STEP frame (R90). -/
def stepUp (r : Row) (s : State) : State :=
  requestMade (.step (rowByte (some (rowUp r)))) (moveRow (rowUp r) s.step.loadRow s)

/-- R83: a step down from `r`; the load-reference row follows at once (R91). -/
def stepDown (r : Row) (s : State) : State := moveRow (rowDown r) (some (rowDown r)) s

/-- After a step the new row's lube minimum is judged (R50) and settling begins with the speed that
stands (R83). -/
def afterStep (p : Params) (s : State) : State := settleRow p (settleLubeTimer p s)

/-- R81, R82: steps taken at this moment, one row at a time; a row whose dwell is 0 may be left at once.
There are ten rows, so at most nine steps follow one another. -/
def settleSteps (p : Params) : Nat → State → State
  | 0, s => s
  | n + 1, s =>
    match s.step.current with
    | none => s
    | some r =>
      if stepUpHolds p s r then settleSteps p n (afterStep p (stepUp r s))
      else if stepDownHolds p s then settleSteps p n (afterStep p (stepDown r s))
      else s

/-- R89: the stagger-hold timer runs while only a peer ahead holds the step back. -/
def settleStaggerHold (p : Params) (s : State) : State :=
  let holds :=
    match s.step.current with
    | none => false
    | some r => stepUpReady p s r && staggerPassed p s && peerAhead p s r
  { s with step := { s.step with staggerHold := timerWhile holds s.step.staggerHold } }

/-- R92: the stepper's LOAD-PERMIT command. -/
def loadPermitHolds (p : Params) (s : State) : Bool :=
  isRunning s && !isolated s && !(demandInForce s).centred && !lineOn p s .groundRelay
    && match s.step.loadRow with
       | some r => decide (2 ≤ r.val)
       | none => false

/-- R92: the LOAD-PERMIT command is judged again. -/
def settleLoadPermit (p : Params) (s : State) : State :=
  { s with step := { s.step with loadPermit := loadPermitHolds p s } }

/-- Chapter 5 at one moment: low idle, target and its report, steps, the stagger hold and the LOAD-PERMIT
command. Settling is judged only at a new speed value, at a step, and where R76 unsettles the row. -/
def settleStepper (p : Params) (s : State) : State :=
  settleLoadPermit p (settleStaggerHold p (settleSteps p 9
    (settleReport (settleTarget (settleLowIdle p s)))))

/-! ### Timers that run with a condition (R22, R30, R50, R51) -/

/-- R22: prelube is done in PRESSURE mode once a fresh LUBE stands at the prelube pressure. -/
def settlePrelube (p : Params) (s : State) : State :=
  if s.seq.engine = .starting .prep ∧ (profileOf p s).mode = .pressure
      ∧ freshAtLeast s.meas.lube (profileOf p s).prelubePressure then
    { s with seq := { s.seq with prelubeDone := true } }
  else s

/-- R30: both conditions of the confirm timer. -/
def confirmHolds (p : Params) (s : State) : Bool :=
  s.seq.engine == .starting .confirm && s.seq.inBand
    && freshAtLeast s.meas.lube (profileOf p s).confirmLube

/-- R30: the confirm timer runs while both its conditions hold. -/
def settleConfirm (p : Params) (s : State) : State :=
  { s with seq := { s.seq with confirmTimer := timerWhile (confirmHolds p s) s.seq.confirmTimer } }

/-- R51: the hot-stop condition. -/
def hotStopHolds (s : State) : Bool :=
  s.prot.hotStop && (freshValue s.meas.cool).isSome && isRunning s

/-- R51: the hot-stop timer runs while its condition holds. -/
def settleHotTimer (s : State) : State :=
  { s with prot := { s.prot with hotTimer := timerWhile (hotStopHolds s) s.prot.hotTimer } }

/-! ### Layover unit (Chapter 9) -/

/-- R136: a peer counts towards q. -/
def countsRunning (unit : UnitNo) (e : RosterEntry) : Bool :=
  match e.status with
  | none => false
  | some c => c.engine == .running && !(e.intent.isSome && decide (e.unit < unit))

/-- R136: q. -/
def runningPeers (p : Params) (s : State) : Nat :=
  (s.roster.entries.filter (countsRunning p.unit)).length

/-- R134: the station is eligible. -/
def eligibleNow (p : Params) (s : State) : Bool :=
  p.layover.enable && isRunning s
    && (s.step.current == some 0 || s.step.current == some 1)
    && (demandInForce s).row == 1 && (demandInForce s).centred && (demandInForce s).brake
    && freshAtLeast s.meas.cool p.layover.coolMin
    && freshAtLeast s.meas.batt p.layover.battMin
    && freshAtLeast s.meas.resv p.layover.resvMin
    && !demandConflict s && !linkSilent s

/-- R138: the own intent is cancelled and LAYOVER-CANCEL queued. -/
def cancelIntent (s : State) : State :=
  let s1 :=
    { s with layover := { s.layover with
        ownIntent := none, phase := .none, holdTimer := none
        idle := if s.layover.eligible then .running 0 else .stopped } }
  match s.layover.ownIntent with
  | none => s1
  | some serial => requestMade (.layoverCancel serial) s1

/-- R137: an intent is announced. -/
def announceIntent (s : State) : State :=
  let serial := s.layover.serial + 1
  requestMade (.layoverIntent serial)
    { s with layover := { s.layover with
        serial, ownIntent := some serial, phase := .announced, holdTimer := some 0 } }

/-- R135: the idle timer at a judgement of eligibility. -/
def idleAfter (l : LayoverUnit) (eligible : Bool) : IdleTimer :=
  if eligible && !l.eligible then .running 0
  else if !eligible && l.eligible && l.phase != .committed then .stopped
  else l.idle

/-- R133: the count the unit holds. It stands as it is once the station is link-silent, since the layover
unit has then stopped for good. -/
def countNow (p : Params) (s : State) : Nat :=
  if linkSilent s then s.layover.q else runningPeers p s

/-- R133 to R138: q and eligibility are judged; a break of eligibility cancels an announced intent, and an
intent is announced at the first moment its conditions hold. -/
def settleEligible (p : Params) (s : State) : State :=
  let eligible := eligibleNow p s
  let s1 :=
    { s with layover := { s.layover with
        q := countNow p s
        eligible, idle := idleAfter s.layover eligible } }
  if s1.layover.phase = .announced ∧ !eligible then cancelIntent s1
  else if s1.layover.phase = .none ∧ s1.layover.idle = .reached ∧ eligible
      ∧ p.layover.quota ≤ s1.layover.q then
    announceIntent s1
  else s1

/-- R142: the standing level, the highest among the triggers that hold. -/
def standingLevel (p : Params) (s : State) : Option Level :=
  let low (c : ChannelState) (bound : Int) : Bool := !freshAtLeast c (bound + 1)
  if low s.meas.cool p.layover.restartTemp || low s.meas.batt p.layover.restartVolt
      || low s.meas.resv p.layover.restartPress then some .protect
  else if decide (1 < (demandInForce s).row.val) || !(demandInForce s).centred
      || !(demandInForce s).brake then some .demand
  else if decide (runningPeers p s < p.layover.quota) then some .quota
  else none

/-- Levels with none below them all. -/
def levelRank : Option Level → Nat
  | none => 0
  | some l => levelNum l + 1

/-- R141, R143: the restart watch judges its triggers and asks for a start where the level rises. -/
def settleWatch (p : Params) (s : State) : State :=
  match s.layover.watch with
  | .inactive => s
  | .active old =>
    let new := standingLevel p s
    let s1 := { s with layover := { s.layover with watch := .active new } }
    match new with
    | none => s1
    | some level => if levelRank old < levelRank new then startRequest p level s1 else s1

/-! ### Crank arbiter: the grant (R118) -/

/-- R118 (d): the own entry is WAITING and ahead of every other WAITING entry. -/
def ownFirst (p : Params) (s : State) : Bool :=
  match claimOf .own s.arb.claims with
  | none => false
  | some own =>
    !isCranking own && s.arb.claims.all fun c =>
      c.who == .own || isCranking c || claimAhead p.unit s.arb own c

/-- R118: all grant conditions, (a) to (g). -/
def grantHolds (p : Params) (s : State) : Bool :=
  s.seq.engine == .starting .prep && s.seq.prelubeDone
    && timerReached s.arb.claimTimer p.crank.claimSettle
    && timerReached s.arb.joinTimer (2 * p.link.statusPeriod)
    && ownFirst p s
    && decide (crankingCount s.arb < p.crank.maxCranking)
    && freshAtLeast s.meas.resv p.crank.startPressure
    && atRest p s

/-- R118: the grant is handed to the start sequencer at the first moment all conditions hold. -/
def settleGrant (p : Params) (s : State) : State :=
  if grantHolds p s then enterCrank s else s

/-! ### Line driver (Chapter 10) -/

/-- R148, R150, R152: a line under its resolved command and its sensed state. Agreement stops the mismatch
timer and clears the present fault; a mismatch newly entered starts the timer from 0. -/
def judgeLine (command sense : Bool) (l : OutputLine) : OutputLine :=
  if command = sense then { l with command, mismatch := none, present := .none }
  else if command ≠ l.command ∨ (l.mismatch = none ∧ l.present = .none) then
    { l with command, mismatch := some 0, present := .none }
  else { l with command }

/-- R149, R93, R35: the SPEED-SET duty. -/
def speedSetOf (p : Params) (s : State) : Nat :=
  match s.seq.engine with
  | .running =>
    match s.step.current with
    | some r => speedDuty (tableInForce p s) r
    | none => 0
  | .starting _ => speedDuty (tableInForce p s) 1
  | _ => 0

/-- R94, R149: the LOAD-REF duty, under LOAD-PERMIT's resolved command. -/
def loadRefOf (p : Params) (s : State) (permit : Bool) : Nat :=
  if permit then
    match s.step.loadRow with
    | some r => loadDuty (tableInForce p s) r
    | none => 0
  else 0

/-- R153: FAULT-LAMP's condition. -/
def faultLampOf (s : State) : Bool :=
  (match s.seq.engine with
   | .lockedOut _ | .inhibited _ => true
   | _ => false)
  || linkSilent s || s.demand.handleFault || lineFault s || s.roster.full || demandConflict s
  || demandLost s

/-- R148 to R152: every on/off output and both duties are settled. -/
def settleOutputs (p : Params) (s : State) : State :=
  { s with lines := { s.lines with
      fuelPump := judgeLine (resolvedCommand s .fuelPump) (sensedOn s .fuelPump)
        s.lines.fuelPump
      prelube := judgeLine (resolvedCommand s .prelube) (sensedOn s .prelube) s.lines.prelube
      crankValve := judgeLine (resolvedCommand s .crankValve) (sensedOn s .crankValve)
        s.lines.crankValve
      rackEnable := judgeLine (resolvedCommand s .rackEnable) (sensedOn s .rackEnable)
        s.lines.rackEnable
      loadPermit := judgeLine (resolvedCommand s .loadPermit) (sensedOn s .loadPermit)
        s.lines.loadPermit
      speedSet := speedSetOf p s
      loadRef := loadRefOf p s (resolvedCommand s .loadPermit) } }

/-- R153: the lamps follow their conditions. -/
def settleLamps (s : State) : State :=
  { s with lines := { s.lines with
      runLamp := isRunning s
      layoverLamp := s.seq.engine == .layover
      faultLamp := faultLampOf s } }

/-! ### Start sequencer: arrival at rest (R34) -/

/-- R34: a STOPPING station whose speed is below the stopped speed enters its stop destination. The outputs
are settled as STOPPING has them before the destination commands them again (R148, R150). -/
def settleArrival (p : Params) (s : State) : State :=
  match s.seq.engine with
  | .stopping dest => if atRest p s then arriveAt dest (settleOutputs p s) else s
  | _ => s

/-! ### All blocks -/

/-- One round: each block judges its conditions once. -/
def settleRound (p : Params) (s : State) : State :=
  let s1 := settleOwnRecord p (settleArrival p s)
  let s2 := settleStepper p (settleMakeUp p (settleCaps p s1))
  let s3 := settleHotTimer (settleLubeTimer p (settleConfirm p (settlePrelube p s2)))
  let s4 := settleGrant p (settleWatch p (settleEligible p s3))
  settleLamps (settleOutputs p s4)

/-- What follows at once from a command's own effect. One block's new value reaches another over at most
three rounds: a stop whose destination is entered, a fault that clears a cap, and the step that follows
(notes/assumptions/6.md). -/
def settle (p : Params) (s : State) : State := settleRound p (settleRound p (settleRound p s))

/-- What a command does to the blocks once the applied set has been handed over. Before handover, and
after a read that FAILED, no block acts on any event (R5, R17, R42, R59, R107, R133, R146, R155). -/
def withParams (s : State) (f : Params → State) : State :=
  match s.reader.applied with
  | none => s
  | some p => f p

end Sys2Proof.Machine
end

