-- ==== Sys2Proof/Machine/Measurement.lean ====
section
/-! DEFINITION. Measurement.lean: Chapter 1: the speed gate, the converter port, channel windows and the temperature
class, with what a new value does in the blocks that read it at that moment. -/

namespace Sys2Proof.Machine

/-! ### A new speed value -/

/-- R24, R25: a new speed value in CRANK against the profile's three thresholds. -/
def speedInCrank (p : Params) (s : State) : State :=
  let v := s.meas.speed
  let s1 :=
    { s with seq := { s.seq with
        rolling := s.seq.rolling || decide ((profileOf p s).rollSpeed ≤ v)
        rackOn := s.seq.rackOn || decide ((profileOf p s).fuelOnSpeed ≤ v) } }
  if (profileOf p s).releaseSpeed ≤ v then releaseCrank s1 else s1

/-- R29, R30: entry to CONFIRM, with the speed that led to it judged against the ID band. -/
def enterConfirm (p : Params) (s : State) : State :=
  let s1 := enterPhase .confirm s
  { s1 with seq := { s1.seq with inBand := inBandOf (tableInForce p s) 1 s.meas.speed } }

/-- R29: the speed has reached the ID setpoint less the confirm band. -/
def reachesIdle (p : Params) (s : State) : Bool :=
  decide ((rowOf (tableInForce p s) 1).setpoint ≤ s.meas.speed + (tableInForce p s).band)

/-- R29, R30: the speed lies below the profile's roll speed. -/
def belowRoll (p : Params) (s : State) : Bool := decide (s.meas.speed < (profileOf p s).rollSpeed)

/-- One free choice is used up (notes/assumptions/5.md). -/
def useChoice (s : State) : State := { s with choices := s.choices + 1 }

/-- R29: a new speed value in FIRE. Where the ID threshold lies below the roll speed, one value may meet
both conditions; which then acts is free. -/
def speedInFire (p : Params) (s : State) : State :=
  if reachesIdle p s ∧ belowRoll p s then
    if Config.freeChoice s.choices then enterConfirm p (useChoice s)
    else failAttempt p .noRun (useChoice s)
  else if reachesIdle p s then enterConfirm p s
  else if belowRoll p s then failAttempt p .noRun s
  else s

/-- R30: a new speed value in CONFIRM. -/
def speedInConfirm (p : Params) (s : State) : State :=
  if belowRoll p s then failAttempt p .noConfirm s
  else { s with seq := { s.seq with inBand := inBandOf (tableInForce p s) 1 s.meas.speed } }

/-- R168: a new speed value in STOPPED while the turning watch runs. -/
def speedInStopped (p : Params) (s : State) : State :=
  if s.seq.turningWatch.isSome ∧ p.sense.stoppedSpeed < s.meas.speed then
    enterState (.stopping .stopped) s
  else s

/-- R143: the restart watch asks again at its standing level. -/
def askAgain (p : Params) (s : State) : State :=
  match s.layover.watch with
  | .active (some level) => startRequest p level s
  | .active none | .inactive => s

/-- The start sequencer's, the restart watch's and, in RUNNING, the notch stepper's judgement of a new speed
value (R84). Arrival at rest (R34) is judged with the other conditions that follow. -/
def speedSequencer (p : Params) (s : State) : State :=
  match s.seq.engine with
  | .starting phase =>
    match phase with
    | .prep => s
    | .crank => speedInCrank p s
    | .fire => speedInFire p s
    | .confirm => speedInConfirm p s
  | .stopped => speedInStopped p s
  | .layover => if atRest p s then askAgain p s else s
  | .running => settleRow p s
  | .stopping _ | .retryWait | .lockedOut _ | .inhibited _ => s

/-- R49: the new speed value is at or above the overspeed limit and the value compared before was below. -/
def overspeedDue (p : Params) (s : State) : Bool :=
  decide (p.protect.overspeed ≤ s.meas.speed) && decide (s.prot.lastSpeed < p.protect.overspeed)
    && !isInhibited s

/-- R49: the new speed value becomes the value compared. -/
def compareSpeed (s : State) : State :=
  { s with prot := { s.prot with lastSpeed := s.meas.speed } }

/-- R2, R49: a new speed value is offered to the other blocks. A trip for OVERSPEED and another block's
effect of the same value come in either order (R49), which is free. -/
def offerSpeed (p : Params) (s : State) : State :=
  if overspeedDue p s then
    if Config.freeChoice s.choices then
      settle p (trip .overspeed none
        (settle p (speedSequencer p (compareSpeed (useChoice s)))))
    else
      settle p (speedSequencer p
        (settle p (trip .overspeed none (compareSpeed (useChoice s)))))
  else settle p (speedSequencer p (compareSpeed s))

/-! ### The gate -/

/-- A gate just started (R1). -/
def newGate : Gate := { state := .timing, count := 0, counter := 0, stall := some 0 }

/-- R2: the speed of a gate of G pulses and T teeth completed at counter value E. -/
def gateSpeed (teeth gate counter : Nat) : Nat :=
  min (60000000 * gate / (teeth * max 1 counter)) 4095

/-- R2: the gate completes, its speed stands, and the same edge starts the next gate. -/
def completeGate (p : Params) (s : State) : State :=
  { s with meas := { s.meas with
      gate := newGate, speed := gateSpeed p.sense.teeth p.sense.gate s.meas.gate.counter
      stalled := false } }

/-- An abandoned gate: IDLE, its stall timer stopped. The rules do not say what the pulse count and the gate
counter hold until the next edge sets both to 0; they stand as they were (DESIGN CHOICE,
notes/assumptions/23.md). -/
def idleGate (g : Gate) : Gate := { g with state := .idle, stall := none }

/-- R3, R4: the gate is abandoned. -/
def abandonGate (s : State) : State :=
  { s with meas := { s.meas with gate := idleGate s.meas.gate, speed := 0, stalled := true } }

/-- The state with another gate. -/
def setGate (g : Gate) (s : State) : State := { s with meas := { s.meas with gate := g } }

/-- The edge counted by a gate in TIMING (R2). -/
def countEdge (g : Gate) : Gate := { g with count := g.count + 1 }

/-- PICKUP_EDGE (R1, R2, R5). -/
def execPickupEdge (s : State) : Host.Outcome State Fault Refusal :=
  .next <| withParams s fun p =>
    match s.meas.gate.state with
    | .idle => setGate newGate s
    | .timing =>
      if p.sense.gate ≤ s.meas.gate.count + 1 then offerSpeed p (completeGate p s)
      else setGate (countEdge s.meas.gate) s

/-- R3: the stall timer of a gate in TIMING has reached the stall time. -/
def stallDue (p : Params) (g : Gate) : Bool :=
  g.state == .timing && timerReached g.stall p.sense.stallTime

/-- R4: the counter of a gate in TIMING stands at its maximum. -/
def counterFull (g : Gate) : Bool := g.state == .timing && decide (16777215 ≤ g.counter)

/-- STALL_TIMEOUT (R3): the stall timer has reached the stall time. -/
def execStallTimeout (s : State) : Host.Outcome State Fault Refusal :=
  .next <| withParams s fun p =>
    if stallDue p s.meas.gate then offerSpeed p (abandonGate s) else s

/-- GATE_COUNTER_MAXIMUM (R4): the gate counter stands at 16,777,215. -/
def execGateCounterMaximum (s : State) : Host.Outcome State Fault Refusal :=
  .next <| withParams s fun p =>
    if counterFull s.meas.gate then offerSpeed p (abandonGate s) else s

/-! ### The converter port -/

/-- The channel requested after another (R6). -/
def nextChannel : Channel → Channel
  | .lube => .resv | .resv => .cool | .cool => .batt | .batt => .lube

/-- CONVERTER_SLOT_END (R6, R7): the 20 ms are over and the next channel is requested. A slot whose reply
was not taken yields an invalid sample, which changes nothing. -/
def execConverterSlotEnd (s : State) : Host.Outcome State Fault Refusal :=
  .next <| withParams s fun _ =>
    match s.meas.request with
    | none => s
    | some c =>
      if timerReached s.meas.slot 20 then
        { s with meas := { s.meas with
            request := some (nextChannel c), slot := some 0, taken := false } }
      else s

/-- The scaling of a channel (R8). -/
def scaleOf (p : Params) : Channel → Config.Scale
  | .lube => p.sense.lube | .resv => p.sense.resv | .cool => p.sense.cool | .batt => p.sense.batt

/-- R8: a raw reading scaled to the channel's quantity. -/
def scaleSample (c : Config.Scale) (raw : BitVec 12) : Int :=
  c.low + (raw.toNat : Int) * (c.high - c.low) / 4095

/-- R9: a sample joins the window; of five the oldest leaves. -/
def joinWindow (window : List Int) (v : Int) : List Int :=
  if window.length < 4 then window ++ [v] else window.drop (window.length - 3) ++ [v]

/-- R10: the mean of a window, rounded toward negative infinity. -/
def windowMean (window : List Int) : Int := window.sum / (window.length : Int)

/-- R9 to R11: a channel at a valid sample. -/
def sampleChannel (v : Int) (c : ChannelState) : ChannelState :=
  { window := joinWindow c.window v, value := some (windowMean (joinWindow c.window v))
    stale := false, timer := some 0 }

/-- A channel's state put in its place. -/
def setChannel (ch : Channel) (c : ChannelState) (s : State) : State :=
  { s with meas :=
      match ch with
      | .lube => { s.meas with lube := c }
      | .resv => { s.meas with resv := c }
      | .cool => { s.meas with cool := c }
      | .batt => { s.meas with batt := c } }

/-- R13: the temperature class after a COOL value, from the class held. -/
def classAfter (cold hot : Int) (held : TempClass) (v : Int) : TempClass :=
  match held with
  | .cold => if hot ≤ v then .hot else if cold + 3 ≤ v then .warm else .cold
  | .warm => if v < cold then .cold else if hot ≤ v then .hot else .warm
  | .hot => if v < cold then .cold else if v < hot - 3 then .warm else .hot

/-- R44: a hot latch at a COOL value. -/
def latchAfter (threshold : Int) (held : Bool) (v : Int) : Bool :=
  if threshold ≤ v then true else if v < threshold - 3 then false else held

/-- R13, R14, R44: the temperature class and the hot latches at a new COOL value. -/
def coolValue (p : Params) (v : Int) (s : State) : State :=
  { s with
    meas := { s.meas with
      tempClass := classAfter p.sense.coldLimit p.sense.hotLimit s.meas.tempClass v }
    prot := { s.prot with
      derate1 := latchAfter p.protect.derate1Temp s.prot.derate1 v
      derate2 := latchAfter p.protect.derate2Temp s.prot.derate2 v
      hotStop := latchAfter p.protect.hotTemp s.prot.hotStop v } }

/-- R27: a new RESV value in CRANK below the crank floor ends the crank. -/
def resvValue (p : Params) (v : Int) (s : State) : State :=
  if s.seq.engine = .starting .crank ∧ v < (p.crank.floor : Int) then floorCrank s else s

/-- R10: what a new channel value does in the blocks that read it at that moment. -/
def channelValue (p : Params) (ch : Channel) (v : Int) (s : State) : State :=
  match ch with
  | .cool => coolValue p v s
  | .resv => resvValue p v s
  | .lube | .batt => s

/-- R7 to R10: a valid sample of a channel. -/
def validSample (p : Params) (ch : Channel) (raw : BitVec 12) (s : State) : State :=
  let c := sampleChannel (scaleSample (scaleOf p ch) raw) (channelOf s.meas ch)
  settle p (channelValue p ch (c.value.getD 0) (setChannel ch c s))

/-- R7: the slot's reply has been taken. -/
def takeReply (s : State) : State := { s with meas := { s.meas with taken := true } }

/-- CONVERTER_REPLY (R7): the first reply within a slot gives one sample, valid where it names the requested
channel and carries the valid mark. -/
def execConverterReply (named : Channel) (raw : BitVec 12) (valid : Bool) (s : State) :
    Host.Outcome State Fault Refusal :=
  .next <| withParams s fun p =>
    match s.meas.request with
    | none => s
    | some c =>
      if s.meas.taken then s
      else if named = c ∧ valid then validSample p c raw (takeReply s)
      else takeReply s

/-- R11, R15: a channel becomes STALE; with COOL the class becomes COLD. -/
def makeStale (ch : Channel) (s : State) : State :=
  let s1 := setChannel ch { channelOf s.meas ch with stale := true, timer := none } s
  match ch with
  | .cool => { s1 with meas := { s1.meas with tempClass := .cold } }
  | .lube | .resv | .batt => s1

/-- STALENESS_TIMEOUT (R11, R15): 2000 ms have passed since the channel's last valid sample. -/
def execStalenessTimeout (ch : Channel) (s : State) : Host.Outcome State Fault Refusal :=
  .next <| withParams s fun p =>
    if timerReached (channelOf s.meas ch).timer 2000 then settle p (makeStale ch s) else s

end Sys2Proof.Machine
end

