-- ==== Sys2Proof/Machine/Cab.lean ====
section
/-! DEFINITION. Cab.lean: Chapter 4: the input lines, the throttle handle, the demand source states and the
recent-source list. -/

namespace Sys2Proof.Machine

/-! ### Debounce (R58) -/

/-- One input line's debounce put in its place. -/
def setInput (line : InputLine) (d : Debounce) (i : Inputs) : Inputs :=
  match line with
  | .handle1 => { i with handle1 := d }
  | .handle2 => { i with handle2 := d }
  | .handle3 => { i with handle3 := d }
  | .handle4 => { i with handle4 := d }
  | .cabActive => { i with cabActive := d }
  | .reverserCentre => { i with reverserCentre := d }
  | .brakeSet => { i with brakeSet := d }
  | .runIsolate => { i with runIsolate := d }
  | .startPb => { i with startPb := d }
  | .stopPb => { i with stopPb := d }
  | .estop => { i with estop := d }
  | .groundRelay => { i with groundRelay := d }
  | .derateSelect => { i with derateSelect := d }

/-- R58: a change of the raw level restarts the stability timer; the same level again is no change. -/
def rawChange (level : Bool) (d : Debounce) : Debounce :=
  if level = d.raw then d else { d with raw := level, stable := 0 }

/-- R58: the stability timer has reached 20 ms and the raw level differs from the debounced level. -/
def debounceDue (d : Debounce) : Bool :=
  decide (20000 ≤ d.stable) && d.settled != some d.raw

/-- R58: the debounced level becomes the raw level. -/
def debounceTaken (d : Debounce) : Debounce := { d with settled := some d.raw }

/-- The state with one input line's debounce changed. -/
def updateInput (line : InputLine) (f : Debounce → Debounce) (s : State) : State :=
  { s with demand := { s.demand with
      inputs := setInput line (f (inputOf s.demand.inputs line)) s.demand.inputs } }

/-- INPUT_RAW_CHANGE (R58). The lines are debounced from reset on, INHIBITED or not (R59). -/
def execInputRawChange (line : InputLine) (level : Bool) (s : State) :
    Host.Outcome State Fault Refusal :=
  .next (updateInput line (rawChange level) s)

/-! ### The handle (R62, R63) -/

/-- R62, R63: the handle code is formed anew. A valid code gives its position, stops the timer and clears
the fault; an invalid code starts the timer where it does not run and no fault stands. -/
def takeCode (p : Params) (s : State) : State :=
  match handleCode p s with
  | some r => { s with demand := { s.demand with
      handle := r, invalidTimer := none, handleFault := false } }
  | none =>
    if s.demand.invalidTimer = none ∧ !s.demand.handleFault then
      { s with demand := { s.demand with invalidTimer := some 0 } }
    else s

/-- INVALID_CODE_TIMEOUT (R63): the code has been invalid for 500 ms. -/
def execInvalidCodeTimeout (s : State) : Host.Outcome State Fault Refusal :=
  .next <| withParams s fun p =>
    if timerReached s.demand.invalidTimer 500 then
      settle p { s with demand := { s.demand with
        handle := 1, invalidTimer := none, handleFault := true } }
    else s

/-! ### The recent-source list (R71) -/

/-- R71: a source's entry made or refreshed, its age 0. -/
def refreshSource (who : Who) (l : List RecentSource) : List RecentSource :=
  if l.any (fun e => e.who == who) then
    l.map (fun e => if e.who = who then { e with age := 0 } else e)
  else l ++ [{ who, age := 0 }]

/-- R71: a source's entry leaves. -/
def dropSource (who : Who) (l : List RecentSource) : List RecentSource :=
  l.filter (fun e => e.who != who)

/-- R71: the age of a source's entry. -/
def sourceAge (who : Who) (l : List RecentSource) : Timer :=
  (l.find? (fun e => e.who == who)).map (·.age)

/-- RECENT_SOURCE_EXPIRY (R71): an entry's age has reached the demand timeout. -/
def execRecentSourceExpiry (source : Who) (s : State) : Host.Outcome State Fault Refusal :=
  .next <| withParams s fun p =>
    if timerReached (sourceAge source s.demand.recent) p.link.demandTimeout then
      settle p { s with demand := { s.demand with recent := dropSource source s.demand.recent } }
    else s

/-! ### The demand source (R65 to R69) -/

/-- R65, R66, R71: CAB-ACTIVE goes on: the state becomes OWN, a record that was not being followed is
discarded, the OWN entry is made, and the own record as it stands is asked for. -/
def cabOn (p : Params) (s : State) : State :=
  let kept := s.demand.source == .current
  let r := ownRecordNow p s
  requestMade (demandContent r)
    { s with demand := { s.demand with
        source := .own, holdTimer := none, ownRecord := r
        remote := if kept then s.demand.remote else none
        demandTimer := if kept then s.demand.demandTimer else none
        recent := refreshSource .own s.demand.recent } }

/-- R65, R71: CAB-ACTIVE goes off: the remote record settles the state, and the OWN entry ages from 0. -/
def cabOff (p : Params) (s : State) : State :=
  let followed := s.demand.remote.isSome && s.demand.demandTimer.isSome
    && !timerReached s.demand.demandTimer p.link.demandTimeout
  { s with demand := { s.demand with
      source := if followed then .current else .lost
      remote := if followed then s.demand.remote else none } }

/-- The state becomes LOST and the remote record is discarded (R69). -/
def loseDemand (s : State) : State :=
  { s with demand := { s.demand with source := .lost, remote := none, holdTimer := none } }

/-- R69: HOLDING is entered; a demand hold of 0 passes on to LOST at once. -/
def holdDemand (p : Params) (s : State) : State :=
  if p.link.demandHold = 0 then loseDemand s
  else { s with demand := { s.demand with source := .holding, holdTimer := some 0 } }

/-- DEMAND_TIMEOUT (R65, R69, R70): the demand timer has reached the demand timeout. In HOLDING and LOST
it has nothing left to say. -/
def execDemandTimeout (s : State) : Host.Outcome State Fault Refusal :=
  .next <| withParams s fun p =>
    if timerReached s.demand.demandTimer p.link.demandTimeout then
      match s.demand.source with
      | .current => settle p (holdDemand p s)
      | .waiting => settle p { s with demand := { s.demand with source := .lost } }
      | .own => settle p { s with demand := { s.demand with demandTimer := none, remote := none } }
      | .holding | .lost => s
    else s

/-- DEMAND_HOLD_EXPIRY (R69): the hold timer has reached the demand hold in HOLDING. -/
def execDemandHoldExpiry (s : State) : Host.Outcome State Fault Refusal :=
  .next <| withParams s fun p =>
    if s.demand.source = .holding ∧ timerReached s.demand.holdTimer p.link.demandHold then
      settle p (loseDemand s)
    else s

/-- The remote record of a DEMAND frame (R68). -/
def remoteOf (src : UnitNo) (row : Row) (reverser brake serial : Byte) : RemoteRecord :=
  { source := src, row, centred := reverser == 1, brake := brake == 1, serial }

/-- R68: the frame is a consist start: its source is the record's, its serial differs, the state is CURRENT
or HOLDING and no conflict stands. -/
def consistStart (r : RemoteRecord) (s : State) : Bool :=
  (match s.demand.remote with
   | some old => old.source == r.source && old.serial != r.serial
   | none => false)
  && (s.demand.source == .current || s.demand.source == .holding) && !demandConflict s

/-- R68: the last part of taking a DEMAND: the demand timer restarts, and WAITING, LOST and HOLDING become
CURRENT. -/
def followDemand (s : State) : State :=
  { s with demand := { s.demand with
      demandTimer := some 0
      source := if s.demand.source = .own then .own else .current
      holdTimer := if s.demand.source = .holding then none else s.demand.holdTimer } }

/-- R68: a DEMAND from any source but the own unit number. A row that is not ID to N8 is not taken. -/
def takeDemand (p : Params) (src : UnitNo) (row reverser brake serial : Byte) (s : State) : State :=
  if h : 1 ≤ row.toNat ∧ row.toNat < 10 then
    let r := remoteOf src ⟨row.toNat, h.2⟩ reverser brake serial
    let s1 := { s with demand := { s.demand with
      recent := refreshSource (.unit src) s.demand.recent } }
    let s2 := { s1 with demand := { s1.demand with remote := some r } }
    followDemand (if consistStart r s1 then startRequest p .demand s2 else s2)
  else s

/-! ### What a debounced change hands on (R60, R61, R67, R76) -/

/-- R67: a press of START-PB. -/
def startPress (p : Params) (s : State) : State :=
  startRequest p .demand
    (if lineOn p s .cabActive then
      { s with demand := { s.demand with ownSerial := s.demand.ownSerial + 1 } }
     else s)

/-- R53: ESTOP goes on: a trip for FUEL-CUT, and FUEL-CUT asked for. -/
def estopOn (s : State) : State := requestMade .fuelCut (trip .fuelCut (some .localEstop) s)

/-- R76: the notch table in force has changed: where the current row's setpoint differs, the row is
unsettled as if a step had been taken, so that a stagger hold ends with the condition it rests on (R89), and the
speed that stands is judged (notes/assumptions/17.md). -/
def tableChanged (p : Params) (old new : Config.NotchTable) (s : State) : State :=
  match s.step.current with
  | none => s
  | some r =>
    if (rowOf old r).setpoint = (rowOf new r).setpoint then s
    else settleRow p { s with step := { s.step with
        settled := false, settleTimer := some 0, staggerHold := none } }

/-- R60, R61: a line that has gone on (`on`) or off is handed on; `before` is the state before the change. -/
def handOn (p : Params) (before : State) (line : InputLine) (on : Bool) (s : State) : State :=
  match line with
  | .handle1 | .handle2 | .handle3 | .handle4 => takeCode p s
  | .cabActive => if on then cabOn p s else cabOff p s
  | .runIsolate => if on then askAgain p s else s
  | .startPb => if on then startPress p s else s
  | .stopPb => if on then stopPress p s else s
  | .estop => if on then estopOn s else s
  | .derateSelect => tableChanged p (tableInForce p before) (tableInForce p s) s
  | .reverserCentre | .brakeSet | .groundRelay => s

/-- R58 to R61: a line's debounced level changes, and a line that thereby goes on or off is handed on. A
level first set counts against off (R59). -/
def takeLevel (p : Params) (line : InputLine) (s : State) : State :=
  let s1 := updateInput line debounceTaken s
  if lineOn p s1 line = lineOn p s line then settle p s1
  else settle p (handOn p s line (lineOn p s1 line) s1)

/-- DEBOUNCE_TIMEOUT (R58): a line's level has stood 20 ms. Before handover and in INHIBITED the debounced
level changes and nothing is handed on (R59). -/
def execDebounceTimeout (line : InputLine) (s : State) : Host.Outcome State Fault Refusal :=
  .next <|
    if debounceDue (inputOf s.demand.inputs line) then
      match s.reader.applied with
      | none => updateInput line debounceTaken s
      | some p => takeLevel p line s
    else s

end Sys2Proof.Machine
end

