-- ==== Sys2Proof/Machine/Apparatus.lean ====
section
/-! DEFINITION. Apparatus.lean: Chapter 10: the sense returns' debounce and the mismatch timers. -/

namespace Sys2Proof.Machine

/-- The state with what the line driver holds for one output changed. -/
def updateOutput (out : Output) (f : OutputLine → OutputLine) (s : State) : State :=
  { s with lines :=
      match out with
      | .fuelPump => { s.lines with fuelPump := f s.lines.fuelPump }
      | .prelube => { s.lines with prelube := f s.lines.prelube }
      | .crankValve => { s.lines with crankValve := f s.lines.crankValve }
      | .rackEnable => { s.lines with rackEnable := f s.lines.rackEnable }
      | .loadPermit => { s.lines with loadPermit := f s.lines.loadPermit } }

/-- SENSE_RAW_CHANGE (R147): a sense return's raw level changes and its stability timer restarts. -/
def execSenseRawChange (out : Output) (level : Bool) (s : State) : Host.Outcome State Fault Refusal :=
  .next (updateOutput out (fun l => { l with sense := rawChange level l.sense }) s)

/-- SENSE_DEBOUNCE_TIMEOUT (R147): a sense return's level has stood 20 ms. The sense returns are debounced from
reset on, in a station whose read FAILED too, whose sensed states stay undetermined all the same (R146, `sensed`). -/
def execSenseDebounceTimeout (out : Output) (s : State) : Host.Outcome State Fault Refusal :=
  .next <|
    if debounceDue (outputOf s.lines out).sense then
      let s1 := updateOutput out (fun l => { l with sense := debounceTaken l.sense }) s
      match s.reader.applied with
      | none => s1
      | some p => settle p s1
    else s

/-- R150: the fault of a mismatch, by the side the command stands on. -/
def mismatchFault (l : OutputLine) : LineFault := if l.command then .sensedOff else .sensedOn

/-- R150: the fault is raised: present and last fault, and the timer stops. -/
def raiseFault (l : OutputLine) : OutputLine :=
  { l with mismatch := none, present := mismatchFault l, last := mismatchFault l }

/-- R151: where a fault raised is handed on: VALVE-OPEN-FAIL to the start sequencer in CRANK (R26), the
trips VALVE and RACK to the protection unit (R52). LOAD-PERMIT's is read off the line by R47. -/
def handFault (p : Params) (out : Output) (fault : LineFault) (s : State) : State :=
  match out, fault with
  | .crankValve, .sensedOn => trip .valve none s
  | .crankValve, .sensedOff =>
    if s.seq.engine = .starting .crank then failAttempt p .noRoll s else s
  | .rackEnable, .sensedOn => trip .rack none s
  | _, _ => s

/-- MISMATCH_TIME_EXPIRY (R150, R151): a line's mismatch timer has reached its mismatch time. -/
def execMismatchTimeExpiry (out : Output) (s : State) : Host.Outcome State Fault Refusal :=
  .next <| withParams s fun p =>
    if timerReached (outputOf s.lines out).mismatch (outputParams p.lines out).mismatch then
      settle p (handFault p out (mismatchFault (outputOf s.lines out))
        (updateOutput out raiseFault s))
    else s

end Sys2Proof.Machine
end

