-- ==== Sys2Proof/Machine/LayoverUnit.lean ====
section
/-! DEFINITION. LayoverUnit.lean: Chapter 9: the idle timer's expiry and the recheck at the end of the intent hold. -/

namespace Sys2Proof.Machine

/-- R135: the idle timer runs and has counted the layover idle time. -/
def idleDue (p : Params) (s : State) : Bool :=
  match s.layover.idle with
  | .running us => timerReached (some us) (p.layover.idleTime * 60000)
  | .stopped => false
  | .reached => false

/-- LAYOVER_IDLE_TIME_EXPIRY (R135): the idle timer becomes reached; an intent may be announced (R137). -/
def execLayoverIdleTimeExpiry (s : State) : Host.Outcome State Fault Refusal :=
  .next <| withParams s fun p =>
    if idleDue p s then settle p { s with layover := { s.layover with idle := .reached } } else s

/-- R139, R35, R140: the commit. In RUNNING the state becomes STOPPING with destination LAYOVER; in any
other state the commit is ignored and the own intent ends. -/
def commitLayover (s : State) : State :=
  let s1 := { s with layover := { s.layover with phase := .committed, holdTimer := none } }
  if s.seq.engine = .running then enterState (.stopping .layover) s1 else endIntent s1

/-- INTENT_HOLD_EXPIRY (R139): eligibility and quota are checked again, to commit or to cancel. -/
def execIntentHoldExpiry (s : State) : Host.Outcome State Fault Refusal :=
  .next <| withParams s fun p =>
    if s.layover.phase = .announced ∧ timerReached s.layover.holdTimer p.layover.intentHold then
      if eligibleNow p s ∧ p.layover.quota ≤ runningPeers p s then settle p (commitLayover s)
      else settle p (cancelIntent s)
    else s

end Sys2Proof.Machine
end

