-- ==== Sys2Proof/Machine/Frames.lean ====
section
/-! DEFINITION. Frames.lean: the frame envelope on the line: identifier, length, payload, CRC, inserted bits
and end bit (R156, R169, R170), and the receive checks 1 to 5 of R160. A bit is `true` where the line is
recessive (1) and `false` where it is dominant (0). -/

namespace Sys2Proof.Machine

/-- The low `w` bits of a number, most significant first (R169). -/
def bitsOfNat : Nat → Nat → List Bool
  | 0, _ => []
  | w + 1, n => n.testBit w :: bitsOfNat w n

/-- The number a list of bits spells, most significant first (R169). -/
def natOfBits (bits : List Bool) : Nat := bits.foldl (fun n b => 2 * n + b.toNat) 0

/-- The bits of bytes in the order sent (R169). -/
def bitsOfBytes : List Byte → List Bool
  | [] => []
  | b :: bs => bitsOfNat 8 b.toNat ++ bitsOfBytes bs

/-- `n` bytes read from the front of a list of bits; missing bits read as none given. -/
def bytesOfBits : Nat → List Bool → List Byte
  | 0, _ => []
  | n + 1, bits => BitVec.ofNat 8 (natOfBits (bits.take 8)) :: bytesOfBits n (bits.drop 8)

/-- One bit through the check register (R170). -/
def crcBit (reg : BitVec 16) (b : Bool) : BitVec 16 :=
  if b ^^ reg.msb then (reg <<< 1) ^^^ 4129#16 else reg <<< 1

/-- R170: the CRC of bits in the order sent, from a register of all ones, with no final inversion. -/
def crcOfBits (bits : List Bool) : BitVec 16 := bits.foldl crcBit 0xFFFF#16

/-- R156: the transmitter's inserted bits. `last` is the level last sent and `run` how many times it has
stood in a row on the line, an inserted bit counting like any other (notes/assumptions/9.md). -/
def insertBits (last : Bool) (run : Nat) : List Bool → List Bool
  | [] => []
  | b :: bs =>
    let run' := if b = last then run + 1 else 1
    if run' = 5 then b :: (!b) :: insertBits (!b) 1 bs else b :: insertBits b run' bs

/-- R156: the receiver's removal of inserted bits. None where the bit due after five equal bits is
missing or of the wrong level. -/
def removeBits (last : Bool) (run : Nat) : List Bool → Option (List Bool)
  | [] => if run = 5 then none else some []
  | b :: bs =>
    if run = 5 then (if b = last then none else removeBits b 1 bs)
    else (removeBits b (if b = last then run + 1 else 1) bs).map (b :: ·)

/-- A frame as the line carries it, before inserted bits (R156). -/
structure Frame where
  kind : Nat
  addressed : Bool
  source : UnitNo
  payload : List Byte
deriving DecidableEq, Repr

/-- The bits the CRC is computed over: identifier, length and payload (R156, R170). -/
def frameHead (f : Frame) : List Bool :=
  bitsOfNat 4 f.kind ++ [f.addressed] ++ bitsOfNat 5 f.source.val
    ++ bitsOfNat 8 f.payload.length ++ bitsOfBytes f.payload

/-- R156: every bit of a frame as it goes out on the line, the dominant end bit last. The run before the
first bit counts nothing: the idle line is no part of a frame. -/
def frameLine (f : Frame) : List Bool :=
  insertBits false 0 (frameHead f ++ bitsOfNat 16 (crcOfBits (frameHead f)).toNat) ++ [false]

/-- R160 checks 1 to 3 on the bits the receiver holds when the frame has ended (the end bit last and
dominant, R156). -/
def frameOfLine (line : List Bool) : Option Frame :=
  match line.getLast? with
  | some false =>
    match removeBits false 0 line.dropLast with
    | none => none
    | some bits =>
      let len := natOfBits ((bits.drop 10).take 8)
      if bits.length = 34 + 8 * len ∧ len ≤ 32
          ∧ natOfBits (bits.drop (18 + 8 * len)) = (crcOfBits (bits.take (18 + 8 * len))).toNat then
        some { kind := natOfBits (bits.take 4)
               addressed := (bits.drop 4).headD false
               source := Fin.ofNat 32 (natOfBits ((bits.drop 5).take 5))
               payload := bytesOfBits len (bits.drop 18) }
      else none
  | _ => none

/-- R160 checks 4 and 5: the sender and content of a frame whose kind, mark, length and fields are right. -/
def contentOfFrame (f : Frame) : Option (UnitNo × Content) :=
  if f.addressed = kindAddressed f.kind then
    match contentOfBytes f.kind f.payload with
    | some c => if contentValid c then some (f.source, c) else none
    | none => none
  else none

/-- R160: all five receive checks. None is a discarded frame. -/
def receiveLine (line : List Bool) : Option (UnitNo × Content) :=
  match frameOfLine line with
  | some f => contentOfFrame f
  | none => none

/-- The frame a station sends for a content (R156, section 13.1). -/
def frameOfContent (source : UnitNo) (c : Content) : Frame :=
  { kind := contentKind c, addressed := kindAddressed (contentKind c), source
    payload := contentBytes c }

end Sys2Proof.Machine
end

