-- ==== Sys2Proof/Machine/Time.lean ====
section
/-! DEFINITION. Time.lean: the passing of time: what every timer, counter and age of the station shows after so many
microseconds in which no command is taken (notes/assumptions/2.md, 3.md). -/

namespace Sys2Proof.Machine

/-- A running timer after `us` more microseconds; a stopped one stays stopped. -/
def runTimer (us : Nat) (t : Timer) : Timer := t.map (· + us)

/-- A running timer or age that stands still once it has reached a limit in milliseconds. -/
def runTo (ms us age : Nat) : Nat := if ms * 1000 ≤ age then age else min (age + us) (ms * 1000)

/-- A running timer that stands still once it has reached a limit in milliseconds. -/
def runTimerTo (ms us : Nat) (t : Timer) : Timer := t.map (runTo ms us)

/-- R58: a stability timer, which has served its purpose at 20 ms. -/
def runDebounce (us : Nat) (d : Debounce) : Debounce := { d with stable := runTo 20 us d.stable }

/-- The stability timers of the thirteen input lines. -/
def runInputs (us : Nat) (i : Inputs) : Inputs :=
  { handle1 := runDebounce us i.handle1, handle2 := runDebounce us i.handle2
    handle3 := runDebounce us i.handle3, handle4 := runDebounce us i.handle4
    cabActive := runDebounce us i.cabActive, reverserCentre := runDebounce us i.reverserCentre
    brakeSet := runDebounce us i.brakeSet, runIsolate := runDebounce us i.runIsolate
    startPb := runDebounce us i.startPb, stopPb := runDebounce us i.stopPb
    estop := runDebounce us i.estop, groundRelay := runDebounce us i.groundRelay
    derateSelect := runDebounce us i.derateSelect }

/-- An output's sense debounce and mismatch timer. -/
def runOutput (us : Nat) (l : OutputLine) : OutputLine :=
  { l with sense := runDebounce us l.sense, mismatch := runTimer us l.mismatch }

/-- R1 to R5: the gate counter, which advances in TIMING up to 16,777,215, and the stall timer, up to the stall
time. -/
def runGate (p : Params) (us : Nat) (g : Gate) : Gate :=
  { g with
    counter := if g.state = .timing then min (g.counter + us) 16777215 else g.counter
    stall := runTimerTo p.sense.stallTime us g.stall }

/-- R11: a channel's staleness timer. -/
def runChannel (us : Nat) (c : ChannelState) : ChannelState := { c with timer := runTimer us c.timer }

/-- The timers of the measurement unit (Chapter 1). -/
def runMeasurement (p : Params) (us : Nat) (m : Measurement) : Measurement :=
  { m with
    gate := runGate p us m.gate
    lube := runChannel us m.lube, resv := runChannel us m.resv, cool := runChannel us m.cool
    batt := runChannel us m.batt, slot := runTimer us m.slot }

/-- R71: a recent-source entry ages, but OWN's stays at 0 while CAB-ACTIVE is on. -/
def runRecent (p : Params) (cab : Bool) (us : Nat) (e : RecentSource) : RecentSource :=
  if e.who = .own ∧ cab then { e with age := 0 }
  else { e with age := runTo p.link.demandTimeout us e.age }

/-- The timers of the demand unit past its debounces (Chapter 4). -/
def runDemand (p : Params) (cab : Bool) (us : Nat) (d : DemandUnit) : DemandUnit :=
  { d with
    invalidTimer := runTimer us d.invalidTimer
    demandTimer := runTimerTo p.link.demandTimeout us d.demandTimer
    holdTimer := runTimerTo p.link.demandHold us d.holdTimer
    recent := d.recent.map (runRecent p cab us) }

/-- The timers of the start sequencer (Chapter 2, R168). -/
def runSequencer (us : Nat) (q : Sequencer) : Sequencer :=
  { q with
    phaseTimer := runTimer us q.phaseTimer, confirmTimer := runTimer us q.confirmTimer
    recrankTimer := runTimer us q.recrankTimer, turningWatch := runTimer us q.turningWatch }

/-- The timers of the protection unit (Chapter 3). -/
def runProtection (us : Nat) (p : Protection) : Protection :=
  { p with
    hotTimer := runTimer us p.hotTimer, lubeTimer := runTimer us p.lubeTimer
    holdTimer := runTimer us p.holdTimer }

/-- The timers of the notch stepper (Chapter 5). -/
def runStepper (us : Nat) (t : Stepper) : Stepper :=
  { t with
    dwell := runTimer us t.dwell, settleTimer := runTimer us t.settleTimer
    stagger := runTimer us t.stagger, staggerHold := runTimer us t.staggerHold
    lowIdleTimer := runTimer us t.lowIdleTimer }

/-- The silence timeout, 125 × 2^s ms (R96). -/
def silenceMs (p : Params) : Nat := 125 * 2 ^ p.link.silenceExp

/-- R96, R104, R105: a roster entry's ages; its own runs up to the silence timeout. -/
def runEntry (p : Params) (us : Nat) (e : RosterEntry) : RosterEntry :=
  { e with
    age := runTo (silenceMs p) us e.age
    intent := e.intent.map fun i => { i with age := i.age + us }
    lastStep := e.lastStep.map (· + us) }

/-- R110: a peer entry's age in CRANKING. -/
def runClaim (us : Nat) (c : Claim) : Claim :=
  match c.who, c.state with
  | .unit _, .cranking age => { c with state := .cranking (age + us) }
  | _, _ => c

/-- The timers and ages of the crank arbiter (Chapter 7). -/
def runArbiter (p : Params) (us : Nat) (a : Arbiter) : Arbiter :=
  { a with
    claims := a.claims.map (runClaim us)
    claimTimer := runTimer us a.claimTimer
    joinTimer := runTimerTo (2 * p.link.statusPeriod) us a.joinTimer
    overlapTimer := runTimerTo p.crank.overlapWindow us a.overlapTimer }

/-- The idle timer (R135). -/
def runIdle (us : Nat) : IdleTimer → IdleTimer
  | .running age => .running (age + us)
  | .stopped => .stopped
  | .reached => .reached

/-- The timers of the layover unit (Chapter 9). -/
def runLayover (us : Nat) (l : LayoverUnit) : LayoverUnit :=
  { l with idle := runIdle us l.idle, holdTimer := runTimer us l.holdTimer }

/-- The timers that run from reset on: the debounces (R59, R147) and the read request's (R163). -/
def runDebounces (us : Nat) (s : State) : State :=
  { s with
    reader := { s.reader with request := runTimer us s.reader.request }
    demand := { s.demand with inputs := runInputs us s.demand.inputs }
    lines := { s.lines with
      fuelPump := runOutput us s.lines.fuelPump, prelube := runOutput us s.lines.prelube
      crankValve := runOutput us s.lines.crankValve
      rackEnable := runOutput us s.lines.rackEnable
      loadPermit := runOutput us s.lines.loadPermit } }

/-- The timers that run from handover on. -/
def runBlocks (p : Params) (us : Nat) (s : State) : State :=
  { s with
    meas := runMeasurement p us s.meas
    demand := runDemand p (lineOn p s .cabActive) us s.demand
    seq := runSequencer us s.seq
    prot := runProtection us s.prot
    step := runStepper us s.step
    roster := { s.roster with entries := s.roster.entries.map (runEntry p us) }
    arb := runArbiter p us s.arb
    layover := runLayover us s.layover
    link := { s.link with statusTimer := runTimer us s.link.statusTimer } }

/-- `us` microseconds pass in which no command is taken: timers, counters and ages run, and nothing else
changes; an expiry is a command of its own. -/
def elapse (us : Nat) (s : State) : State :=
  let s1 := runDebounces us s
  match s.reader.applied with
  | none => s1
  | some p => runBlocks p us s1

end Sys2Proof.Machine
end

