-- ==== Sys2Proof/Machine/Roster.lean ====
section
/-! DEFINITION. Roster.lean: Chapters 6 and 7 on receipt: joining, ageing out, the repairs a STATUS makes, and what the
crank arbiter takes of a peer's frames. -/

namespace Sys2Proof.Machine

/-! ### Entries (R96 to R99) -/

/-- The roster entry of a unit. -/
def entryOf (u : UnitNo) (entries : List RosterEntry) : Option RosterEntry :=
  entries.find? (fun e => e.unit == u)

/-- A change made to the entry of one unit. -/
def mapEntry (u : UnitNo) (f : RosterEntry → RosterEntry) (entries : List RosterEntry) :
    List RosterEntry :=
  entries.map (fun e => if e.unit = u then f e else e)

/-- An entry placed in ascending order of unit number (R98). -/
def insertEntry (e : RosterEntry) : List RosterEntry → List RosterEntry
  | [] => [e]
  | d :: ds => if e.unit.val < d.unit.val then e :: d :: ds else d :: insertEntry e ds

/-- A new entry: age 0 and none of the optional items (R98). -/
def newEntry (u : UnitNo) : RosterEntry :=
  { unit := u, age := 0, status := none, lastCount := none, intent := none, lastStep := none }

/-- The state with one unit's roster entry changed. -/
def updateEntry (u : UnitNo) (f : RosterEntry → RosterEntry) (s : State) : State :=
  { s with roster := { s.roster with entries := mapEntry u f s.roster.entries } }

/-- R97, R98, R99: a general frame from unit 1 to 31 refreshes its sender's entry or joins it; at a full
roster ROSTER-FULL is set. The join appends the unit to the rotation (R108). -/
def joinOrRefresh (u : UnitNo) (s : State) : State :=
  if (entryOf u s.roster.entries).isSome then updateEntry u (fun e => { e with age := 0 }) s
  else if s.roster.entries.length < 7 then
    { s with
      roster := { s.roster with entries := insertEntry (newEntry u) s.roster.entries }
      arb := { s.arb with rotation := s.arb.rotation ++ [.unit u] } }
  else { s with roster := { s.roster with full := true } }

/-- R99, R117: an entry leaves, with its claim, its rotation place and its places in the crossing and
expired lists; ROSTER-FULL is cleared. -/
def leaveRoster (u : UnitNo) (s : State) : State :=
  { s with
    roster := { entries := s.roster.entries.filter (fun e => e.unit != u), full := false }
    arb := { s.arb with
      claims := dropClaim (.unit u) s.arb.claims
      rotation := s.arb.rotation.filter (fun w => w != .unit u)
      crossing := s.arb.crossing.filter (fun v => v != u)
      expired := s.arb.expired.filter (fun e => e.unit != u) } }

/-- The age of a unit's roster entry. -/
def entryAge (u : UnitNo) (s : State) : Timer := (entryOf u s.roster.entries).map (·.age)

/-- SILENCE_TIMEOUT (R99): the age of a unit's entry has reached the silence timeout. -/
def execSilenceTimeout (u : UnitNo) (s : State) : Host.Outcome State Fault Refusal :=
  .next <| withParams s fun p =>
    if timerReached (entryAge u s) (silenceMs p) then settle p (leaveRoster u s) else s

/-! ### Claims of peers (R112 to R116) -/

/-- R116: a pair of the expired list keeps an entry from being made: the pair stands and no entry of the
unit with that serial does. -/
def blocked (u : UnitNo) (serial : Byte) (a : Arbiter) : Bool :=
  a.expired.any (fun e => e.unit == u && e.serial == serial)
    && (match claimOf (.unit u) a.claims with
        | some c => c.serial != serial
        | none => true)

/-- R116: a CLAIM, CRANK-ON or STATUS of the unit that shows another serial drops its pair. -/
def dropExpired (u : UnitNo) (serial : Byte) (s : State) : State :=
  { s with arb := { s.arb with
      expired := s.arb.expired.filter (fun e => !(e.unit == u && e.serial != serial)) } }

/-- R116: a STATUS of the unit that shows no claim drops its pair. -/
def dropExpiredAll (u : UnitNo) (s : State) : State :=
  { s with arb := { s.arb with expired := s.arb.expired.filter (fun e => e.unit != u) } }

/-- The state with a peer's claim-list entry made or replaced, unless R116 keeps it out. -/
def makeClaim (u : UnitNo) (level : Level) (serial : Byte) (st : ClaimState) (s : State) : State :=
  if blocked u serial s.arb then s
  else { s with arb := { s.arb with
    claims := putClaim { who := .unit u, level, serial, state := st } s.arb.claims } }

/-- The state with a peer's claim-list entry removed. -/
def removeClaim (u : UnitNo) (s : State) : State :=
  { s with arb := { s.arb with claims := dropClaim (.unit u) s.arb.claims } }

/-- R112: a CLAIM from a peer. A level above 3 is not taken. -/
def takeClaim (u : UnitNo) (level serial : Byte) (s : State) : State :=
  match levelOfByte level with
  | none => s
  | some l =>
    let s1 := dropExpired u serial s
    match claimOf (.unit u) s1.arb.claims with
    | some c =>
      if isCranking c ∧ c.serial = serial then makeClaim u l serial c.state s1
      else makeClaim u l serial .waiting s1
    | none => makeClaim u l serial .waiting s1

/-- R113: a WITHDRAW from a peer. -/
def takeWithdraw (u : UnitNo) (serial : Byte) (s : State) : State :=
  match claimOf (.unit u) s.arb.claims with
  | some c => if c.serial = serial then removeClaim u s else s
  | none => s

/-- R114: a CRANK-ON from a peer. An entry already CRANKING with the same serial keeps its age; any other
becomes CRANKING with age 0, and the crossing is judged (R122). -/
def takeCrankOn (p : Params) (u : UnitNo) (level serial : Byte) (s : State) : State :=
  match levelOfByte level with
  | none => s
  | some l =>
    let s1 := dropExpired u serial s
    if blocked u serial s1.arb then s1
    else
      match claimOf (.unit u) s1.arb.claims with
      | some c =>
        if isCranking c ∧ c.serial = serial then makeClaim u l serial c.state s1
        else judgeCrossing p u (makeClaim u l serial (.cranking 0) s1)
      | none => judgeCrossing p u (makeClaim u l serial (.cranking 0) s1)

/-- R103: a peer's crank count at a CRANK-OFF or STATUS; `joins` says whether an absent last-seen count
counts as a difference, as it does at a CRANK-OFF. -/
def takeCount (u : UnitNo) (count : Byte) (joins : Bool) (s : State) : State :=
  match entryOf u s.roster.entries with
  | none => s
  | some e =>
    let differs :=
      match e.lastCount with
      | none => joins
      | some c => c != count
    let s1 := updateEntry u (fun e => { e with lastCount := some count }) s
    if differs then moveToTail (.unit u) s1 else s1

/-- R115: a CRANK-OFF from a peer, after R103: YIELDED returns its entry to WAITING, every other result
removes it. -/
def takeCrankOff (u : UnitNo) (result level serial count : Byte) (s : State) : State :=
  let s1 := takeCount u count true s
  if result = yieldedByte then
    match levelOfByte level with
    | none => s1
    | some l => { s1 with arb := { s1.arb with
        claims := putClaim { who := .unit u, level := l, serial, state := .waiting }
          s1.arb.claims } }
  else removeClaim u s1

/-- A peer entry's time in CRANKING (R110). -/
def crankingAge (u : UnitNo) (a : Arbiter) : Timer :=
  match claimOf (.unit u) a.claims with
  | some c =>
    match c.state with
    | .cranking age => some age
    | .waiting => none
  | none => none

/-- R116: a peer's CRANKING entry is removed for its age and its pair put in the expired list. -/
def expireClaim (u : UnitNo) (s : State) : State :=
  match claimOf (.unit u) s.arb.claims with
  | none => s
  | some c => { s with arb := { s.arb with
      claims := dropClaim (.unit u) s.arb.claims
      expired := s.arb.expired.filter (fun e => e.unit != u) ++ [{ unit := u, serial := c.serial }] } }

/-- PEER_CRANK_LIMIT_EXPIRY (R116): a peer's age in CRANKING has reached the peer crank limit. -/
def execPeerCrankLimitExpiry (u : UnitNo) (s : State) : Host.Outcome State Fault Refusal :=
  .next <| withParams s fun p =>
    if timerReached (crankingAge u s.arb) (p.crank.peerCrankLimit * 1000) then
      settle p (expireClaim u s)
    else s

/-- OVERLAP_WINDOW_EXPIRY (R123): the overlap timer has reached the overlap window and stops. -/
def execOverlapWindowExpiry (s : State) : Host.Outcome State Fault Refusal :=
  .next <| withParams s fun p =>
    if timerReached s.arb.overlapTimer p.crank.overlapWindow then
      { s with arb := { s.arb with overlapTimer := none } }
    else s

/-! ### Intents and steps (R104, R105) -/

/-- R104, R138: a peer's intent is recorded, unless it already stands with this serial. Where the quota held
before and the count that follows makes it fail, an announced own intent is cancelled. -/
def recordIntent (p : Params) (u : UnitNo) (serial : Byte) (s : State) : State :=
  match entryOf u s.roster.entries with
  | none => s
  | some e =>
    if e.intent.map (·.serial) = some serial then s
    else
      let s1 := updateEntry u (fun e => { e with intent := some { serial, age := 0 } }) s
      if s.layover.phase = .announced ∧ p.layover.quota ≤ runningPeers p s
          ∧ runningPeers p s1 < p.layover.quota then
        cancelIntent s1
      else s1

/-- R104: a LAYOVER-CANCEL drops the intent that has its serial. -/
def cancelPeerIntent (u : UnitNo) (serial : Byte) (s : State) : State :=
  updateEntry u
    (fun e => if e.intent.map (·.serial) = some serial then { e with intent := none } else e) s

/-- R105, R87: a STEP from a peer: its last STEP has age 0 and the stagger timer restarts. -/
def takeStep (u : UnitNo) (s : State) : State :=
  let s1 := updateEntry u (fun e => { e with lastStep := some 0 }) s
  { s1 with step := { s1.step with stagger := some 0 } }

/-! ### STATUS and its repairs (R100 to R104) -/

/-- R101: the repair of the claim. -/
def repairClaim (u : UnitNo) (c : StatusContent) (s : State) : State :=
  match c.claim with
  | none =>
    let s1 := dropExpiredAll u s
    match claimOf (.unit u) s1.arb.claims with
    | none => s1
    | some e =>
      if !isCranking e && c.engine == .stopping && c.dest == some .prep then s1
      else removeClaim u s1
  | some (l, serial) =>
    let s1 := dropExpired u serial s
    match claimOf (.unit u) s1.arb.claims with
    | none => makeClaim u l serial .waiting s1
    | some e => if isCranking e then s1 else makeClaim u l serial .waiting s1

/-- The STATUS shows STARTING/CRANK. -/
def showsCrank (c : StatusContent) : Bool := c.engine == .starting && c.phase == some .crank

/-- R102: the repair of the crank, on the entry as R101 leaves it. An entry that becomes CRANKING is judged
for a crossing, as by CRANK-ON (R114). A CRANKING entry takes no serial that R116 keeps out
(notes/assumptions/16.md). -/
def repairCrank (p : Params) (u : UnitNo) (c : StatusContent) (s : State) : State :=
  match claimOf (.unit u) s.arb.claims with
  | none => s
  | some e =>
    match e.state with
    | .waiting =>
      if showsCrank c then
        judgeCrossing p u { s with arb := { s.arb with
          claims := putClaim { e with state := .cranking 0 } s.arb.claims } }
      else s
    | .cranking age =>
      if showsCrank c then
        match c.claim with
        | none => s
        | some (l, serial) =>
          makeClaim u l serial (.cranking (if serial = e.serial then age else 0)) s
      else
        match c.claim with
        | none => removeClaim u s
        | some (l, serial) => makeClaim u l serial .waiting (removeClaim u s)

/-- R104: the repair of the intent. -/
def repairIntent (p : Params) (u : UnitNo) (c : StatusContent) (s : State) : State :=
  match c.intent with
  | some serial => recordIntent p u serial s
  | none =>
    if c.engine = .layover then s else updateEntry u (fun e => { e with intent := none }) s

/-- R100: a STATUS: the status part is replaced, then claim, crank, crank count and intent are repaired in
that order. -/
def takeStatus (p : Params) (u : UnitNo) (c : StatusContent) (s : State) : State :=
  repairIntent p u c (takeCount u c.crankCount false (repairCrank p u c (repairClaim u c
    (updateEntry u (fun e => { e with status := some c }) s))))

/-- R97: a general frame that the roster has taken is acted on by its kind. DEMAND and FUEL-CUT only join
or refresh. -/
def actOnKind (p : Params) (u : UnitNo) (c : Content) (s : State) : State :=
  match c with
  | .crankOn level serial => takeCrankOn p u level serial s
  | .crankOff result level serial count => takeCrankOff u result level serial count s
  | .claim level serial => takeClaim u level serial s
  | .withdraw serial => takeWithdraw u serial s
  | .step _ => takeStep u s
  | .layoverIntent serial => recordIntent p u serial s
  | .layoverCancel serial => cancelPeerIntent u serial s
  | .status st => takeStatus p u st s
  | .fuelCut | .demand _ _ _ _ | .query _ _ _ | .reply _ => s

/-- R97, R98: the roster takes a general frame of unit 1 to 31; of a unit a full roster keeps out it takes
nothing further. -/
def rosterTake (p : Params) (u : UnitNo) (c : Content) (s : State) : State :=
  if u = 0 then s
  else
    let s1 := joinOrRefresh u s
    if (entryOf u s1.roster.entries).isSome then actOnKind p u c s1 else s1

end Sys2Proof.Machine
end

