-- ==== Sys2Proof/Machine/LinkRx.lean ====
section
/-! DEFINITION. LinkRx.lean: Chapter 11 on receiving: where a valid frame goes (R160), the duplicate unit number (R161),
queries (R162), and one meaning per frame kind. -/

namespace Sys2Proof.Machine

/-- The station waits for idle after a frame (R155). -/
def frameEnded (s : State) : State :=
  { s with link := { s.link with receive := .waitingIdle } }

/-- R133: the layover unit of a station that becomes link-silent. -/
def silenceLayover (s : State) : State :=
  { s with layover := { s.layover with
      eligible := false, idle := .stopped, ownIntent := none, phase := .none, holdTimer := none } }

/-- R161: a duplicate taken in UP makes the link SILENT; taken in SILENT it changes nothing. -/
def takeDuplicate (s : State) : State :=
  if s.link.state = .up then
    silenceSequencer (silenceLayover
      { s with link := { s.link with
          state := .silent, queue := [], buffer := none, statusTimer := none } })
  else s

/-- R160: a general frame goes to the roster, and besides it a DEMAND to the demand unit and a FUEL-CUT to
the protection unit. Neither R97 nor R160 orders the two deliveries of one frame; the roster's comes first
(DESIGN CHOICE, notes/assumptions/27.md). -/
def takeGeneral (p : Params) (src : UnitNo) (c : Content) (s : State) : State :=
  let s1 := rosterTake p src c s
  match c with
  | .demand row reverser brake serial => takeDemand p src row reverser brake serial s1
  | .fuelCut => trip .fuelCut (some (.frame src)) s1
  | .crankOn _ _ | .crankOff _ _ _ _ | .claim _ _ | .withdraw _ | .step _ | .layoverIntent _
  | .layoverCancel _ | .status _ | .query _ _ _ | .reply _ => s1

/-- R160: a valid frame that is no duplicate. An addressed frame for another station is discarded, a REPLY
is dropped, and a QUERY is answered (R162). -/
def takeValid (p : Params) (src : UnitNo) (c : Content) (s : State) : State :=
  match c with
  | .query dest kind part =>
    if dest.toNat = p.unit.val then requestFrame (.reply src kind part) s else s
  | .reply _ => s
  | .fuelCut | .crankOn _ _ | .crankOff _ _ _ _ | .claim _ _ | .withdraw _ | .demand _ _ _ _
  | .step _ | .layoverIntent _ | .layoverCancel _ | .status _ => takeGeneral p src c s

/-- R155, R160: a frame heard whole in UP or SILENT. One that fails the field check is discarded. -/
def receiveContent (src : UnitNo) (c : Content) (s : State) : State :=
  withParams s fun p =>
    if s.link.state = .down then s
    else if !contentValid c then frameEnded s
    else if src = p.unit then settle p (takeDuplicate (frameEnded s))
    else settle p (takeValid p src c (frameEnded s))

/-- FUEL_CUT (R53, R97, R160). -/
def execFuelCut (source : UnitNo) (s : State) : Host.Outcome State Fault Refusal :=
  .next (receiveContent source .fuelCut s)

/-- CRANK_ON (R97, R114, R160). -/
def execCrankOn (source : UnitNo) (level serial : Byte) (s : State) :
    Host.Outcome State Fault Refusal :=
  .next (receiveContent source (.crankOn level serial) s)

/-- CRANK_OFF (R97, R103, R115, R160). -/
def execCrankOff (source : UnitNo) (result level serial count : Byte) (s : State) :
    Host.Outcome State Fault Refusal :=
  .next (receiveContent source (.crankOff result level serial count) s)

/-- CLAIM (R97, R112, R160). -/
def execClaim (source : UnitNo) (level serial : Byte) (s : State) :
    Host.Outcome State Fault Refusal :=
  .next (receiveContent source (.claim level serial) s)

/-- WITHDRAW (R97, R113, R160). -/
def execWithdraw (source : UnitNo) (serial : Byte) (s : State) : Host.Outcome State Fault Refusal :=
  .next (receiveContent source (.withdraw serial) s)

/-- DEMAND (R68, R97, R160). -/
def execDemand (source : UnitNo) (row reverser brake serial : Byte) (s : State) :
    Host.Outcome State Fault Refusal :=
  .next (receiveContent source (.demand row reverser brake serial) s)

/-- STEP (R87, R97, R105, R160). -/
def execStep (source : UnitNo) (row : Byte) (s : State) : Host.Outcome State Fault Refusal :=
  .next (receiveContent source (.step row) s)

/-- LAYOVER_INTENT (R97, R104, R160). -/
def execLayoverIntent (source : UnitNo) (serial : Byte) (s : State) :
    Host.Outcome State Fault Refusal :=
  .next (receiveContent source (.layoverIntent serial) s)

/-- LAYOVER_CANCEL (R97, R104, R160). -/
def execLayoverCancel (source : UnitNo) (serial : Byte) (s : State) :
    Host.Outcome State Fault Refusal :=
  .next (receiveContent source (.layoverCancel serial) s)

/-- STATUS (R97, R100, R160). -/
def execStatus (source : UnitNo) (c : StatusContent) (s : State) :
    Host.Outcome State Fault Refusal :=
  .next (receiveContent source (.status c) s)

/-- QUERY (R160, R162). -/
def execQuery (source : UnitNo) (dest kind part : Byte) (s : State) :
    Host.Outcome State Fault Refusal :=
  .next (receiveContent source (.query dest kind part) s)

/-- REPLY (R160). -/
def execReply (source : UnitNo) (payload : List Byte) (s : State) :
    Host.Outcome State Fault Refusal :=
  .next (receiveContent source (.reply payload) s)

/-- DISCARDED_FRAME (R160): the bits on the line of a frame that fails a receive check. It has no effect on
any block; bits that pass every check are the valid frame they make. -/
def execDiscardedFrame (bits : List Bool) (s : State) : Host.Outcome State Fault Refusal :=
  .next <|
    match receiveLine bits with
    | some (src, c) => receiveContent src c s
    | none => withParams s fun _ => if s.link.state = .down then s else frameEnded s

end Sys2Proof.Machine
end

