-- ==== Sys2Proof/Machine/Records.lean ====
section
/-! DEFINITION. Records.lean: the content of the station's own STATUS (R40, R127, section 13.1) and the records a QUERY
asks for (R39, R57, R106, R154, R162). -/

namespace Sys2Proof.Machine

/-! ### STATUS -/

/-- The published engine state. -/
def engineCode : EngineState → EngineCode
  | .inhibited _ => .inhibited | .stopped => .stopped | .starting _ => .starting
  | .running => .running | .stopping _ => .stopping | .retryWait => .retryWait
  | .lockedOut _ => .lockedOut | .layover => .layover

/-- The start phase while STARTING. -/
def enginePhase : EngineState → Option Phase
  | .starting phase => some phase
  | _ => none

/-- The code of a stop destination. -/
def destCode : StopDest → DestCode
  | .stopped => .stopped | .retryWait => .retryWait | .lockedOut _ => .lockedOut
  | .layover => .layover | .prep => .prep

/-- The stop destination while STOPPING. -/
def engineDest : EngineState → Option DestCode
  | .stopping dest => some (destCode dest)
  | _ => none

/-- The lockout reason of a STOPPING state's destination. -/
def destReason : EngineState → Option LockReason
  | .stopping (.lockedOut reason) => some reason
  | _ => none

/-- R40: the lockout reason while LOCKED-OUT, and while STOPPING toward it. -/
def engineReason : EngineState → Option LockReason
  | .lockedOut reason => some reason
  | e => destReason e

/-- The station's STATUS from the values standing now (R40, R73, R95, R125, R127, R145, section 13.1). -/
def ownStatus (p : Params) (s : State) : StatusContent :=
  { engine := engineCode s.seq.engine, phase := enginePhase s.seq.engine
    dest := engineDest s.seq.engine, lockReason := engineReason s.seq.engine
    attempts := BitVec.ofNat 8 s.seq.attempts, crankCount := s.seq.crankCount
    current := s.step.current, target := s.step.target, available := some s.prot.available
    demandRow := some (demandInForce s).row
    claim := (claimOf .own s.arb.claims).map fun c => (c.level, c.serial)
    intent := s.layover.ownIntent
    rated := (ownFigures p s).rated, avail := (ownFigures p s).avail
    headroom := (ownFigures p s).headroom
    tempClass := s.meas.tempClass, settled := s.step.settled, stalled := s.meas.stalled
    lubeStale := s.meas.lube.stale, resvStale := s.meas.resv.stale
    coolStale := s.meas.cool.stale, battStale := s.meas.batt.stale
    cabActive := lineOn p s .cabActive, isolated := isolated s, derated := derated s
    laboring := laboring s, ground := ground s, fuelHold := fuelHold s
    handleFault := s.demand.handleFault, demandLost := demandLost s
    demandConflict := demandConflict s, rosterFull := s.roster.full, lineFault := lineFault s
    configClamped := s.reader.clamped }

/-! ### The ATTEMPT record (R39) -/

/-- The code of an attempt's result, 0 while it is in progress (section 13.1). -/
def resultByte : Option AttemptResult → Byte
  | none => 0 | some .running => 1 | some .noPrelube => 2 | some .noRoll => 3
  | some .noFire => 4 | some .noRun => 5 | some .noConfirm => 6 | some .floor => 7
  | some .yielded => 8 | some .stopped => 9 | some .tripped => 10

/-- A phase entry's five bytes: the elapsed time, so far where the phase is in progress, and the speed at
its end. -/
def phaseEntryBytes (s : State) (e : PhaseEntry) : List Byte :=
  match e.speed with
  | some v => threeBytes e.elapsed ++ twoBytes v
  | none => threeBytes (phaseElapsed s) ++ [255, 255]

/-- The ATTEMPT record's bytes. -/
def attemptBytes (s : State) : List Byte :=
  match s.seq.record with
  | none => [0]
  | some r =>
    [1, levelByte r.level, BitVec.ofNat 8 r.number, resultByte r.result,
      BitVec.ofNat 8 r.phases.length]
      ++ r.phases.flatMap (phaseEntryBytes s)

/-! ### The TRIP record (R57) -/

/-- The fuel-cut source's byte: 0 to 31, 254 LOCAL, 255 absent (section 13.1). -/
def cutSourceByte : Option CutSource → Byte
  | none => 255
  | some .localEstop => 254
  | some (.frame u) => BitVec.ofNat 8 u.val

/-- The TRIP record's bytes. -/
def tripBytes (s : State) : List Byte :=
  match s.prot.record with
  | none => [0]
  | some r =>
    [1, lockReasonByte (some r.reason), cutSourceByte r.source, engineByte (engineCode r.engine),
      phaseByte (enginePhase r.engine), destByte (engineDest r.engine),
      lockReasonByte (destReason r.engine), rowByte r.row]
      ++ twoBytes r.speed
      ++ [packBits false false false false false r.stalled r.cool.isNone r.lube.isNone]
      ++ signedTwoBytes r.cool ++ signedTwoBytes r.lube

/-! ### The ROSTER view (R106) -/

/-- An age in units of 10 ms, saturating at 255 (R106). -/
def tenths (us : Nat) : Byte := BitVec.ofNat 8 (min (us / 10000) 255)

/-- An optional age, 255 where absent (R106, R169). -/
def tenthsOf : Option Nat → Byte
  | none => 255
  | some us => tenths us

/-- The claim level this station's claim list holds for a unit, 255 for NONE (R106). -/
def claimLevelByte (s : State) (u : UnitNo) : Byte :=
  match claimOf (.unit u) s.arb.claims with
  | none => 255
  | some c => levelByte c.level

/-- The current row a status part shows; there is none outside RUNNING (R106). -/
def shownRow (c : StatusContent) : Option Row := if c.engine = .running then c.current else none

/-- Engine state and current row in one byte: 15 stands for UNKNOWN and for no row (R106, section 13.1). -/
def stateRowByte (e : RosterEntry) : Byte :=
  match e.status with
  | none => 255
  | some c => BitVec.ofNat 8 ((engineByte c.engine).toNat * 16
      + (match shownRow c with
         | some r => r.val
         | none => 15))

/-- One item of the roster view. -/
def rosterItem (s : State) (e : RosterEntry) : List Byte :=
  [BitVec.ofNat 8 (e.unit.val + (if e.intent.isSome then 64 else 0)
      + (if e.lastStep.isSome then 32 else 0)),
   tenths e.age, stateRowByte e, claimLevelByte s e.unit, tenthsOf (e.intent.map (·.age)),
   tenthsOf e.lastStep]

/-- The items a part carries: the first four, the fifth to seventh, or none (R162). -/
def partEntries (part : Byte) (entries : List RosterEntry) : List RosterEntry :=
  if part = 0 then entries.take 4 else if part = 1 then (entries.drop 4).take 3 else []

/-- The ROSTER record's bytes for a part. -/
def rosterBytes (s : State) (part : Byte) : List Byte :=
  [part, BitVec.ofNat 8 ((if s.roster.full then 128 else 0) + s.roster.entries.length)]
    ++ (partEntries part s.roster.entries).flatMap (rosterItem s)

/-! ### The LINES record (R154) -/

/-- A sensed state's code: 0 off, 1 on, 2 undetermined. -/
def senseCode : Option Bool → Nat
  | some false => 0
  | some true => 1
  | none => 2

/-- A line fault's code (section 13.1). -/
def lineFaultCode : LineFault → Nat
  | .none => 0 | .sensedOn => 1 | .sensedOff => 2

/-- One output's byte of the LINES record. -/
def lineByte (s : State) (out : Output) : Byte :=
  BitVec.ofNat 8 ((outputOf s.lines out).command.toNat * 128 + senseCode (sensed s out) * 32
    + (protectionOff s out).toNat * 16 + lineFaultCode (outputOf s.lines out).present * 4
    + lineFaultCode (outputOf s.lines out).last)

/-- The LINES record's bytes. -/
def linesBytes (s : State) : List Byte :=
  [lineByte s .fuelPump, lineByte s .prelube, lineByte s .crankValve,
   lineByte s .rackEnable, lineByte s .loadPermit,
   packBits false false false false false s.lines.runLamp s.lines.layoverLamp s.lines.faultLamp]
    ++ twoBytes s.lines.speedSet ++ twoBytes s.lines.loadRef

/-! ### REPLY (R162) -/

/-- R162: the record kind a REPLY carries, UNKNOWN for a kind that names no record. -/
def replyKind (kind : Byte) : Byte :=
  if kind = 1 ∨ kind = 2 ∨ kind = 3 ∨ kind = 4 then kind else 0

/-- R162: the record named in a QUERY, from the values standing now. -/
def recordBytes (s : State) (kind part : Byte) : List Byte :=
  match kind.toNat with
  | 1 => attemptBytes s
  | 2 => tripBytes s
  | 3 => rosterBytes s part
  | 4 => linesBytes s
  | _ => [kind]

/-- A REPLY's payload: destination, record kind and record (section 13.1). -/
def replyPayload (s : State) (dest : UnitNo) (kind part : Byte) : List Byte :=
  [BitVec.ofNat 8 dest.val, replyKind kind] ++ recordBytes s kind part

/-- R158: the content a try of a frame carries: STATUS and REPLY are formed now, every other kind carries
what it was queued with. -/
def formContent (p : Params) (s : State) : TxFrame → Content
  | .made c => c
  | .status => .status (ownStatus p s)
  | .reply dest kind part => .reply (replyPayload s dest kind part)

end Sys2Proof.Machine
end

