-- ==== Sys2Proof/Machine/LinkTx.lean ====
section
/-! DEFINITION. LinkTx.lean: Chapter 11 on sending: the status period, the idle line, lost arbitration, transmit errors
and the frame sent in full. -/

namespace Sys2Proof.Machine

/-- STATUS_PERIOD_EXPIRY (R159, R66): the status timer has reached the status period: STATUS is queued, in
OWN the DEMAND is asked for, and the timer starts again from 0. -/
def execStatusPeriodExpiry (s : State) : Host.Outcome State Fault Refusal :=
  .next <| withParams s fun p =>
    if timerReached s.link.statusTimer p.link.statusPeriod then
      let s1 := requestFrame .status { s with link := { s.link with statusTimer := some 0 } }
      if s.demand.source = .own then requestMade (demandContent s.demand.ownRecord) s1 else s1
    else s

/-- R158: a try of a frame begins with the given try count; the receive state stays as it is
(notes/assumptions/29.md). -/
def beginTry (p : Params) (f : TxFrame) (tries : Nat) (s : State) : State :=
  { s with link := { s.link with
      buffer := some { frame := f, content := formContent p s f, tries, onLine := true } } }

/-- R156, R158: at the idle line the buffer's frame, or else the head of the queue, begins. -/
def beginSending (p : Params) (s : State) : State :=
  match s.link.buffer with
  | some b => beginTry p b.frame b.tries s
  | none =>
    match s.link.queue with
    | [] => s
    | f :: rest => beginTry p f 1 { s with link := { s.link with queue := rest } }

/-- A frame of the station is on the line. -/
def sending (s : State) : Bool :=
  match s.link.buffer with
  | some b => b.onLine
  | none => false

/-- LINE_IDLE (R156, R158): the line has been recessive for 12 bit times. While the station itself is on the
line it is not idle, and its receive state stays idle, since R155 names none for sending (DESIGN CHOICE,
notes/assumptions/29.md). In SILENT nothing is sent, and in DOWN nothing is heard (R155). -/
def execLineIdle (s : State) : Host.Outcome State Fault Refusal :=
  .next <| withParams s fun p =>
    match s.link.state with
    | .down => s
    | .silent => { s with link := { s.link with receive := .idle } }
    | .up =>
      if sending s then s else beginSending p { s with link := { s.link with receive := .idle } }

/-- ARBITRATION_LOST (R156, R160): the frame stays in the buffer with its try count, and the station receives
the rest of the winner's frame. -/
def execArbitrationLost (s : State) : Host.Outcome State Fault Refusal :=
  .next <| withParams s fun _ =>
    match s.link.buffer with
    | none => s
    | some b =>
      if b.onLine then
        { s with link := { s.link with
            buffer := some { b with onLine := false }, receive := .receiving } }
      else s

/-- TRANSMIT_ERROR (R158, R160): below three tries the frame stays in the buffer for its next try; at the
third it is discarded. The station receives what follows on the line. -/
def execTransmitError (s : State) : Host.Outcome State Fault Refusal :=
  .next <| withParams s fun _ =>
    match s.link.buffer with
    | none => s
    | some b =>
      if b.onLine then
        { s with link := { s.link with
            buffer := if b.tries < 3 then some { b with tries := b.tries + 1, onLine := false }
              else none
            receive := .receiving } }
      else s

/-- R109: the station's first frame sent in full places it at the tail of its rotation. -/
def placeStation (s : State) : State :=
  if s.arb.placed then s
  else
    let s1 := moveToTail .own s
    { s1 with arb := { s1.arb with placed := true } }

/-- FRAME_SENT_IN_FULL (R158, R109): the buffer is emptied, and the first frame places the station. -/
def execFrameSentInFull (s : State) : Host.Outcome State Fault Refusal :=
  .next <| withParams s fun p =>
    if sending s then
      settle p (placeStation { s with link := { s.link with
        buffer := none, receive := .waitingIdle } })
    else s

end Sys2Proof.Machine
end

