-- ==== Sys2Proof/Machine/Protection.lean ====
section
/-! DEFINITION. Protection.lean: Chapter 3: the expiries of the trip delays and of the fuel-cut hold. -/

namespace Sys2Proof.Machine

/-- LUBE_TRIP_DELAY_EXPIRY (R50): the lube trip timer has reached the lube trip delay. -/
def execLubeTripDelayExpiry (s : State) : Host.Outcome State Fault Refusal :=
  .next <| withParams s fun p =>
    if lubeTripHolds p s ∧ timerReached s.prot.lubeTimer (p.protect.lubeDelay * 1000) then
      settle p (trip .lube none s)
    else s

/-- HOT_STOP_DELAY_EXPIRY (R51): the hot-stop timer has reached the hot-stop delay. -/
def execHotStopDelayExpiry (s : State) : Host.Outcome State Fault Refusal :=
  .next <| withParams s fun p =>
    if hotStopHolds s ∧ timerReached s.prot.hotTimer (p.protect.hotDelay * 1000) then
      settle p (trip .hot none s)
    else s

/-- FUEL_CUT_HOLD_EXPIRY (R55): the hold timer has reached the fuel-cut hold: the hold ends, or starts again
from 0 where ESTOP is on. -/
def execFuelCutHoldExpiry (s : State) : Host.Outcome State Fault Refusal :=
  .next <| withParams s fun p =>
    if timerReached s.prot.holdTimer (p.protect.fuelCutHold * 1000) then
      settle p { s with prot := { s.prot with
        holdTimer := if lineOn p s .estop then some 0 else none } }
    else s

end Sys2Proof.Machine
end

