-- ==== Sys2Proof/Machine/Image.lean ====
section
/-! DEFINITION. Image.lean: the configuration image: defaults, checks, record walk and clamps (R164 to R166, 13.2). -/

namespace Sys2Proof.Machine

open Config

/-! ### Built-in defaults (R165 and the chapters it names) -/

/-- LINK defaults (R165, Chapters 4, 6 and 11). -/
def linkDefault : LinkParams :=
  { statusPeriod := 100, silenceExp := 3, demandTimeout := 400, demandHold := 5000 }

/-- SENSE defaults; each scaling is the range of its channel (R5, R8, R165). -/
def senseDefault : SenseParams :=
  { teeth := 120, gate := 6, stallTime := 500, stoppedSpeed := 30, coldLimit := 40, hotLimit := 80
    lube := { low := 0, high := 1000 }, resv := { low := 0, high := 1200 }
    cool := { low := -50, high := 150 }, batt := { low := 0, high := 1500 } }

/-- START-N defaults (section 2.3). -/
def startNDefault : StartProfile :=
  { mode := .pressure, prelubeTime := 30, prelubePressure := 30, prelubeLimit := 60
    rollSpeed := 20, rollTime := 3, fuelOnSpeed := 60, releaseSpeed := 180, crankLimit := 15
    fireLimit := 10, confirmTime := 3, confirmLimit := 20, confirmLube := 100 }

/-- START-C defaults (section 2.3). -/
def startCDefault : StartProfile :=
  { mode := .pressure, prelubeTime := 45, prelubePressure := 30, prelubeLimit := 90
    rollSpeed := 20, rollTime := 5, fuelOnSpeed := 60, releaseSpeed := 180, crankLimit := 25
    fireLimit := 15, confirmTime := 3, confirmLimit := 30, confirmLube := 100 }

/-- A default load-notch row, with the up-dwells that rows ID to N7 share (section 5.1). -/
def notchRowDefault (setpoint power lubeMin : Nat) : NotchRow :=
  { setpoint, power, lubeMin, upCold := 6000, upWarm := 2000, upHot := 3000 }

/-- The default notch table, NOTCH's and NOTCH-ALT's alike (section 5.1, R165). -/
def notchDefault : NotchTable :=
  { rows :=
      [{ setpoint := 250, power := 0, lubeMin := 70, upCold := 0, upWarm := 0, upHot := 0 },
       notchRowDefault 320 0 80, notchRowDefault 380 40 90, notchRowDefault 450 75 110,
       notchRowDefault 520 110 130, notchRowDefault 600 150 150, notchRowDefault 680 195 170,
       notchRowDefault 760 240 190, notchRowDefault 840 285 210,
       { setpoint := 920, power := 330, lubeMin := 230, upCold := 0, upWarm := 0, upHot := 0 }]
    downDwell := 1000, fullScale := 1100, band := 25 }

/-- CRANK defaults (Chapter 7). -/
def crankDefault : CrankParams :=
  { maxCranking := 1, startPressure := 650, floor := 450, claimSettle := 300, overlapWindow := 500
    peerCrankLimit := 60, maxAttempts := 3, recrank := 20 }

/-- STEP defaults (section 5.1). -/
def stepDefault : StepParams :=
  { settleLimit := 15, stagger := 500, lowIdleEnable := true, lowIdleTime := 120
    makeUpEnable := true, makeUpLimit := 1 }

/-- LAYOVER defaults (Chapter 9). -/
def layoverDefault : LayoverParams :=
  { enable := true, idleTime := 10, quota := 1, intentHold := 1500, coolMin := 45, battMin := 740
    resvMin := 800, restartTemp := 35, restartVolt := 700, restartPress := 700 }

/-- PROTECT defaults (Chapter 3). -/
def protectDefault : ProtectParams :=
  { overspeed := 1050, derate1Temp := 92, derate1Cap := 7, derate2Temp := 97, derate2Cap := 4
    hotTemp := 102, hotDelay := 60, lubeDelay := 5, fuelCutHold := 10 }

/-- The default of one output's LINES entry (R146). -/
def outputDefault : OutputParams :=
  { polarity := .activeHigh, sensePolarity := .activeHigh, mismatch := 300 }

/-- LINES defaults: every polarity active-high, every mismatch time 300 ms (Chapter 10). -/
def linesDefault : LinesParams :=
  { fuelPump := outputDefault, prelube := outputDefault, crankValve := outputDefault
    rackEnable := outputDefault, loadPermit := outputDefault
    runLamp := .activeHigh, layoverLamp := .activeHigh, faultLamp := .activeHigh
    handle1 := .activeHigh, handle2 := .activeHigh, handle3 := .activeHigh, handle4 := .activeHigh
    cabActive := .activeHigh, reverserCentre := .activeHigh, brakeSet := .activeHigh
    runIsolate := .activeHigh, startPb := .activeHigh, stopPb := .activeHigh, estop := .activeHigh
    groundRelay := .activeHigh, derateSelect := .activeHigh }

/-! ### Range clamps (R166: each field to the range its chapter gives) -/

/-- A whole number clamped to a range (00_scope.md, "Arithmetic"). -/
def clampNat (lo hi n : Nat) : Nat := max lo (min hi n)

/-- A signed value clamped to a range. -/
def clampInt (lo hi n : Int) : Int := max lo (min hi n)

/-- LINK's ranges (Chapters 4, 6 and 11). -/
def clampLink (r : LinkParams) : LinkParams :=
  { statusPeriod := clampNat 50 500 r.statusPeriod, silenceExp := clampNat 0 7 r.silenceExp
    demandTimeout := clampNat 200 2000 r.demandTimeout
    demandHold := clampNat 0 30000 r.demandHold }

/-- A scaling within its channel's range. -/
def clampScale (lo hi : Int) (r : Scale) : Scale :=
  { low := clampInt lo hi r.low, high := clampInt lo hi r.high }

/-- SENSE's ranges (R165; the channels' of Chapter 1). -/
def clampSense (r : SenseParams) : SenseParams :=
  { teeth := clampNat 30 250 r.teeth, gate := clampNat 1 64 r.gate
    stallTime := clampNat 100 2000 r.stallTime, stoppedSpeed := clampNat 5 100 r.stoppedSpeed
    coldLimit := clampInt 0 80 r.coldLimit, hotLimit := clampInt 20 120 r.hotLimit
    lube := clampScale 0 1000 r.lube, resv := clampScale 0 1200 r.resv
    cool := clampScale (-50) 150 r.cool, batt := clampScale 0 1500 r.batt }

/-- A start profile's ranges (section 2.3). -/
def clampProfile (r : StartProfile) : StartProfile :=
  { mode := r.mode, prelubeTime := clampNat 5 300 r.prelubeTime
    prelubePressure := clampNat 10 200 r.prelubePressure
    prelubeLimit := clampNat 10 300 r.prelubeLimit, rollSpeed := clampNat 5 100 r.rollSpeed
    rollTime := clampNat 1 10 r.rollTime, fuelOnSpeed := clampNat 20 300 r.fuelOnSpeed
    releaseSpeed := clampNat 60 400 r.releaseSpeed, crankLimit := clampNat 5 60 r.crankLimit
    fireLimit := clampNat 2 60 r.fireLimit, confirmTime := clampNat 1 30 r.confirmTime
    confirmLimit := clampNat 5 120 r.confirmLimit, confirmLube := clampNat 20 500 r.confirmLube }

/-- A notch row's ranges (section 5.1). -/
def clampRow (r : NotchRow) : NotchRow :=
  { setpoint := clampNat 100 1500 r.setpoint, power := clampNat 0 1000 r.power
    lubeMin := clampNat 0 1000 r.lubeMin, upCold := clampNat 0 60000 r.upCold
    upWarm := clampNat 0 60000 r.upWarm, upHot := clampNat 0 60000 r.upHot }

/-- A notch table's ranges (section 5.1). -/
def clampTable (r : NotchTable) : NotchTable :=
  { rows := r.rows.map clampRow, downDwell := clampNat 200 10000 r.downDwell
    fullScale := clampNat 500 2000 r.fullScale, band := clampNat 5 100 r.band }

/-- CRANK's ranges (Chapter 7). -/
def clampCrank (r : CrankParams) : CrankParams :=
  { maxCranking := clampNat 1 4 r.maxCranking, startPressure := clampNat 200 1100 r.startPressure
    floor := clampNat 100 1050 r.floor, claimSettle := clampNat 100 5000 r.claimSettle
    overlapWindow := clampNat 100 5000 r.overlapWindow
    peerCrankLimit := clampNat 10 300 r.peerCrankLimit, maxAttempts := clampNat 1 5 r.maxAttempts
    recrank := clampNat 5 300 r.recrank }

/-- STEP's ranges (section 5.1). -/
def clampStep (r : StepParams) : StepParams :=
  { settleLimit := clampNat 2 60 r.settleLimit, stagger := clampNat 100 5000 r.stagger
    lowIdleEnable := r.lowIdleEnable, lowIdleTime := clampNat 10 1800 r.lowIdleTime
    makeUpEnable := r.makeUpEnable, makeUpLimit := clampNat 0 2 r.makeUpLimit }

/-- LAYOVER's ranges (Chapter 9). -/
def clampLayover (r : LayoverParams) : LayoverParams :=
  { enable := r.enable, idleTime := clampNat 1 60 r.idleTime, quota := clampNat 0 3 r.quota
    intentHold := clampNat 500 10000 r.intentHold, coolMin := clampInt 0 100 r.coolMin
    battMin := clampNat 500 1200 r.battMin, resvMin := clampNat 300 1100 r.resvMin
    restartTemp := clampInt (-20) 80 r.restartTemp, restartVolt := clampNat 500 1200 r.restartVolt
    restartPress := clampNat 250 1150 r.restartPress }

/-- PROTECT's ranges (Chapter 3); the cap rows are clamped as they are read (`capOfByte`). -/
def clampProtect (r : ProtectParams) : ProtectParams :=
  { overspeed := clampNat 400 1500 r.overspeed, derate1Temp := clampInt 60 130 r.derate1Temp
    derate1Cap := r.derate1Cap, derate2Temp := clampInt 60 135 r.derate2Temp
    derate2Cap := r.derate2Cap, hotTemp := clampInt 60 140 r.hotTemp
    hotDelay := clampNat 10 600 r.hotDelay, lubeDelay := clampNat 1 30 r.lubeDelay
    fuelCutHold := clampNat 5 120 r.fuelCutHold }

/-- LINES' one range, the mismatch times' (Chapter 10). -/
def clampLines (r : LinesParams) : LinesParams :=
  { r with
    fuelPump := { r.fuelPump with mismatch := clampNat 100 5000 r.fuelPump.mismatch }
    prelube := { r.prelube with mismatch := clampNat 100 5000 r.prelube.mismatch }
    crankValve := { r.crankValve with mismatch := clampNat 100 5000 r.crankValve.mismatch }
    rackEnable := { r.rackEnable with mismatch := clampNat 100 5000 r.rackEnable.mismatch }
    loadPermit := { r.loadPermit with mismatch := clampNat 100 5000 r.loadPermit.mismatch } }

/-! ### Records as read (section 13.2). Each reader gives the fields and whether a field that names one of
a set of values, or a cap row, was put right on the way (R165). -/

/-- Byte `i` of a record's fields. -/
def fieldByte (fields : List Byte) (i : Nat) : Byte := fields.getD i 0

/-- The unsigned byte field at `i`. -/
def field1 (fields : List Byte) (i : Nat) : Nat := (fieldByte fields i).toNat

/-- The unsigned two-byte field at `i`, most significant byte first (R169). -/
def field2 (fields : List Byte) (i : Nat) : Nat :=
  natOfTwo (fieldByte fields i) (fieldByte fields (i + 1))

/-- The signed byte field at `i` (R169). -/
def signed1 (fields : List Byte) (i : Nat) : Int := (fieldByte fields i).toInt

/-- The signed two-byte field at `i` (R169). -/
def signed2 (fields : List Byte) (i : Nat) : Int := (BitVec.ofNat 16 (field2 fields i)).toInt

/-- An enable byte: 0 or 1, otherwise its default, with the mark set (R165). -/
def enableField (fields : List Byte) (i : Nat) (dflt : Bool) : Bool × Bool :=
  if field1 fields i = 0 then (false, false)
  else if field1 fields i = 1 then (true, false) else (dflt, true)

/-- A cap row, clamped to ID to N8, with the mark set where that changed it (Chapter 3, R166). -/
def capOfByte (n : Nat) : Row × Bool :=
  (Fin.ofNat 10 (clampNat 1 9 n), clampNat 1 9 n != n)

/-- A polarity bit (R169). -/
def polarityBit (b : Bool) : Polarity := if b then .activeLow else .activeHigh

/-- LINK's fields, 7 bytes. -/
def readLink (f : List Byte) : LinkParams :=
  { statusPeriod := field2 f 0, silenceExp := field1 f 2, demandTimeout := field2 f 3
    demandHold := field2 f 5 }

/-- SENSE's fields, 23 bytes. -/
def readSense (f : List Byte) : SenseParams :=
  { teeth := field1 f 0, gate := field1 f 1, stallTime := field2 f 2, stoppedSpeed := field1 f 4
    coldLimit := signed1 f 5, hotLimit := signed1 f 6
    lube := { low := signed2 f 7, high := signed2 f 9 }
    resv := { low := signed2 f 11, high := signed2 f 13 }
    cool := { low := signed2 f 15, high := signed2 f 17 }
    batt := { low := signed2 f 19, high := signed2 f 21 } }

/-- A start profile's fields, 20 bytes; the prelube mode outside its set takes its default, PRESSURE. -/
def readProfile (f : List Byte) : StartProfile × Bool :=
  ({ mode := if field1 f 0 = 0 then .timed else .pressure
     prelubeTime := field2 f 1, prelubePressure := field2 f 3, prelubeLimit := field2 f 5
     rollSpeed := field2 f 7, rollTime := field1 f 9, fuelOnSpeed := field2 f 10
     releaseSpeed := field2 f 12, crankLimit := field1 f 14, fireLimit := field1 f 15
     confirmTime := field1 f 16, confirmLimit := field1 f 17, confirmLube := field2 f 18 },
   decide (1 < field1 f 0))

/-- One notch row's 12 bytes, from byte `i` on. -/
def readRow (f : List Byte) (i : Nat) : NotchRow :=
  { setpoint := field2 f i, power := field2 f (i + 2), lubeMin := field2 f (i + 4)
    upCold := field2 f (i + 6), upWarm := field2 f (i + 8), upHot := field2 f (i + 10) }

/-- A notch table's fields, 125 bytes. -/
def readTable (f : List Byte) : NotchTable :=
  { rows := [readRow f 0, readRow f 12, readRow f 24, readRow f 36, readRow f 48, readRow f 60,
             readRow f 72, readRow f 84, readRow f 96, readRow f 108]
    downDwell := field2 f 120, fullScale := field2 f 122, band := field1 f 124 }

/-- CRANK's fields, 14 bytes. -/
def readCrank (f : List Byte) : CrankParams :=
  { maxCranking := field1 f 0, startPressure := field2 f 1, floor := field2 f 3
    claimSettle := field2 f 5, overlapWindow := field2 f 7, peerCrankLimit := field2 f 9
    maxAttempts := field1 f 11, recrank := field2 f 12 }

/-- STEP's fields, 8 bytes. -/
def readStep (f : List Byte) : StepParams × Bool :=
  let low := enableField f 3 true
  let mk := enableField f 6 true
  ({ settleLimit := field1 f 0, stagger := field2 f 1, lowIdleEnable := low.1
     lowIdleTime := field2 f 4, makeUpEnable := mk.1, makeUpLimit := field1 f 7 }, low.2 || mk.2)

/-- LAYOVER's fields, 15 bytes. -/
def readLayover (f : List Byte) : LayoverParams × Bool :=
  let en := enableField f 0 true
  ({ enable := en.1, idleTime := field1 f 1, quota := field1 f 2, intentHold := field2 f 3
     coolMin := signed1 f 5, battMin := field2 f 6, resvMin := field2 f 8
     restartTemp := signed1 f 10, restartVolt := field2 f 11, restartPress := field2 f 13 }, en.2)

/-- PROTECT's fields, 14 bytes. -/
def readProtect (f : List Byte) : ProtectParams × Bool :=
  let c1 := capOfByte (field1 f 4)
  let c2 := capOfByte (field1 f 7)
  ({ overspeed := field2 f 0, derate1Temp := signed2 f 2, derate1Cap := c1.1
     derate2Temp := signed2 f 5, derate2Cap := c2.1, hotTemp := signed2 f 8
     hotDelay := field2 f 10, lubeDelay := field1 f 12, fuelCutHold := field1 f 13 },
   c1.2 || c2.2)

/-- One output's LINES entry, 3 bytes from byte `i` on. Bits 7 to 2 of its polarities byte, of which section 13.2 says
nothing, are ignored, and CONFIG-CLAMPED is not set for them (DESIGN CHOICE, notes/assumptions/30.md). -/
def readOutput (f : List Byte) (i : Nat) : OutputParams :=
  { polarity := polarityBit ((fieldByte f i).getLsbD 1)
    sensePolarity := polarityBit ((fieldByte f i).getLsbD 0), mismatch := field2 f (i + 1) }

/-- LINES' fields, 18 bytes. Bits 7 to 3 of the lamp byte, of which section 13.2 says nothing, are ignored like the
unused bits 15 to 13 of the input polarities, and CONFIG-CLAMPED is not set for them (DESIGN CHOICE,
notes/assumptions/30.md). -/
def readLines (f : List Byte) : LinesParams :=
  let lamps := fieldByte f 15
  let ins := BitVec.ofNat 16 (field2 f 16)
  { fuelPump := readOutput f 0, prelube := readOutput f 3, crankValve := readOutput f 6
    rackEnable := readOutput f 9, loadPermit := readOutput f 12
    runLamp := polarityBit (lamps.getLsbD 2), layoverLamp := polarityBit (lamps.getLsbD 1)
    faultLamp := polarityBit (lamps.getLsbD 0)
    handle1 := polarityBit (ins.getLsbD 0), handle2 := polarityBit (ins.getLsbD 1)
    handle3 := polarityBit (ins.getLsbD 2), handle4 := polarityBit (ins.getLsbD 3)
    cabActive := polarityBit (ins.getLsbD 4), reverserCentre := polarityBit (ins.getLsbD 5)
    brakeSet := polarityBit (ins.getLsbD 6), runIsolate := polarityBit (ins.getLsbD 7)
    startPb := polarityBit (ins.getLsbD 8), stopPb := polarityBit (ins.getLsbD 9)
    estop := polarityBit (ins.getLsbD 10), groundRelay := polarityBit (ins.getLsbD 11)
    derateSelect := polarityBit (ins.getLsbD 12) }

/-! ### Cross-field clamps (R166, in the order written) -/

/-- Clamp 2: both ends of a scaling return to the channel's range where low is not below high. -/
def crossScale (lo hi : Int) (r : Scale) : Scale :=
  if r.low < r.high then r else { low := lo, high := hi }

/-- Clamps 1 to 3, on the SENSE fields. -/
def crossSense (r : SenseParams) : SenseParams :=
  { r with
    gate := min r.gate r.teeth
    lube := crossScale 0 1000 r.lube, resv := crossScale 0 1200 r.resv
    cool := crossScale (-50) 150 r.cool, batt := crossScale 0 1500 r.batt
    hotLimit := max r.hotLimit (r.coldLimit + 1) }

/-- Clamp 4's second part: from LO upward, setpoint and power raised to the previous row's. -/
def raiseRows (setpoint power : Nat) : List NotchRow → List NotchRow
  | [] => []
  | r :: rs =>
    let r' := { r with setpoint := max r.setpoint setpoint, power := max r.power power }
    r' :: raiseRows r'.setpoint r'.power rs

/-- Clamp 4's last part: N8's power raised to 1 where it is 0. -/
def raiseLast : List NotchRow → List NotchRow
  | [] => []
  | [r] => [{ r with power := max r.power 1 }]
  | r :: rs => r :: raiseLast rs

/-- Clamp 4, on a notch table. -/
def crossTable (t : NotchTable) : NotchTable :=
  { t with rows :=
      raiseLast (raiseRows 0 0
        (t.rows.map fun r => { r with setpoint := min r.setpoint t.fullScale })) }

/-- Clamp 5: s raised, one at a time, until 125 × 2^s is at least three status periods. -/
def raiseExp (period : Nat) : Nat → Nat → Nat
  | 0, s => s
  | fuel + 1, s => if 125 * 2 ^ s < 3 * period then raiseExp period fuel (s + 1) else s

/-- Clamp 11, on a start profile. -/
def crossProfile (r : StartProfile) : StartProfile :=
  let fuelOn := max r.fuelOnSpeed r.rollSpeed
  { r with fuelOnSpeed := fuelOn, releaseSpeed := max r.releaseSpeed fuelOn }

/-- R166: the cross-field clamps, made on the values the earlier ones left. -/
def crossClamp (p : Params) : Params :=
  let period := p.link.statusPeriod
  { p with
    sense := crossSense p.sense
    notch := crossTable p.notch, notchAlt := crossTable p.notchAlt
    link := { p.link with silenceExp := raiseExp period 16 p.link.silenceExp }
    crank := { p.crank with
      claimSettle := max p.crank.claimSettle (2 * period)
      floor := min p.crank.floor (p.crank.startPressure - 50)
      peerCrankLimit := max p.crank.peerCrankLimit 60 }
    step := { p.step with stagger := max p.step.stagger (period + 50) }
    layover := { p.layover with
      restartPress := max p.layover.restartPress (p.crank.startPressure + 50)
      intentHold := max p.layover.intentHold (3 * period) }
    startN := crossProfile p.startN, startC := crossProfile p.startC }

/-! ### The record walk and the image's checks (R164, R165) -/

/-- One record of the image (section 13.2). -/
structure ImageRecord where
  kind : Nat
  present : Bool
  fields : List Byte
deriving DecidableEq, Repr

/-- R164, record walk: the records between the header and the stored CRC, none where one does not fit.
`fuel` is at least the number of bytes, and each record takes three or more. -/
def walkRecords : Nat → List Byte → Option (List ImageRecord)
  | _, [] => some []
  | fuel + 1, kind :: len :: mark :: rest =>
    if rest.length < len.toNat then none
    else
      match walkRecords fuel (rest.drop len.toNat) with
      | none => none
      | some more =>
        some ({ kind := kind.toNat, present := mark.getLsbD 0, fields := rest.take len.toNat }
          :: more)
  | _, _ => none

/-- The field length of each known record kind, none for a kind not in the table (section 13.2). -/
def recordLength : Nat → Option Nat
  | 1 => some 1 | 2 => some 7 | 3 => some 23 | 4 => some 20 | 5 => some 20 | 6 => some 125
  | 7 => some 125 | 8 => some 14 | 9 => some 8 | 10 => some 15 | 11 => some 14 | 12 => some 18
  | _ => none

/-- What the walk has taken so far: the first present record of each kind, and CONFIG-CLAMPED (R165). -/
structure TakenRecords where
  records : List ImageRecord
  clamped : Bool
deriving DecidableEq, Repr

/-- R165: one record taken, passed over, or passed over with CONFIG-CLAMPED. A record with a clear present mark or
a wrong length that follows one of its kind already taken leaves that one taken (DESIGN CHOICE,
notes/assumptions/28.md). -/
def takeRecord (t : TakenRecords) (r : ImageRecord) : TakenRecords :=
  if !r.present then t
  else
    match recordLength r.kind with
    | none => t
    | some len =>
      if r.fields.length ≠ len then { t with clamped := true }
      else if t.records.any (fun x => x.kind == r.kind) then { t with clamped := true }
      else { t with records := t.records ++ [r] }

/-- The fields taken for a kind, none where the kind counts as absent. -/
def takenFields (t : TakenRecords) (kind : Nat) : Option (List Byte) :=
  (t.records.find? (fun r => r.kind == kind)).map (·.fields)

/-- A record's parameters with the mark CONFIG-CLAMPED of its own fields: read and clamped to range where
present, the default otherwise (R165, R166). -/
def recordParams {α : Type} [DecidableEq α] (fields : Option (List Byte)) (dflt : α)
    (read : List Byte → α × Bool) (clamp : α → α) : α × Bool :=
  match fields with
  | none => (dflt, false)
  | some f => (clamp (read f).1, (read f).2 || decide (clamp (read f).1 ≠ (read f).1))

/-- The LINES parameters of the records taken. -/
def linesOf (t : TakenRecords) : LinesParams × Bool :=
  recordParams (takenFields t 12) linesDefault (fun f => (readLines f, false)) clampLines

/-- R165 and R166: the applied set for a unit number, with CONFIG-CLAMPED. -/
def paramsOf (t : TakenRecords) (unit : UnitNo) : Params × Bool :=
  let link := recordParams (takenFields t 2) linkDefault (fun f => (readLink f, false)) clampLink
  let sense :=
    recordParams (takenFields t 3) senseDefault (fun f => (readSense f, false)) clampSense
  let startN := recordParams (takenFields t 4) startNDefault readProfile clampProfile
  let startC := recordParams (takenFields t 5) startCDefault readProfile clampProfile
  let notch :=
    recordParams (takenFields t 6) notchDefault (fun f => (readTable f, false)) clampTable
  let notchAlt :=
    recordParams (takenFields t 7) notchDefault (fun f => (readTable f, false)) clampTable
  let crank :=
    recordParams (takenFields t 8) crankDefault (fun f => (readCrank f, false)) clampCrank
  let step := recordParams (takenFields t 9) stepDefault readStep clampStep
  let layover := recordParams (takenFields t 10) layoverDefault readLayover clampLayover
  let protect := recordParams (takenFields t 11) protectDefault readProtect clampProtect
  let lines := linesOf t
  let p : Params :=
    { unit, link := link.1, sense := sense.1, startN := startN.1, startC := startC.1
      notch := notch.1, notchAlt := notchAlt.1, crank := crank.1, step := step.1
      layover := layover.1, protect := protect.1, lines := lines.1 }
  (crossClamp p,
   t.clamped || link.2 || sense.2 || startN.2 || startC.2 || notch.2 || notchAlt.2 || crank.2
     || step.2 || layover.2 || protect.2 || lines.2 || decide (crossClamp p ≠ p))

/-- The image length the header gives, once its two bytes are read (section 13.2). -/
def imageLength : List Byte → Option Nat
  | hi :: lo :: _ => some (natOfTwo hi lo)
  | _ => none

/-- R163: the last byte has been read: the header's three bytes and as many as the image length gives. -/
def imageComplete (image : List Byte) : Bool :=
  match imageLength image with
  | none => false
  | some len => decide (max 3 len ≤ image.length)

/-- The outcome of the checks of R164. `badUnit` carries the polarities the image gives, for its CRC has
passed. -/
inductive ImageVerdict where
  | badImage
  | badUnit (lines : LinesParams)
  | good (p : Params) (clamped : Bool)
deriving DecidableEq, Repr

/-- R164: the checks on the image's records, once header and CRC are right. -/
def checkRecords (body : List Byte) : ImageVerdict :=
  match walkRecords body.length body with
  | none => .badImage
  | some records =>
    let t := records.foldl takeRecord { records := [], clamped := false }
    match takenFields t 1 with
    | none => .badUnit (linesOf t).1
    | some f =>
      if h : 1 ≤ field1 f 0 ∧ field1 f 0 < 32 then
        let r := paramsOf t ⟨field1 f 0, h.2⟩
        .good r.1 r.2
      else .badUnit (linesOf t).1

/-- R164: the checks of a complete image, in the order written. -/
def checkImage (image : List Byte) : ImageVerdict :=
  match imageLength image with
  | none => .badImage
  | some len =>
    if len < 5 ∨ 1024 < len ∨ field1 image 2 ≠ 2 then .badImage
    else if (crcOfBits (bitsOfBytes (image.take (len - 2)))).toNat ≠ field2 image (len - 2) then
      .badImage
    else checkRecords ((image.take (len - 2)).drop 3)

end Sys2Proof.Machine
end

