-- ==== Sys2Proof/Machine/Reader.lean ====
section
/-! DEFINITION. Reader.lean: Chapter 12: reset, the configuration read, its failures and handover. -/

namespace Sys2Proof.Machine

/-- RESET (R5, R12, R17, R42, R59, R73, R74, R96, R107, R126, R133, R146, R155, R163). The raw levels of the
lines are the outside's and stand; the command queue and the count of free choices are the model's. -/
def execReset (s : State) : Host.Outcome State Fault Refusal :=
  .next { State.reset with
    demand := demandReset (inputsReset s.demand.inputs)
    lines := linesReset s.lines
    choices := s.choices
    pending := s.pending }

/-- R163, R164, R146, R153: the read ends FAILED: INHIBITED, the outputs driven at their off levels and
FAULT-LAMP lit, under the given polarities. -/
def failRead (reason : InhibitReason) (polarities : Config.LinesParams) (s : State) : State :=
  { s with
    reader := { s.reader with state := .failed, request := none }
    seq := { s.seq with engine := .inhibited reason }
    lines := { s.lines with driven := true, polarities := some polarities, faultLamp := true } }

/-- R167: the applied set is handed to every block: the link comes up, the status, join and demand timers
start (R155, R119, R70), the first converter request goes out (R6), the turning watch starts (R168) and
the outputs are driven (R146). -/
def startBlocks (p : Params) (clamped : Bool) (s : State) : State :=
  { s with
    reader := { s.reader with state := .applied, request := none, applied := some p, clamped }
    link := { s.link with state := .up, statusTimer := some 0, receive := .waitingIdle }
    arb := { s.arb with joinTimer := some 0 }
    demand := { s.demand with demandTimer := some 0 }
    meas := { s.meas with request := some .lube, slot := some 0, taken := false }
    seq := { s.seq with turningWatch := some 0 }
    lines := { s.lines with driven := true, polarities := some p.lines } }

/-- R59, R167: the debounced input levels are offered as starting levels: the handle code is read, CAB-ACTIVE
found on makes the state OWN, and ESTOP found on is taken as going on. -/
def offerInputs (p : Params) (s : State) : State :=
  let s1 := takeCode p s
  let s2 := if lineOn p s1 .cabActive then cabOn p s1 else s1
  if lineOn p s2 .estop then estopOn s2 else s2

/-- R167: handover. -/
def handover (p : Params) (clamped : Bool) (s : State) : State :=
  settle p (offerInputs p (startBlocks p clamped s))

/-- R163, R164: the complete image is checked, and the read ends. -/
def endRead (s : State) : State :=
  match checkImage s.reader.image with
  | .badImage => failRead .image linesDefault s
  | .badUnit lines => failRead .unit lines s
  | .good p clamped => handover p clamped s

/-- R163: a byte of the image is taken and the next request sent. -/
def takeByte (byte : Byte) (s : State) : State :=
  { s with reader := { s.reader with image := s.reader.image ++ [byte], request := some 0 } }

/-- MEMORY_ANSWER (R163, R164, R167). -/
def execMemoryAnswer (byte : Byte) (s : State) : Host.Outcome State Fault Refusal :=
  .next <|
    if s.reader.state = .reading then
      if imageComplete (takeByte byte s).reader.image then endRead (takeByte byte s)
      else takeByte byte s
    else s

/-- MEMORY_REQUEST_TIMEOUT (R163): a read request has stood unanswered for 10 ms. -/
def execMemoryRequestTimeout (s : State) : Host.Outcome State Fault Refusal :=
  .next <|
    if s.reader.state = .reading ∧ timerReached s.reader.request 10 then
      failRead .noMemory linesDefault s
    else s

end Sys2Proof.Machine
end

