-- ==== Sys2Proof/Machine/StartSequence.lean ====
section
/-! DEFINITION. StartSequence.lean: Chapter 2 and R168: the expiries of the start sequencer's timers, the grant, and
the two moments that may make it (R118, R119). -/

namespace Sys2Proof.Machine

/-- A phase timer has reached a limit in seconds while the state is STARTING in the given phase. -/
def phaseLimit (phase : Phase) (limit : Nat) (s : State) : Bool :=
  s.seq.engine == .starting phase && timerReached s.seq.phaseTimer (limit * 1000)

/-- PRELUBE_TIME_EXPIRY (R22): in TIMED mode the phase timer has reached the prelube time. -/
def execPrelubeTimeExpiry (s : State) : Host.Outcome State Fault Refusal :=
  .next <| withParams s fun p =>
    if phaseLimit .prep (profileOf p s).prelubeTime s ∧ (profileOf p s).mode = .timed
        ∧ !s.seq.prelubeDone then
      settle p { s with seq := { s.seq with prelubeDone := true } }
    else s

/-- PRELUBE_LIMIT_EXPIRY (R22): in PRESSURE mode the phase timer has reached the prelube limit with
prelube-done clear. -/
def execPrelubeLimitExpiry (s : State) : Host.Outcome State Fault Refusal :=
  .next <| withParams s fun p =>
    if phaseLimit .prep (profileOf p s).prelubeLimit s ∧ (profileOf p s).mode = .pressure
        ∧ !s.seq.prelubeDone then
      settle p (failAttempt p .noPrelube s)
    else s

/-- CLAIM_SETTLE_EXPIRY (R118, R119): the claim-posted timer has reached the claim settle time, and the
grant is judged. -/
def execClaimSettleExpiry (s : State) : Host.Outcome State Fault Refusal :=
  .next <| withParams s fun p =>
    if timerReached s.arb.claimTimer p.crank.claimSettle then settle p s else s

/-- JOIN_TIME_EXPIRY (R118, R119): the join timer has reached the join time, two status periods, and the
grant is judged. -/
def execJoinTimeExpiry (s : State) : Host.Outcome State Fault Refusal :=
  .next <| withParams s fun p =>
    if timerReached s.arb.joinTimer (2 * p.link.statusPeriod) then settle p s else s

/-- CRANK_GRANT (R118, R23): all grant conditions hold, and the station enters CRANK (R24). -/
def execCrankGrant (s : State) : Host.Outcome State Fault Refusal :=
  .next <| withParams s fun p => if grantHolds p s then settle p (enterCrank s) else s

/-- ROLL_TIME_EXPIRY (R24): the phase timer has reached the roll time before the engine was marked
rolling. -/
def execRollTimeExpiry (s : State) : Host.Outcome State Fault Refusal :=
  .next <| withParams s fun p =>
    if phaseLimit .crank (profileOf p s).rollTime s ∧ !s.seq.rolling then
      settle p (failAttempt p .noRoll s)
    else s

/-- CRANK_LIMIT_EXPIRY (R26): the phase timer has reached the crank limit in CRANK. -/
def execCrankLimitExpiry (s : State) : Host.Outcome State Fault Refusal :=
  .next <| withParams s fun p =>
    if phaseLimit .crank (profileOf p s).crankLimit s then settle p (failAttempt p .noFire s) else s

/-- FIRE_LIMIT_EXPIRY (R29): the phase timer has reached the fire limit in FIRE. -/
def execFireLimitExpiry (s : State) : Host.Outcome State Fault Refusal :=
  .next <| withParams s fun p =>
    if phaseLimit .fire (profileOf p s).fireLimit s then settle p (failAttempt p .noRun s) else s

/-- R30: the engine is confirmed: the attempt ends RUNNING, the count is cleared and RUNNING entered. -/
def confirmEngine (s : State) : State :=
  let s1 := endAttempt .running s
  enterState .running { s1 with seq := { s1.seq with attempts := 0 } }

/-- CONFIRM_TIME_REACHED (R30): the confirm timer has reached the confirm time. -/
def execConfirmTimeReached (s : State) : Host.Outcome State Fault Refusal :=
  .next <| withParams s fun p =>
    if s.seq.engine = .starting .confirm
        ∧ timerReached s.seq.confirmTimer ((profileOf p s).confirmTime * 1000) then
      settle p (confirmEngine s)
    else s

/-- CONFIRM_LIMIT_EXPIRY (R30): the phase timer has reached the confirm limit in CONFIRM. -/
def execConfirmLimitExpiry (s : State) : Host.Outcome State Fault Refusal :=
  .next <| withParams s fun p =>
    if phaseLimit .confirm (profileOf p s).confirmLimit s then
      settle p (failAttempt p .noConfirm s)
    else s

/-- R32: the start level of a retry, from the original level and the attempt count. -/
def retryLevel (original : Level) (count : Nat) : Level :=
  levelOfNum (levelNum original - (count - 1) / 2)

/-- RECRANK_INTERVAL_EXPIRY (R32, R33): the re-crank timer has reached the re-crank interval in
RETRY-WAIT. -/
def execRecrankIntervalExpiry (s : State) : Host.Outcome State Fault Refusal :=
  .next <| withParams s fun p =>
    if s.seq.engine = .retryWait ∧ timerReached s.seq.recrankTimer (p.crank.recrank * 1000) then
      settle p (enterPrep { s with seq := { s.seq with
        startLevel := some (retryLevel (s.seq.origLevel.getD .routine) s.seq.attempts) } })
    else s

/-- TURNING_WATCH_END (R168): the watch's 1000 ms have passed. -/
def execTurningWatchEnd (s : State) : Host.Outcome State Fault Refusal :=
  .next <| withParams s fun _ =>
    if timerReached s.seq.turningWatch 1000 then
      { s with seq := { s.seq with turningWatch := none } }
    else s

end Sys2Proof.Machine
end

