-- ==== Sys2Proof/Machine/Stepper.lean ====
section
/-! DEFINITION. Stepper.lean: Chapter 5: the expiries of the notch stepper's timers. -/

namespace Sys2Proof.Machine

/-- R80 to R82: the dwell timer has reached the dwell that applies to the step the target asks for. -/
def dwellReached (p : Params) (s : State) : Bool :=
  match s.step.current, s.step.target with
  | some r, some t =>
    if r.val < t.val then
      timerReached s.step.dwell (upDwell (tableInForce p s) r s.meas.tempClass)
    else decide (t.val < r.val) && timerReached s.step.dwell (tableInForce p s).downDwell
  | _, _ => false

/-- DWELL_TIMEOUT (R80 to R82): stepping is judged. -/
def execDwellTimeout (s : State) : Host.Outcome State Fault Refusal :=
  .next <| withParams s fun p => if dwellReached p s then settle p s else s

/-- R85, R48: laboring is reported where the current row is not LO and the target is not below it. -/
def laboringCapAfter (s : State) : Option Row :=
  match s.step.current, s.step.target with
  | some r, some t => if 1 ≤ r.val ∧ r.val ≤ t.val then some r else s.prot.laboringCap
  | _, _ => s.prot.laboringCap

/-- SETTLE_LIMIT_EXPIRY (R85): the settle timer has reached the settle limit unsettled. -/
def execSettleLimitExpiry (s : State) : Host.Outcome State Fault Refusal :=
  .next <| withParams s fun p =>
    if !s.step.settled ∧ timerReached s.step.settleTimer (p.step.settleLimit * 1000) then
      settle p { s with
        step := { s.step with settleTimer := none }
        prot := { s.prot with laboringCap := laboringCapAfter s } }
    else s

/-- STAGGER_INTERVAL_EXPIRY (R87): the stagger timer has reached the stagger interval, and the step up is
judged. -/
def execStaggerIntervalExpiry (s : State) : Host.Outcome State Fault Refusal :=
  .next <| withParams s fun p =>
    if timerReached s.step.stagger p.step.stagger then settle p s else s

/-- STAGGER_HOLD_EXPIRY (R89): the stagger-hold timer has reached the stagger hold, three intervals, and the
step up is judged. -/
def execStaggerHoldExpiry (s : State) : Host.Outcome State Fault Refusal :=
  .next <| withParams s fun p =>
    if timerReached s.step.staggerHold (3 * p.step.stagger) then settle p s else s

/-- LOW_IDLE_TIME_EXPIRY (R78): the low-idle timer has reached the low-idle time. -/
def execLowIdleTimeExpiry (s : State) : Host.Outcome State Fault Refusal :=
  .next <| withParams s fun p =>
    if timerReached s.step.lowIdleTimer (p.step.lowIdleTime * 1000) then
      settle p { s with step := { s.step with lowIdleReached := true } }
    else s

end Sys2Proof.Machine
end

