-- ==== Sys2Proof/Machine/Dispatch.lean ====
section
/-! DEFINITION. Dispatch.lean: exec, one arm per command of spec/opcode_table.json, each one call of its meaning. -/

namespace Sys2Proof.Machine

def exec (i : Instr) (s : State) : Host.Outcome State Fault Refusal :=
  match i with
  | .reset => Sys2Proof.Machine.execReset s
  | .memoryAnswer byte => Sys2Proof.Machine.execMemoryAnswer byte s
  | .memoryRequestTimeout => Sys2Proof.Machine.execMemoryRequestTimeout s
  | .pickupEdge => Sys2Proof.Machine.execPickupEdge s
  | .stallTimeout => Sys2Proof.Machine.execStallTimeout s
  | .gateCounterMaximum => Sys2Proof.Machine.execGateCounterMaximum s
  | .converterSlotEnd => Sys2Proof.Machine.execConverterSlotEnd s
  | .converterReply named raw valid => Sys2Proof.Machine.execConverterReply named raw valid s
  | .stalenessTimeout ch => Sys2Proof.Machine.execStalenessTimeout ch s
  | .inputRawChange line level => Sys2Proof.Machine.execInputRawChange line level s
  | .debounceTimeout line => Sys2Proof.Machine.execDebounceTimeout line s
  | .invalidCodeTimeout => Sys2Proof.Machine.execInvalidCodeTimeout s
  | .demandTimeout => Sys2Proof.Machine.execDemandTimeout s
  | .demandHoldExpiry => Sys2Proof.Machine.execDemandHoldExpiry s
  | .recentSourceExpiry source => Sys2Proof.Machine.execRecentSourceExpiry source s
  | .prelubeTimeExpiry => Sys2Proof.Machine.execPrelubeTimeExpiry s
  | .prelubeLimitExpiry => Sys2Proof.Machine.execPrelubeLimitExpiry s
  | .claimSettleExpiry => Sys2Proof.Machine.execClaimSettleExpiry s
  | .joinTimeExpiry => Sys2Proof.Machine.execJoinTimeExpiry s
  | .crankGrant => Sys2Proof.Machine.execCrankGrant s
  | .rollTimeExpiry => Sys2Proof.Machine.execRollTimeExpiry s
  | .crankLimitExpiry => Sys2Proof.Machine.execCrankLimitExpiry s
  | .fireLimitExpiry => Sys2Proof.Machine.execFireLimitExpiry s
  | .confirmTimeReached => Sys2Proof.Machine.execConfirmTimeReached s
  | .confirmLimitExpiry => Sys2Proof.Machine.execConfirmLimitExpiry s
  | .recrankIntervalExpiry => Sys2Proof.Machine.execRecrankIntervalExpiry s
  | .turningWatchEnd => Sys2Proof.Machine.execTurningWatchEnd s
  | .lubeTripDelayExpiry => Sys2Proof.Machine.execLubeTripDelayExpiry s
  | .hotStopDelayExpiry => Sys2Proof.Machine.execHotStopDelayExpiry s
  | .fuelCutHoldExpiry => Sys2Proof.Machine.execFuelCutHoldExpiry s
  | .dwellTimeout => Sys2Proof.Machine.execDwellTimeout s
  | .settleLimitExpiry => Sys2Proof.Machine.execSettleLimitExpiry s
  | .staggerIntervalExpiry => Sys2Proof.Machine.execStaggerIntervalExpiry s
  | .staggerHoldExpiry => Sys2Proof.Machine.execStaggerHoldExpiry s
  | .lowIdleTimeExpiry => Sys2Proof.Machine.execLowIdleTimeExpiry s
  | .silenceTimeout u => Sys2Proof.Machine.execSilenceTimeout u s
  | .peerCrankLimitExpiry u => Sys2Proof.Machine.execPeerCrankLimitExpiry u s
  | .overlapWindowExpiry => Sys2Proof.Machine.execOverlapWindowExpiry s
  | .layoverIdleTimeExpiry => Sys2Proof.Machine.execLayoverIdleTimeExpiry s
  | .intentHoldExpiry => Sys2Proof.Machine.execIntentHoldExpiry s
  | .senseRawChange out level => Sys2Proof.Machine.execSenseRawChange out level s
  | .senseDebounceTimeout out => Sys2Proof.Machine.execSenseDebounceTimeout out s
  | .mismatchTimeExpiry out => Sys2Proof.Machine.execMismatchTimeExpiry out s
  | .statusPeriodExpiry => Sys2Proof.Machine.execStatusPeriodExpiry s
  | .lineIdle => Sys2Proof.Machine.execLineIdle s
  | .arbitrationLost => Sys2Proof.Machine.execArbitrationLost s
  | .transmitError => Sys2Proof.Machine.execTransmitError s
  | .frameSentInFull => Sys2Proof.Machine.execFrameSentInFull s
  | .fuelCut source => Sys2Proof.Machine.execFuelCut source s
  | .crankOn source level serial => Sys2Proof.Machine.execCrankOn source level serial s
  | .crankOff source result level serial count => Sys2Proof.Machine.execCrankOff source result level serial count s
  | .claim source level serial => Sys2Proof.Machine.execClaim source level serial s
  | .withdraw source serial => Sys2Proof.Machine.execWithdraw source serial s
  | .demand source row reverser brake serial => Sys2Proof.Machine.execDemand source row reverser brake serial s
  | .step source row => Sys2Proof.Machine.execStep source row s
  | .layoverIntent source serial => Sys2Proof.Machine.execLayoverIntent source serial s
  | .layoverCancel source serial => Sys2Proof.Machine.execLayoverCancel source serial s
  | .status source c => Sys2Proof.Machine.execStatus source c s
  | .query source dest kind part => Sys2Proof.Machine.execQuery source dest kind part s
  | .reply source payload => Sys2Proof.Machine.execReply source payload s
  | .discardedFrame bits => Sys2Proof.Machine.execDiscardedFrame bits s

end Sys2Proof.Machine
end

