-- ==== Sys2Proof/Machine/Step.lean ====
section
/-! DEFINITION. Step.lean: one step of the station: the command at the front of the queue is run, or, on an empty
queue, a microsecond passes (notes/assumptions/3.md). -/

namespace Sys2Proof.Machine

/-- The station with one command taken off its queue: the queue's rest stands. -/
def State.withPending (s : State) (rest : List Instr) : State := { s with pending := rest }

/-- One step. With a command in front, `exec` of it with the queue's rest; with none, one microsecond of the
part's time passes. -/
def step (s : State) : Host.Outcome State Fault Refusal :=
  match s.pending with
  | c :: rest => exec c (s.withPending rest)
  | [] => .next (elapse 1 s)

/-- The command that a table word spells, put at the front of the queue; the state unchanged where it spells
none. -/
def State.withFetchWord (s : State) (nbits w : Nat) : State :=
  match decodeTableWord nbits w with
  | some c => s.withPending (c :: s.pending)
  | none => s

end Sys2Proof.Machine
end

