-- ==== Sys2Proof/Safety.lean ====
section
/-! DEFINITION. Safety.lean: what counts as a sound state of the station, in the terms the statements use: the frame of
the judgements that follow a command, the outputs as their commands resolve, the lists' shape, the own claim. -/

namespace Sys2Proof.Machine

/-! ### The frame of `settle` -/

/-- What the judgements that follow a command leave alone: the reader, the measurements, the roster, the
peers' claims and every list of the arbiter, the demand unit but for the own record, the link but for its
queue, the crank count, the latches, the fuel-cut hold and the trip record, and each sense return with its
last fault. -/
structure Kept (s t : State) : Prop where
  reader : t.reader = s.reader
  meas : t.meas = s.meas
  roster : t.roster = s.roster
  choices : t.choices = s.choices
  pending : t.pending = s.pending
  demand : t.demand = { s.demand with ownRecord := t.demand.ownRecord }
  link : t.link = { s.link with queue := t.link.queue }
  rotation : t.arb.rotation = s.arb.rotation
  joinTimer : t.arb.joinTimer = s.arb.joinTimer
  placed : t.arb.placed = s.arb.placed
  crossing : t.arb.crossing = s.arb.crossing
  expired : t.arb.expired = s.arb.expired
  peerClaims : dropClaim .own t.arb.claims = dropClaim .own s.arb.claims
  crankCount : t.seq.crankCount = s.seq.crankCount
  derate1 : t.prot.derate1 = s.prot.derate1
  derate2 : t.prot.derate2 = s.prot.derate2
  hotStop : t.prot.hotStop = s.prot.hotStop
  tripLatch : t.prot.tripLatch = s.prot.tripLatch
  holdTimer : t.prot.holdTimer = s.prot.holdTimer
  lastSpeed : t.prot.lastSpeed = s.prot.lastSpeed
  tripRecord : t.prot.record = s.prot.record
  driven : t.lines.driven = s.lines.driven
  polarities : t.lines.polarities = s.lines.polarities
  sense : ∀ out, (outputOf t.lines out).sense = (outputOf s.lines out).sense
  last : ∀ out, (outputOf t.lines out).last = (outputOf s.lines out).last

/-- What a change of engine state leaves alone beside that: as `Kept`, but for the rotation and the crossing
list, the crank count, the trip latch and record and the fuel-cut hold, which a crank's end or a trip moves. -/
structure Apart (s t : State) : Prop where
  reader : t.reader = s.reader
  meas : t.meas = s.meas
  roster : t.roster = s.roster
  choices : t.choices = s.choices
  pending : t.pending = s.pending
  demand : t.demand = { s.demand with ownRecord := t.demand.ownRecord }
  link : t.link = { s.link with queue := t.link.queue }
  joinTimer : t.arb.joinTimer = s.arb.joinTimer
  placed : t.arb.placed = s.arb.placed
  expired : t.arb.expired = s.arb.expired
  peerClaims : dropClaim .own t.arb.claims = dropClaim .own s.arb.claims
  derate1 : t.prot.derate1 = s.prot.derate1
  derate2 : t.prot.derate2 = s.prot.derate2
  hotStop : t.prot.hotStop = s.prot.hotStop
  lastSpeed : t.prot.lastSpeed = s.prot.lastSpeed
  driven : t.lines.driven = s.lines.driven
  polarities : t.lines.polarities = s.lines.polarities
  sense : ∀ out, (outputOf t.lines out).sense = (outputOf s.lines out).sense
  last : ∀ out, (outputOf t.lines out).last = (outputOf s.lines out).last

/-! ### A quiet engine state -/

/-- No judgement moves the engine state: the station is not STOPPING at rest (R34), its claim is not yet old
enough for a grant (R118), and no restart watch is active where a start would be accepted (R141, R19). -/
structure Quiet (p : Params) (s : State) : Prop where
  moving : ∀ d, s.seq.engine = .stopping d → atRest p s = false
  ungranted : s.seq.engine = .starting .prep → timerReached s.arb.claimTimer p.crank.claimSettle = false
  unwatched : s.seq.engine = .stopped ∨ s.seq.engine = .layover → s.layover.watch = .inactive

/-- What the judgements leave of the sequencer and the arbiter in a quiet state: only prelube-done (R22) and
the confirm timer (R30) may follow their conditions. An inactive restart watch stays so. -/
structure Still (s t : State) : Prop where
  seq : t.seq = { s.seq with prelubeDone := t.seq.prelubeDone, confirmTimer := t.seq.confirmTimer }
  arb : t.arb = s.arb
  watch : s.layover.watch = .inactive → t.layover.watch = .inactive
  meas : t.meas = s.meas

/-! ### Time -/

/-- A timer or age a microsecond on, standing still once it has reached a limit in milliseconds
(notes/assumptions/2.md). -/
def tickTo (ms us : Nat) : Nat := if ms * 1000 ≤ us then us else us + 1

/-! ### Lines -/

/-- A line's debounce is due and takes the line from off to on (R58, R59). -/
def goesOn (p : Params) (s : State) (line : InputLine) : Prop :=
  debounceDue (inputOf s.demand.inputs line) = true ∧ lineOn p s line = false
    ∧ levelOn (inputPolarity p.lines line) (inputOf s.demand.inputs line).raw = true

/-- A line's debounce is due and takes the line from on to off (R58, R59). -/
def goesOff (p : Params) (s : State) (line : InputLine) : Prop :=
  debounceDue (inputOf s.demand.inputs line) = true ∧ lineOn p s line = true
    ∧ levelOn (inputPolarity p.lines line) (inputOf s.demand.inputs line).raw = false

/-- Every on/off output is commanded off (R31, R34, R54). -/
def allOff (s : State) : Prop := ∀ out, (outputOf s.lines out).command = false

/-! ### Speed -/

/-- The state as a completed gate leaves it at speed `v`: the next gate begun, the speed standing and compared
(R2, R49). -/
def atSpeed (v : Nat) (s : State) : State :=
  { s with
    meas := { s.meas with
      gate := { state := .timing, count := 0, counter := 0, stall := some 0 }, speed := v, stalled := false }
    prot := { s.prot with lastSpeed := v } }

/-- The speed `v` trips nothing: it is below the overspeed limit, or the value compared before was not
(R49). -/
def noOverspeed (p : Params) (s : State) (v : Nat) : Prop :=
  v < p.protect.overspeed ∨ p.protect.overspeed ≤ s.prot.lastSpeed

/-- The pickup edge that comes next completes the gate, at speed `v` (R2). -/
def gateCompletes (p : Params) (s : State) (v : Nat) : Prop :=
  s.meas.gate.state = .timing ∧ p.sense.gate ≤ s.meas.gate.count + 1
    ∧ v = min (60000000 * p.sense.gate / (p.sense.teeth * max 1 s.meas.gate.counter)) 4095

/-- The state as an abandoned gate leaves it: the gate IDLE, its stall timer stopped, the speed 0 standing and
compared, STALLED set (R3, R4, R49). What the count and the counter hold in IDLE is the model's choice
(notes/assumptions/23.md). -/
def atStall (s : State) : State :=
  { s with
    meas := { s.meas with
      gate := { s.meas.gate with state := .idle, stall := none }, speed := 0, stalled := true }
    prot := { s.prot with lastSpeed := 0 } }

/-- The gate in TIMING is due to be abandoned by this command: its stall timer has reached the stall time (R3), or
its counter its maximum (R4). -/
def gateFails (p : Params) (s : State) (cmd : Instr) : Prop :=
  s.meas.gate.state = .timing
    ∧ (cmd = .stallTimeout ∧ (∃ us, s.meas.gate.stall = some us ∧ p.sense.stallTime * 1000 ≤ us)
      ∨ cmd = .gateCounterMaximum ∧ 16777215 ≤ s.meas.gate.counter)

/-- The command brings the new speed value `v`: a completed gate, or the 0 of an abandoned one (R2, R3, R4). -/
def speedComes (p : Params) (s : State) (cmd : Instr) (v : Nat) : Prop :=
  cmd = .pickupEdge ∧ gateCompletes p s v ∨ v = 0 ∧ gateFails p s cmd

/-- The state a new speed value leaves before the blocks act on it. -/
def withSpeed (cmd : Instr) (v : Nat) (s : State) : State :=
  if cmd = .pickupEdge then atSpeed v s else atStall s

/-! ### Sound outputs (R148, R149, R153) -/

/-- The outputs agree with the states of the blocks: every on/off output carries its resolved command, both
duties and all lamps are those of their rules. Before handover there is nothing to agree with. -/
def outputsFollow (s : State) : Prop :=
  ∀ p, s.reader.applied = some p →
    (∀ out, (outputOf s.lines out).command = resolvedCommand s out)
      ∧ s.lines.speedSet = speedSetOf p s
      ∧ s.lines.loadRef = loadRefOf p s (resolvedCommand s .loadPermit)
      ∧ s.lines.runLamp = isRunning s
      ∧ s.lines.layoverLamp = (s.seq.engine == .layover)
      ∧ s.lines.faultLamp = faultLampOf s

/-- `t` is `u` after every block has judged its conditions anew: the frame holds, the outputs follow their
rules, and a quiet engine state stands still. -/
structure Judged (p : Params) (u t : State) : Prop where
  kept : Kept u t
  outputs : outputsFollow t
  still : Quiet p u → Still u t

/-- A run is safe when in each of its states the outputs follow the blocks' states: then fuel, crank air and
load are on only where the rules of R35, R92 and R148 have them on. -/
def safeRun (run : List State) : Prop := ∀ s ∈ run, outputsFollow s

/-! ### Frames asked for -/

/-- A frame that carries the given content stands in the transmit queue. -/
def asked (c : Content) (t : State) : Prop := TxFrame.made c ∈ t.link.queue

/-- The link is UP and nothing waits in its queue: a request is taken, and displaces none (R157). -/
def openLink (s : State) : Prop := s.link.state = .up ∧ s.link.queue = []

/-! ### Trips (R37, R54, R57) -/

/-- What a trip leaves: the record, the latch, the fuel-cut hold from 0 and every on/off output off. -/
structure Tripped (r : TripRecord) (t : State) : Prop where
  record : t.prot.record = some r
  latch : t.prot.tripLatch = true
  hold : t.prot.holdTimer = some 0
  off : allOff t

/-- R37: the engine state a trip leads to. The lockout reason held first is kept, and an engine at rest is
locked out at once. -/
def tripEngine (p : Params) (s : State) (reason : LockReason) : EngineState :=
  match s.seq.engine with
  | .lockedOut r => .lockedOut r
  | .inhibited r => .inhibited r
  | .stopping (.lockedOut r) => if atRest p s then .lockedOut r else .stopping (.lockedOut r)
  | _ => if atRest p s then .lockedOut reason else .stopping (.lockedOut reason)

/-- R31, R36, R37: an own crank that ends counts once; no other state's end does. -/
def cranksEnded (s : State) : Byte := if s.seq.engine = .starting .crank then 1 else 0

/-! ### Counted failures and the ends of STOPPING (R31, R34) -/

/-- R31, R34: the engine state a counted failure leads to at speed `v`: by the attempt count, RETRY-WAIT or
LOCKED-OUT(ATTEMPTS), entered at once by an engine at rest and otherwise the destination of STOPPING. -/
def failedEngine (p : Params) (s : State) (v : Nat) : EngineState :=
  if p.crank.maxAttempts ≤ s.seq.attempts + 1 then
    if v < p.sense.stoppedSpeed then .lockedOut .attempts else .stopping (.lockedOut .attempts)
  else if v < p.sense.stoppedSpeed then .retryWait else .stopping .retryWait

/-- STOPPED, or what it is for a link-silent station (R38). -/
def stoppedEngine (s : State) : EngineState := if linkSilent s then .inhibited .duplicate else .stopped

/-- R36, R34: the engine state of a stop toward STOPPED, entered at once by an engine at rest. -/
def haltedEngine (p : Params) (s : State) : EngineState :=
  if atRest p s then stoppedEngine s else .stopping .stopped

/-- R18, R19: a start request is accepted. -/
def acceptsStart (p : Params) (s : State) : Prop :=
  (s.seq.engine = .stopped ∨ s.seq.engine = .layover) ∧ lineOn p s .runIsolate = true
    ∧ linkSilent s = false ∧ s.meas.speed < p.sense.stoppedSpeed

/-- R19 to R21: what an accepted start at a level leaves: PREP, the count cleared, both levels set, the record
overwritten, and the own claim WAITING with the serial it takes. -/
def startedAt (level : Level) (s t : State) : Prop :=
  t.seq.engine = .starting .prep ∧ t.seq.attempts = 0
    ∧ t.seq.origLevel = some level ∧ t.seq.startLevel = some level
    ∧ t.seq.phaseTimer = some 0
    ∧ t.seq.record = some { level, number := 1, phases := [{ elapsed := 0, speed := none }], result := none }
    ∧ claimOf .own t.arb.claims = some
        { who := .own, level, serial := s.seq.keptSerial.getD (s.arb.ownSerial + 1), state := .waiting }

/-- R31: the claim and the crank count a counted failure leaves: in PREP and CRANK the own claim is gone, in
CRANK the station stands at its rotation's tail with no peer crossed, and its crank has counted. -/
def failedClaim (s t : State) : Prop :=
  dropClaim .own t.arb.claims = dropClaim .own s.arb.claims
    ∧ (s.seq.engine = .starting .prep ∨ s.seq.engine = .starting .crank →
        claimOf .own t.arb.claims = none)
    ∧ t.arb.rotation
        = (if s.seq.engine = .starting .crank then toTail .own s.arb.rotation else s.arb.rotation)
    ∧ t.seq.crankCount = s.seq.crankCount + cranksEnded s

/-- The attempt record is closed with a result (R39): the phase in progress takes the elapsed time and the
speed of this moment. -/
def attemptClosed (result : AttemptResult) (s t : State) : Prop :=
  t.seq.record = s.seq.record.map fun r =>
    { r with phases := closeLast (phaseElapsed s) t.meas.speed r.phases, result := some result }

/-! ### The target row (R77) -/

/-- The target row as the demand, the caps and the make-up row stand. -/
def targetAfter (p : Params) (s : State) : Option Row :=
  (settleTarget (settleLowIdle p (settleMakeUp p (settleCaps p (settleOwnRecord p s))))).step.target

/-! ### Received frames (R160, R97) -/

/-- A frame from another unit is heard: the link is UP or SILENT and the source is not the own number. -/
def heard (p : Params) (src : UnitNo) (s : State) : Prop :=
  s.reader.applied = some p ∧ s.link.state ≠ .down ∧ src ≠ p.unit

/-- R97, R98: the unit has a roster entry, or there is room for one. -/
def admitted (src : UnitNo) (s : State) : Prop :=
  src ≠ 0 ∧ ((entryOf src s.roster.entries).isSome ∨ s.roster.entries.length < 7)

/-- The command that brings a frame of the given content from a sender (Chapter 13). -/
def frameCommand (src : UnitNo) : Content → Instr
  | .fuelCut => .fuelCut src
  | .crankOn level serial => .crankOn src level serial
  | .crankOff result level serial count => .crankOff src result level serial count
  | .claim level serial => .claim src level serial
  | .withdraw serial => .withdraw src serial
  | .demand row reverser brake serial => .demand src row reverser brake serial
  | .step row => .step src row
  | .layoverIntent serial => .layoverIntent src serial
  | .layoverCancel serial => .layoverCancel src serial
  | .status c => .status src c
  | .query dest kind part => .query src dest kind part
  | .reply payload => .reply src payload

/-- R97 to R99, R108: what a general frame of a unit does to the roster and the rotation, where acting on its kind
changes the unit's entry by `f`: an entry that stands is refreshed; a new one joins in unit order, with a place at
the rotation's tail; a full roster takes nothing but ROSTER-FULL. No other entry changes. -/
structure RosterHears (src : UnitNo) (f : RosterEntry → RosterEntry) (s t : State) : Prop where
  refreshed : ∀ e, entryOf src s.roster.entries = some e →
    entryOf src t.roster.entries = some (f { e with age := 0 })
      ∧ t.arb.rotation = s.arb.rotation ∧ t.roster.full = s.roster.full
  joined : entryOf src s.roster.entries = none → s.roster.entries.length < 7 →
    entryOf src t.roster.entries
        = some (f { unit := src, age := 0, status := none, lastCount := none, intent := none, lastStep := none })
      ∧ t.roster.entries.length = s.roster.entries.length + 1
      ∧ t.arb.rotation = s.arb.rotation ++ [.unit src] ∧ t.roster.full = s.roster.full
  keptOut : entryOf src s.roster.entries = none → 7 ≤ s.roster.entries.length →
    t.roster = { s.roster with full := true } ∧ t.arb.rotation = s.arb.rotation
  others : ∀ v, v ≠ src → entryOf v t.roster.entries = entryOf v s.roster.entries
  order : s.roster.entries.Pairwise (fun d e => d.unit.val < e.unit.val) →
    t.roster.entries.Pairwise (fun d e => d.unit.val < e.unit.val)

/-! ### Sound lists (R96, R108, R110, R157) -/

/-- The transmit queue as R157 keeps it: at most 8 frames, their kinds strictly rising; nothing is queued
or in the buffer unless the link is UP (R155, R161). -/
def queueSound (l : Link) : Prop :=
  l.queue.length ≤ 8 ∧ l.queue.Pairwise (fun f g => txKind f < txKind g)
    ∧ (l.state ≠ .up → l.queue = [] ∧ l.buffer = none)

/-- The roster and the rotation as R96 and R108 keep them: at most 7 entries, in strictly ascending order of
unit number, none for unit 0 or the own number; the rotation holds the station and each roster unit, each
exactly once. Before handover the roster is empty. -/
def rosterSound (s : State) : Prop :=
  s.roster.entries.length ≤ 7
    ∧ s.roster.entries.Pairwise (fun e f => e.unit.val < f.unit.val)
    ∧ (∀ e ∈ s.roster.entries, e.unit ≠ 0)
    ∧ (∀ p, s.reader.applied = some p → ∀ e ∈ s.roster.entries, e.unit ≠ p.unit)
    ∧ (s.reader.applied = none → s.roster.entries = [])
    ∧ s.arb.rotation.Nodup
    ∧ (∀ w, w ∈ s.arb.rotation ↔ w = .own ∨ ∃ e ∈ s.roster.entries, w = .unit e.unit)

/-- The reader's state and the applied set go together, and with them link state and engine state (R155,
R163, R164): only an APPLIED station has a set or a link, and one that is READING is STOPPED. -/
def readerSound (s : State) : Prop :=
  (s.reader.applied.isSome ↔ s.reader.state = .applied)
    ∧ (s.reader.applied = none ↔ s.link.state = .down)
    ∧ (s.reader.state = .reading → s.seq.engine = .stopped)

/-- R110 and R111: at most one claim-list entry for each unit, and the own entry exists exactly while the
state is STARTING in PREP, as WAITING, or in CRANK, as CRANKING. -/
def ownClaimSound (s : State) : Prop :=
  (s.arb.claims.map (·.who)).Nodup
    ∧ (s.seq.engine = .starting .prep ↔
        ∃ c, claimOf .own s.arb.claims = some c ∧ isCranking c = false)
    ∧ (s.seq.engine = .starting .crank ↔
        ∃ c, claimOf .own s.arb.claims = some c ∧ isCranking c = true)

/-- R110, R117, R124, R116: every peer with a claim-list entry, in the crossing list or in the expired list has a
roster entry. -/
def arbiterSound (s : State) : Prop :=
  (∀ c ∈ s.arb.claims, ∀ u, c.who = .unit u → ∃ e ∈ s.roster.entries, e.unit = u)
    ∧ (∀ u ∈ s.arb.crossing, ∃ e ∈ s.roster.entries, e.unit = u)
    ∧ (∀ x ∈ s.arb.expired, ∃ e ∈ s.roster.entries, e.unit = x.unit)

/-- R39: while STARTING the attempt record has one entry for each phase reached and no result; in every other state
a record that is not empty has its result and one to four entries. -/
def attemptSound (s : State) : Prop :=
  (∀ phase, s.seq.engine = .starting phase → ∃ r, s.seq.record = some r ∧ r.result = none
      ∧ r.phases.length = (match phase with
          | .prep => 1
          | .crank => 2
          | .fire => 3
          | .confirm => 4))
    ∧ ((∀ phase, s.seq.engine ≠ .starting phase) → ∀ r, s.seq.record = some r →
        r.result.isSome = true ∧ 1 ≤ r.phases.length ∧ r.phases.length ≤ 4)

/-- R133 to R140: an own intent stands exactly while announced or committed; its hold runs exactly while it is
announced, and an announced station is eligible with its idle timer reached; a committed one is STOPPING or in
LAYOVER. The idle timer is not stopped while the station is eligible, and runs only then. -/
def layoverSound (s : State) : Prop :=
  (s.layover.ownIntent = none ↔ s.layover.phase = .none)
    ∧ (s.layover.holdTimer.isSome = true ↔ s.layover.phase = .announced)
    ∧ (s.layover.phase = .announced → s.layover.eligible = true ∧ s.layover.idle = .reached)
    ∧ (s.layover.phase = .committed →
        s.layover.idle = .reached ∧ (s.seq.engine = .layover ∨ ∃ d, s.seq.engine = .stopping d))
    ∧ (s.layover.eligible = true → s.layover.idle ≠ .stopped)
    ∧ (s.layover.eligible = false → ∀ us, s.layover.idle ≠ .running us)

/-- R150, R152: an output that agrees with its sense return has neither mismatch timer nor present fault; one that
disagrees has exactly one of them. -/
def linesSound (s : State) : Prop :=
  ∀ out,
    ((outputOf s.lines out).command = sensedOn s out →
      (outputOf s.lines out).mismatch = none ∧ (outputOf s.lines out).present = .none)
    ∧ ((outputOf s.lines out).command ≠ sensedOn s out →
      ((outputOf s.lines out).mismatch = none ↔ (outputOf s.lines out).present ≠ .none))

/-- R169, R170: every frame waiting with its content, or in the buffer with it, passes the field checks. -/
def framesSound (l : Link) : Prop :=
  (∀ c, TxFrame.made c ∈ l.queue → contentValid c = true)
    ∧ ∀ b, l.buffer = some b → ∀ c, b.frame = .made c → contentValid c = true

/-! ### What the blocks have judged -/

/-- R142: the standing level of the restart watch: PROTECT where COOL, BATT or RESV is not fresh above its restart
threshold, else DEMAND where the demand in force is above ID, not centred or without brake, else QUOTA where the
quota fails. -/
def LevelStands (p : Params) (s : State) (level : Option Level) : Prop :=
  let safe := ∃ cool batt resv : Int,
    freshValue s.meas.cool = some cool ∧ p.layover.restartTemp < cool
      ∧ freshValue s.meas.batt = some batt ∧ (p.layover.restartVolt : Int) < batt
      ∧ freshValue s.meas.resv = some resv ∧ (p.layover.restartPress : Int) < resv
  let idle := (demandInForce s).row.val ≤ 1 ∧ (demandInForce s).centred = true ∧ (demandInForce s).brake = true
  (¬safe → level = some .protect)
    ∧ (safe → ¬idle → level = some .demand)
    ∧ (safe → idle → runningPeers p s < p.layover.quota → level = some .quota)
    ∧ (safe → idle → p.layover.quota ≤ runningPeers p s → level = none)

/-- R89: only a peer ahead holds a step up back. -/
def heldBack (p : Params) (s : State) : Prop :=
  ∃ r goal, s.step.current = some r ∧ s.step.target = some goal ∧ r.val < goal.val ∧ s.step.settled = true
    ∧ (∃ us, s.step.dwell = some us ∧ upDwell (tableInForce p s) r s.meas.tempClass * 1000 ≤ us)
    ∧ (s.step.stagger = none ∨ ∃ us, s.step.stagger = some us ∧ p.step.stagger * 1000 ≤ us)
    ∧ ∃ e ∈ s.roster.entries, ∃ c, e.status = some c ∧ c.engine = .running ∧ c.isolated = false
        ∧ c.current = some r ∧ (∃ g, c.target = some g ∧ r.val < g.val) ∧ e.unit < p.unit

/-- What stands once every block has judged its conditions. The timers that a condition starts and stops run exactly
while it holds: lube trip (R50), hot-stop (R51), confirm (R30) and low idle (R78). The make-up result is that of a
run now (R132); the target is that of R77, and neither above the available row nor above the demand row and the
make-up limit; the stagger hold runs only while R89 has it run; the LOAD-PERMIT command is R92's; q and eligibility
are those of R136 and R134; and an active restart watch keeps the level of R142. -/
structure Standing (p : Params) (s : State) : Prop where
  lubeTrip : s.prot.lubeTimer.isSome = true ↔ s.seq.engine = .running
    ∧ ∃ (v : Int) (r : Row), freshValue s.meas.lube = some v ∧ s.step.current = some r
        ∧ v < ((rowOf (tableInForce p s) r).lubeMin : Int)
  hotStop : s.prot.hotTimer.isSome = true ↔ s.seq.engine = .running ∧ s.prot.hotStop = true
    ∧ ∃ v, freshValue s.meas.cool = some v
  confirm : s.seq.confirmTimer.isSome = true ↔ s.seq.engine = .starting .confirm ∧ s.seq.inBand = true
    ∧ ∃ v : Int, freshValue s.meas.lube = some v ∧ ((profileOf p s).confirmLube : Int) ≤ v
  lowIdle : s.step.lowIdleTimer.isSome = true ↔ p.step.lowIdleEnable = true ∧ s.seq.engine = .running
    ∧ (demandInForce s).row = 1 ∧ (demandInForce s).centred = true ∧ s.meas.tempClass ≠ .cold
  lowIdleReached : s.step.lowIdleReached = true → s.step.lowIdleTimer.isSome = true
  makeUp : s.makeUp = makeUpRun p s
  noTarget : s.seq.engine ≠ .running → s.step.target = none
  target : s.seq.engine = .running → ∃ r, s.step.target = some r
    ∧ (let wanted := max (demandInForce s).row.val ((s.makeUp.row.map (·.val)).getD 0)
       let free := min wanted s.prot.available.val
       let held := if isolated s = true ∨ linkSilent s = true then min free 1 else free
       r.val = (if held = 1 ∧ s.step.lowIdleReached = true then 0 else held))
  targetInLimits : ∀ r, s.step.target = some r →
    r.val ≤ s.prot.available.val ∧ r.val ≤ (demandInForce s).row.val + p.step.makeUpLimit
  staggerHold : s.step.staggerHold.isSome = true → heldBack p s
  loadPermit : s.step.loadPermit = true ↔ s.seq.engine = .running ∧ isolated s = false
    ∧ (demandInForce s).centred = false ∧ lineOn p s .groundRelay = false
    ∧ ∃ r, s.step.loadRow = some r ∧ 2 ≤ r.val
  quota : linkSilent s = false → s.layover.q = runningPeers p s
  eligible : s.layover.eligible = true ↔ p.layover.enable = true ∧ s.seq.engine = .running
    ∧ (s.step.current = some 0 ∨ s.step.current = some 1)
    ∧ demandInForce s = { row := 1, centred := true, brake := true }
    ∧ (∃ v, freshValue s.meas.cool = some v ∧ p.layover.coolMin ≤ v)
    ∧ (∃ v : Int, freshValue s.meas.batt = some v ∧ (p.layover.battMin : Int) ≤ v)
    ∧ (∃ v : Int, freshValue s.meas.resv = some v ∧ (p.layover.resvMin : Int) ≤ v)
    ∧ demandConflict s = false ∧ linkSilent s = false
  watch : ∀ level, s.layover.watch = .active level → LevelStands p s level

/-! ### What is sent (R40, R127, R39, R57, R106, R154, section 13.1) -/

/-- The STATUS of the values standing now. -/
structure StatusShows (p : Params) (s : State) (c : StatusContent) : Prop where
  engine : match s.seq.engine with
    | .inhibited _ => c.engine = .inhibited
    | .stopped => c.engine = .stopped
    | .starting phase => c.engine = .starting ∧ c.phase = some phase
    | .running => c.engine = .running
    | .stopping dest => c.engine = .stopping ∧ c.dest = some (match dest with
        | .stopped => .stopped
        | .retryWait => .retryWait
        | .lockedOut _ => .lockedOut
        | .layover => .layover
        | .prep => .prep)
    | .retryWait => c.engine = .retryWait
    | .lockedOut reason => c.engine = .lockedOut ∧ c.lockReason = some reason
    | .layover => c.engine = .layover
  noPhase : (∀ phase, s.seq.engine ≠ .starting phase) → c.phase = none
  noDest : (∀ dest, s.seq.engine ≠ .stopping dest) → c.dest = none
  destReason : ∀ reason, s.seq.engine = .stopping (.lockedOut reason) → c.lockReason = some reason
  noReason : (∀ r, s.seq.engine ≠ .lockedOut r ∧ s.seq.engine ≠ .stopping (.lockedOut r)) →
    c.lockReason = none
  attempts : c.attempts = BitVec.ofNat 8 s.seq.attempts
  crankCount : c.crankCount = s.seq.crankCount
  rows : c.current = s.step.current ∧ c.target = s.step.target ∧ c.available = some s.prot.available
    ∧ c.demandRow = some (demandInForce s).row
  claim : ∀ own, claimOf .own s.arb.claims = some own → c.claim = some (own.level, own.serial)
  noClaim : claimOf .own s.arb.claims = none → c.claim = none
  intent : c.intent = s.layover.ownIntent
  figures : c.rated = (makeUpRun p s).rated ∧ c.avail = (makeUpRun p s).avail
    ∧ c.headroom = (makeUpRun p s).headroom
  tempClass : c.tempClass = s.meas.tempClass
  settled : c.settled = s.step.settled
  stalled : c.stalled = s.meas.stalled
  stale : c.lubeStale = s.meas.lube.stale ∧ c.resvStale = s.meas.resv.stale
    ∧ c.coolStale = s.meas.cool.stale ∧ c.battStale = s.meas.batt.stale
  cabActive : c.cabActive = lineOn p s .cabActive
  isolated : c.isolated = isolated s
  derated : c.derated = true ↔ s.prot.available.val < 9
  laboring : c.laboring = s.prot.laboringCap.isSome
  ground : c.ground = s.prot.groundCap.isSome
  fuelHold : c.fuelHold = s.prot.holdTimer.isSome
  handleFault : c.handleFault = s.demand.handleFault
  demandLost : c.demandLost = true ↔ s.demand.source = .lost
  demandConflict : c.demandConflict = true ↔ 2 ≤ s.demand.recent.length
  rosterFull : c.rosterFull = s.roster.full
  lineFault : c.lineFault = true ↔ ∃ out, (outputOf s.lines out).present ≠ .none
  configClamped : c.configClamped = s.reader.clamped

/-- The bytes of a phase entry: the elapsed time in three bytes, so far where the phase is in progress, and the
speed in two, all ones while it is absent. -/
def phaseShown (s : State) (e : PhaseEntry) : List Byte :=
  let ms := if e.speed.isSome then e.elapsed else phaseElapsed s
  let v := e.speed.getD 65535
  [BitVec.ofNat 8 (ms / 65536), BitVec.ofNat 8 (ms / 256), BitVec.ofNat 8 ms
  , BitVec.ofNat 8 (v / 256), BitVec.ofNat 8 v]

/-- An age in units of 10 ms, 255 at most and where it is absent. -/
def ageShown (age : Option Nat) : Byte := BitVec.ofNat 8 (min ((age.map (· / 10000)).getD 255) 255)

/-- The six bytes of a roster item: unit with the marks of intent and STEP, age, engine state and current row, 15
each where unknown or none, claim level, intent age and last STEP age. -/
def itemShown (s : State) (e : RosterEntry) : List Byte :=
  let state : Nat := match e.status with
    | none => 15
    | some c => (engineByte c.engine).toNat
  let row : Nat := match e.status with
    | none => 15
    | some c => if c.engine = .running then (c.current.map (·.val)).getD 15 else 15
  [BitVec.ofNat 8 (e.unit.val + e.intent.isSome.toNat * 64 + e.lastStep.isSome.toNat * 32)
  , ageShown (some e.age), BitVec.ofNat 8 (state * 16 + row)
  , ((claimOf (.unit e.unit) s.arb.claims).map fun c => levelByte c.level).getD 255
  , ageShown (e.intent.map (·.age)), ageShown e.lastStep]

/-- One output's byte of the lines record. -/
def lineShown (s : State) (out : Output) : Byte :=
  let fault : LineFault → Nat
    | .none => 0
    | .sensedOn => 1
    | .sensedOff => 2
  let sense : Nat := match sensed s out with
    | some false => 0
    | some true => 1
    | none => 2
  let off := s.prot.tripLatch || (out == .loadPermit && s.prot.groundOff)
  let l := outputOf s.lines out
  BitVec.ofNat 8 (l.command.toNat * 128 + sense * 32 + off.toNat * 16 + fault l.present * 4 + fault l.last)

/-- A REPLY's bytes after the destination: the record kind and the record, from the values standing now. -/
def recordShown (s : State) (kind part : Byte) : List Byte :=
  match kind.toNat with
  | 1 => 1 :: (match s.seq.record with
    | none => [0]
    | some r =>
      [1, levelByte r.level, BitVec.ofNat 8 r.number
      , (match r.result with
          | none => 0 | some .running => 1 | some .noPrelube => 2 | some .noRoll => 3 | some .noFire => 4
          | some .noRun => 5 | some .noConfirm => 6 | some .floor => 7 | some .yielded => 8
          | some .stopped => 9 | some .tripped => 10)
      , BitVec.ofNat 8 r.phases.length] ++ (r.phases.map (phaseShown s)).flatten)
  | 2 => 2 :: (match s.prot.record with
    | none => [0]
    | some r =>
      [1, lockReasonByte (some r.reason)
      , (match r.source with
          | none => 255 | some .localEstop => 254 | some (.frame u) => BitVec.ofNat 8 u.val)
      , engineByte (engineCode r.engine), phaseByte (enginePhase r.engine), destByte (engineDest r.engine)
      , lockReasonByte (destReason r.engine), ((r.row.map fun x => BitVec.ofNat 8 x.val).getD 255)
      , BitVec.ofNat 8 (r.speed / 256), BitVec.ofNat 8 r.speed
      , BitVec.ofNat 8 (r.stalled.toNat * 4 + r.cool.isNone.toNat * 2 + r.lube.isNone.toNat)]
      ++ signedTwoBytes r.cool ++ signedTwoBytes r.lube)
  | 3 =>
    let items := if part = 0 then s.roster.entries.take 4
      else if part = 1 then (s.roster.entries.drop 4).take 3 else []
    [3, part, BitVec.ofNat 8 (s.roster.full.toNat * 128 + s.roster.entries.length)]
      ++ (items.map (itemShown s)).flatten
  | 4 =>
    4 :: ([Output.fuelPump, .prelube, .crankValve, .rackEnable, .loadPermit].map (lineShown s)
      ++ [BitVec.ofNat 8 (s.lines.runLamp.toNat * 4 + s.lines.layoverLamp.toNat * 2 + s.lines.faultLamp.toNat)
        , BitVec.ofNat 8 (s.lines.speedSet / 256), BitVec.ofNat 8 s.lines.speedSet
        , BitVec.ofNat 8 (s.lines.loadRef / 256), BitVec.ofNat 8 s.lines.loadRef])
  | _ => [0, kind]

/-! ### Sound parameters (R166) -/

/-- The notch tables after R165's ranges and R166's fourth clamp: ten rows, no power above 1000, no setpoint above
the full-scale speed, neither
setpoint nor power falling from row to row, and N8's power at least 1. -/
def tableSound (t : Config.NotchTable) : Prop :=
  t.rows.length = 10
    ∧ (∀ r ∈ t.rows, r.setpoint ≤ t.fullScale ∧ r.power ≤ 1000)
    ∧ t.rows.Pairwise (fun a b => a.setpoint ≤ b.setpoint ∧ a.power ≤ b.power)
    ∧ 1 ≤ powerOf t 9

/-- One scaling after R166's second clamp. -/
def scaleSound (c : Config.Scale) : Prop := c.low < c.high

/-- A start profile after R166's eleventh clamp. -/
def profileSound (r : Config.StartProfile) : Prop :=
  r.rollSpeed ≤ r.fuelOnSpeed ∧ r.fuelOnSpeed ≤ r.releaseSpeed

/-- What the cross-field clamps of R166 give, and the ranges that no division by zero rests on. -/
def paramsSound (p : Params) : Prop :=
  p.unit ≠ 0
    ∧ 1 ≤ p.sense.gate ∧ p.sense.gate ≤ p.sense.teeth ∧ p.sense.teeth ≤ 250
    ∧ 5 ≤ p.sense.stoppedSpeed ∧ p.sense.stoppedSpeed ≤ 100
    ∧ scaleSound p.sense.lube ∧ scaleSound p.sense.resv ∧ scaleSound p.sense.cool
    ∧ scaleSound p.sense.batt
    ∧ p.sense.coldLimit + 1 ≤ p.sense.hotLimit
    ∧ tableSound p.notch ∧ tableSound p.notchAlt
    ∧ 3 * p.link.statusPeriod ≤ 125 * 2 ^ p.link.silenceExp
    ∧ 2 * p.link.statusPeriod ≤ p.crank.claimSettle
    ∧ p.link.statusPeriod + 50 ≤ p.step.stagger
    ∧ p.crank.floor + 50 ≤ p.crank.startPressure
    ∧ p.crank.startPressure + 50 ≤ p.layover.restartPress
    ∧ 60 ≤ p.crank.peerCrankLimit
    ∧ profileSound p.startN ∧ profileSound p.startC
    ∧ 3 * p.link.statusPeriod ≤ p.layover.intentHold
    ∧ 400 ≤ p.protect.overspeed
    ∧ 1 ≤ p.crank.maxAttempts ∧ p.crank.maxAttempts ≤ 5

/-! ### Counted failures (R31) -/

/-- The expiries that end an attempt with a counted failure, with the phase each acts in and its result. -/
def failureOf : Instr → Option (Phase × AttemptResult)
  | .prelubeLimitExpiry => some (.prep, .noPrelube)
  | .rollTimeExpiry => some (.crank, .noRoll)
  | .crankLimitExpiry => some (.crank, .noFire)
  | .fireLimitExpiry => some (.fire, .noRun)
  | .confirmLimitExpiry => some (.confirm, .noConfirm)
  | _ => none

/-- The condition in which such an expiry falls due (R22, R24, R26, R29, R30). -/
def failureDue (p : Params) (s : State) : Instr → Bool
  | .prelubeLimitExpiry =>
    phaseLimit .prep (profileOf p s).prelubeLimit s && (profileOf p s).mode == .pressure
      && !s.seq.prelubeDone
  | .rollTimeExpiry => phaseLimit .crank (profileOf p s).rollTime s && !s.seq.rolling
  | .crankLimitExpiry => phaseLimit .crank (profileOf p s).crankLimit s
  | .fireLimitExpiry => phaseLimit .fire (profileOf p s).fireLimit s
  | .confirmLimitExpiry => phaseLimit .confirm (profileOf p s).confirmLimit s
  | _ => false

end Sys2Proof.Machine
end

