-- ==== Sys2Proof/Certificates/Slice0/Obligations.lean ====
section
/-! DEFINITION. Obligations.lean: the statements about the station, one definition each. -/

open Sys2Proof Sys2Proof.Machine

/-! ### The machine -/

/-- A step with a command in front of the queue is `exec` of it with the queue's rest. A step on an empty queue lets
one microsecond pass (notes/assumptions/3.md): every running timer, age and counter shows one more, up to the limit
past which its rule reads none (notes/assumptions/2.md), a stopped one stays stopped, OWN's recent-source age stays 0
while CAB-ACTIVE is on (R71), and nothing else changes. Before handover only the debounces, the mismatch timers and
the read request's timer run. -/
def Obligations.StepRunsFrontCommand : Prop :=
  (∀ (c : Instr) (rest : List Instr) (s : State), s.pending = c :: rest →
    step s = exec c { s with pending := rest })
  ∧ ∀ s : State, s.pending = [] → ∃ t, step s = .next t
    ∧ t.reader = { s.reader with request := s.reader.request.map (· + 1) }
    ∧ (∀ line, inputOf t.demand.inputs line = { inputOf s.demand.inputs line with
        stable := tickTo 20 (inputOf s.demand.inputs line).stable })
    ∧ (∀ out, outputOf t.lines out = { outputOf s.lines out with
        sense := { (outputOf s.lines out).sense with
          stable := tickTo 20 (outputOf s.lines out).sense.stable }
        mismatch := (outputOf s.lines out).mismatch.map (· + 1) })
    ∧ t.lines = { s.lines with
        fuelPump := t.lines.fuelPump, prelube := t.lines.prelube, crankValve := t.lines.crankValve
        rackEnable := t.lines.rackEnable, loadPermit := t.lines.loadPermit }
    ∧ t.makeUp = s.makeUp ∧ t.choices = s.choices ∧ t.pending = []
    ∧ (s.reader.applied = none → t = { s with
        reader := t.reader, lines := t.lines, demand := { s.demand with inputs := t.demand.inputs } })
    ∧ ∀ p, s.reader.applied = some p →
      t.meas = { s.meas with
        gate := { s.meas.gate with
          counter := if s.meas.gate.state = .timing then min (s.meas.gate.counter + 1) 16777215
            else s.meas.gate.counter
          stall := s.meas.gate.stall.map (tickTo p.sense.stallTime) }
        lube := { s.meas.lube with timer := s.meas.lube.timer.map (· + 1) }
        resv := { s.meas.resv with timer := s.meas.resv.timer.map (· + 1) }
        cool := { s.meas.cool with timer := s.meas.cool.timer.map (· + 1) }
        batt := { s.meas.batt with timer := s.meas.batt.timer.map (· + 1) }
        slot := s.meas.slot.map (· + 1) }
      ∧ t.demand = { s.demand with
        inputs := t.demand.inputs
        invalidTimer := s.demand.invalidTimer.map (· + 1)
        demandTimer := s.demand.demandTimer.map (tickTo p.link.demandTimeout)
        holdTimer := s.demand.holdTimer.map (tickTo p.link.demandHold)
        recent := s.demand.recent.map fun e => { e with
          age := if e.who = .own ∧ lineOn p s .cabActive = true then 0
            else tickTo p.link.demandTimeout e.age } }
      ∧ t.seq = { s.seq with
        phaseTimer := s.seq.phaseTimer.map (· + 1), confirmTimer := s.seq.confirmTimer.map (· + 1)
        recrankTimer := s.seq.recrankTimer.map (· + 1), turningWatch := s.seq.turningWatch.map (· + 1) }
      ∧ t.prot = { s.prot with
        hotTimer := s.prot.hotTimer.map (· + 1), lubeTimer := s.prot.lubeTimer.map (· + 1)
        holdTimer := s.prot.holdTimer.map (· + 1) }
      ∧ t.step = { s.step with
        dwell := s.step.dwell.map (· + 1), settleTimer := s.step.settleTimer.map (· + 1)
        stagger := s.step.stagger.map (· + 1), staggerHold := s.step.staggerHold.map (· + 1)
        lowIdleTimer := s.step.lowIdleTimer.map (· + 1) }
      ∧ t.roster = { s.roster with entries := s.roster.entries.map fun e => { e with
          age := tickTo (silenceMs p) e.age
          intent := e.intent.map fun i => { i with age := i.age + 1 }
          lastStep := e.lastStep.map (· + 1) } }
      ∧ t.arb = { s.arb with
        claims := s.arb.claims.map fun c => { c with
          state := match c.who, c.state with
            | .unit _, .cranking us => .cranking (us + 1)
            | _, other => other }
        claimTimer := s.arb.claimTimer.map (· + 1)
        joinTimer := s.arb.joinTimer.map (tickTo (2 * p.link.statusPeriod))
        overlapTimer := s.arb.overlapTimer.map (tickTo p.crank.overlapWindow) }
      ∧ t.layover = { s.layover with
        idle := match s.layover.idle with
          | .running us => .running (us + 1)
          | other => other
        holdTimer := s.layover.holdTimer.map (· + 1) }
      ∧ t.link = { s.link with statusTimer := s.link.statusTimer.map (· + 1) }

/-! ### Reset and the configuration read (Chapter 12) -/

/-- RESET gives every block the values its reset table shows, and the flags read off them are clear; the raw levels
of the lines, which come from outside, and the model's queue and choice counter stand (notes/assumptions/4.md), and
the LOAD-PERMIT command, the off command for a ground and the converter slot, which no table lists, are clear
(notes/assumptions/21.md). -/
def Obligations.ResetRestoresEveryBlock : Prop :=
  ∀ s : State, ∃ t, exec .reset s = .next t
    ∧ t.reader = { state := .reading, image := [], request := some 0, applied := none, clamped := false }
    ∧ t.meas = { gate := { state := .idle, count := 0, counter := 0, stall := none }
                 speed := 0, stalled := true
                 lube := { window := [], value := none, stale := true, timer := none }
                 resv := { window := [], value := none, stale := true, timer := none }
                 cool := { window := [], value := none, stale := true, timer := none }
                 batt := { window := [], value := none, stale := true, timer := none }
                 request := none, slot := none, taken := false, tempClass := .cold }
    ∧ t.seq = { engine := .stopped, origLevel := none, startLevel := none, attempts := 0, profile := none
                phaseTimer := none, confirmTimer := none, recrankTimer := none, prelubeDone := false
                rolling := false, rackOn := false, inBand := false, keptSerial := none, crankCount := 0
                record := none, turningWatch := none }
    ∧ t.demand = { inputs := t.demand.inputs, handle := 1, invalidTimer := none, handleFault := false
                   source := .waiting
                   ownRecord := { row := 1, centred := true, brake := true, serial := 0 }
                   ownSerial := 0, remote := none, demandTimer := none, holdTimer := none, recent := [] }
    ∧ t.prot = { derate1 := false, derate2 := false, hotStop := false, hotCap := none
                 lubeStaleCap := none, groundCap := none, groundOff := false, laboringCap := none
                 available := 9, hotTimer := none, lubeTimer := none, tripLatch := false
                 holdTimer := none, lastSpeed := 0, record := none }
    ∧ t.step = { current := none, target := none, settled := false, dwell := none, settleTimer := none
                 stagger := none, staggerHold := none, lowIdleTimer := none, lowIdleReached := false
                 loadRow := none, loadPermit := false }
    ∧ t.roster = { entries := [], full := false }
    ∧ t.arb = { claims := [], rotation := [.own], ownSerial := 0, claimTimer := none, joinTimer := none
                placed := false, overlapTimer := none, crossing := [], expired := [] }
    ∧ t.makeUp = { rated := 0, avail := 0, headroom := 0, shortfall := 0, total := 0, counted := []
                   extra := 0, row := none }
    ∧ t.layover = { eligible := false, idle := .stopped, q := 0, ownIntent := none, phase := .none
                    serial := 0, holdTimer := none, watch := .inactive }
    ∧ t.link = { state := .down, queue := [], buffer := none, statusTimer := none, receive := .waitingIdle }
    ∧ t.lines = { t.lines with
        runLamp := false, layoverLamp := false, faultLamp := false, speedSet := 0, loadRef := 0
        driven := false, polarities := none }
    ∧ (∀ out, outputOf t.lines out
        = { command := false
            sense := { raw := (outputOf s.lines out).sense.raw, settled := none, stable := 0 }
            mismatch := none, present := .none, last := .none }
        ∧ sensed t out = none ∧ outputPin t out = none)
    ∧ (∀ line, inputOf t.demand.inputs line
        = { raw := (inputOf s.demand.inputs line).raw, settled := none, stable := 0 })
    ∧ isolated t = false ∧ demandConflict t = false ∧ demandLost t = false ∧ derated t = false
    ∧ laboring t = false ∧ ground t = false ∧ fuelHold t = false ∧ lineFault t = false
    ∧ demandInForce t = { row := 1, centred := true, brake := true }
    ∧ t.choices = s.choices ∧ t.pending = s.pending

/-- MEMORY_ANSWER and MEMORY_REQUEST_TIMEOUT: in READING a byte joins the image and the next is requested, until the
read ends. A read that fails leaves the station INHIBITED with its reason, the outputs driven off and FAULT-LAMP
lit: NO-MEMORY at a request unanswered for 10 ms, IMAGE for a header, a CRC or a record walk that fails, UNIT for an
image without a usable unit number, whose polarities stand. How many bytes are read where the image length is below
3 is deduced (notes/assumptions/10.md). Outside READING neither does anything (R163, R164, R146). -/
def Obligations.ImageReadJoinsOrFails : Prop :=
  ∀ s : State,
    (s.reader.state ≠ .reading →
      exec .memoryRequestTimeout s = .next s ∧ ∀ b, exec (.memoryAnswer b) s = .next s)
    ∧ (s.reader.state = .reading → timerReached s.reader.request 10 = true →
      exec .memoryRequestTimeout s = .next { s with
        reader := { s.reader with state := .failed, request := none }
        seq := { s.seq with engine := .inhibited .noMemory }
        lines := { s.lines with driven := true, polarities := some linesDefault, faultLamp := true } })
    ∧ (∀ b : Byte, s.reader.state = .reading → imageComplete (s.reader.image ++ [b]) = false →
      exec (.memoryAnswer b) s
        = .next { s with reader := { s.reader with image := s.reader.image ++ [b], request := some 0 } })
    ∧ (∀ (b : Byte) (len : Nat), s.reader.state = .reading →
      imageComplete (s.reader.image ++ [b]) = true →
      imageLength (s.reader.image ++ [b]) = some len →
      (len < 5 ∨ 1024 < len ∨ field1 (s.reader.image ++ [b]) 2 ≠ 2
        ∨ (crcOfBits (bitsOfBytes ((s.reader.image ++ [b]).take (len - 2)))).toNat
            ≠ field2 (s.reader.image ++ [b]) (len - 2)
        ∨ walkRecords (((s.reader.image ++ [b]).take (len - 2)).drop 3).length
            (((s.reader.image ++ [b]).take (len - 2)).drop 3) = none) →
      exec (.memoryAnswer b) s = .next { s with
        reader := { s.reader with state := .failed, image := s.reader.image ++ [b], request := none }
        seq := { s.seq with engine := .inhibited .image }
        lines := { s.lines with driven := true, polarities := some linesDefault, faultLamp := true } })
    ∧ (∀ (b : Byte) (l : Config.LinesParams), s.reader.state = .reading →
      imageComplete (s.reader.image ++ [b]) = true →
      checkImage (s.reader.image ++ [b]) = .badUnit l →
      exec (.memoryAnswer b) s = .next { s with
        reader := { s.reader with state := .failed, image := s.reader.image ++ [b], request := none }
        seq := { s.seq with engine := .inhibited .unit }
        lines := { s.lines with driven := true, polarities := some l, faultLamp := true } })

/-- An image that passes the checks gives a parameter set that satisfies the cross-field clamps (R166) and the
ranges no division rests on. -/
def Obligations.AppliedSetObeysClamps : Prop :=
  ∀ (image : List Byte) (p : Params) (clamped : Bool),
    checkImage image = .good p clamped → paramsSound p

/-- Handover of a good image with the engine still: the link comes up, the status, join and turning-watch timers
start, LUBE is requested, the outputs are driven, and the demand source is OWN where CAB-ACTIVE stands on, with
ISOLATED judged from then on (R6, R59, R60, R65, R70, R73, R119, R146, R155, R167, R168). An ESTOP found on trips the
station for FUEL-CUT, its own line the source, and FUEL-CUT is asked for (R59, R53). -/
def Obligations.HandoverBringsStationUp : Prop :=
  ∀ (b : Byte) (s : State) (p : Params) (clamped : Bool), s.reader.state = .reading →
    imageComplete (s.reader.image ++ [b]) = true →
    checkImage (s.reader.image ++ [b]) = .good p clamped →
    s.seq.engine = .stopped → s.layover.watch = .inactive →
    ∃ t, exec (.memoryAnswer b) s = .next t
      ∧ t.reader = { state := .applied, image := s.reader.image ++ [b], request := none
                     applied := some p, clamped }
      ∧ t.link.state = .up ∧ t.link.statusTimer = some 0 ∧ t.arb.joinTimer = some 0
      ∧ t.meas = { s.meas with request := some .lube, slot := some 0, taken := false }
      ∧ (lineOn p s .estop = false → t.seq.engine = .stopped ∧ t.seq.turningWatch = some 0
          ∧ t.prot.record = s.prot.record)
      ∧ (lineOn p s .estop = true →
          Tripped { reason := .fuelCut, source := some .localEstop, engine := .stopped, row := none
                    speed := s.meas.speed, stalled := s.meas.stalled
                    cool := freshValue s.meas.cool, lube := freshValue s.meas.lube } t
          ∧ t.seq.engine = tripEngine p s .fuelCut ∧ t.seq.turningWatch = none
          ∧ (s.link.queue = [] → asked .fuelCut t))
      ∧ t.lines.driven = true ∧ t.lines.polarities = some p.lines
      ∧ t.roster = s.roster ∧ t.arb = { s.arb with joinTimer := some 0 }
      ∧ t.choices = s.choices ∧ t.pending = s.pending
      ∧ t.demand.source = (if lineOn p s .cabActive then .own else s.demand.source)
      ∧ (lineOn p s .cabActive = false → t.demand.demandTimer = some 0)
      ∧ isolated t = !lineOn p s .runIsolate
      ∧ (∀ r, handleCode p s = some r → t.demand.handle = r)
      ∧ outputsFollow t

/-! ### Engine speed (Chapter 1) -/

/-- PICKUP_EDGE (R1, R2, R49): in IDLE an edge starts a gate; in TIMING an edge short of the gate length is counted;
at the gate length the speed is the quotient of R2, clamped to 4095, STALLED is clear, the next gate is begun and
the value is the one compared next. In the states in which no block acts on a speed by itself, and below the
overspeed limit, the new value is all that the other conditions are judged with. In RUNNING the value also settles an
unsettled row in whose band it lies, both ends included: the settle timer stops, a laboring cap at that row clears and
the load-reference row becomes the row; a value outside the band, or a row already settled, leaves them (R84, R91,
R48). -/
def Obligations.PickupEdgeTimesGates : Prop :=
  ∀ (p : Params) (s : State), s.reader.applied = some p →
    (s.meas.gate.state = .idle →
      exec .pickupEdge s = .next { s with meas := { s.meas with
        gate := { state := .timing, count := 0, counter := 0, stall := some 0 } } })
    ∧ (s.meas.gate.state = .timing → s.meas.gate.count + 1 < p.sense.gate →
      exec .pickupEdge s = .next { s with meas := { s.meas with
        gate := { s.meas.gate with count := s.meas.gate.count + 1 } } })
    ∧ ∀ v, gateCompletes p s v →
      ∃ t, exec .pickupEdge s = .next t
        ∧ t.meas = { s.meas with
            gate := { state := .timing, count := 0, counter := 0, stall := some 0 }
            speed := v, stalled := false }
        ∧ t.prot.lastSpeed = v ∧ Apart { atSpeed v s with choices := t.choices } t ∧ outputsFollow t
        ∧ (noOverspeed p s v → (s.seq.engine = .starting .prep ∨ s.seq.engine = .running
              ∨ s.seq.engine = .retryWait ∨ ∃ r, s.seq.engine = .lockedOut r) →
            Judged p (atSpeed v s) t)
        ∧ ∀ r, noOverspeed p s v → s.seq.engine = .running → s.step.current = some r →
          (outputOf s.lines .loadPermit).present ≠ .sensedOn →
          let row := rowOf (tableInForce p s) r
          let band := (tableInForce p s).band
          (s.step.settled = false → row.setpoint ≤ v + band → v ≤ row.setpoint + band →
            let cleared := if s.prot.laboringCap = some r then none else s.prot.laboringCap
            targetAfter p { atSpeed v s with
              prot := { (atSpeed v s).prot with laboringCap := cleared } } = some r →
            t.step.current = some r ∧ t.step.settled = true ∧ t.step.settleTimer = none
              ∧ t.step.loadRow = some r ∧ t.step.dwell = s.step.dwell ∧ t.prot.laboringCap = cleared)
          ∧ (s.step.settled = true ∨ v + band < row.setpoint ∨ row.setpoint + band < v →
            targetAfter p (atSpeed v s) = some r →
            t.step.current = some r ∧ t.step.settled = s.step.settled
              ∧ t.step.settleTimer = s.step.settleTimer ∧ t.step.loadRow = s.step.loadRow
              ∧ t.prot.laboringCap = s.prot.laboringCap)

/-- STALL_TIMEOUT and GATE_COUNTER_MAXIMUM: at their limits the gate is abandoned: it is IDLE, its stall timer
stopped, the speed is 0 and STALLED set; short of them, or in IDLE, nothing changes (R3, R4). What its count and its
counter then hold is the model's choice (notes/assumptions/23.md), and nothing is said of it. Where no block acts on
a speed of 0 by itself, the 0 is all that the other conditions are judged with; what it does in STOPPING, FIRE and
CONFIRM is stated with the speed values of those states. The next edge starts a fresh gate. -/
def Obligations.StallAbandonsGate : Prop :=
  ∀ (p : Params) (s : State), s.reader.applied = some p →
    (∀ cmd, gateFails p s cmd →
      ∃ t, exec cmd s = .next t
        ∧ t.meas = { s.meas with gate := t.meas.gate, speed := 0, stalled := true }
        ∧ t.meas.gate.state = .idle ∧ t.meas.gate.stall = none ∧ t.prot.lastSpeed = 0
        ∧ Apart { s with
            meas := t.meas, choices := t.choices, prot := { s.prot with lastSpeed := 0 } } t
        ∧ outputsFollow t
        ∧ t.prot.record = s.prot.record ∧ t.prot.tripLatch = s.prot.tripLatch
        ∧ (s.seq.engine = .stopped ∨ s.seq.engine = .starting .prep ∨ s.seq.engine = .running
              ∨ s.seq.engine = .retryWait ∨ (∃ r, s.seq.engine = .lockedOut r)
              ∨ (∃ r, s.seq.engine = .inhibited r) →
            Judged p { s with
              meas := t.meas, prot := { s.prot with lastSpeed := 0 } } t))
    ∧ (∀ us, s.meas.gate.stall = some us → us < p.sense.stallTime * 1000 →
      exec .stallTimeout s = .next s)
    ∧ (s.meas.gate.counter < 16777215 → exec .gateCounterMaximum s = .next s)
    ∧ (s.meas.gate.state = .idle →
      exec .stallTimeout s = .next s ∧ exec .gateCounterMaximum s = .next s)

/-- R49: a completed gate at or above the overspeed limit, after a value below it, trips the station,
whichever of the speed's effects comes first: it is locked out for OVERSPEED unless a lockout reason was held
already (R37), which the same value may itself bring, for ATTEMPTS, where it fails the last attempt in FIRE or
CONFIRM. A value that does not cross the limit trips nothing. -/
def Obligations.OverspeedTripsOnce : Prop :=
  ∀ (p : Params) (s : State) (v : Nat), s.reader.applied = some p → gateCompletes p s v →
    (p.protect.overspeed ≤ v → s.prot.lastSpeed < p.protect.overspeed → isInhibited s = false →
      p.sense.stoppedSpeed ≤ p.protect.overspeed →
      ∃ t r, exec .pickupEdge s = .next t ∧ Tripped r t ∧ r.reason = .overspeed ∧ r.source = none
        ∧ r.speed = v ∧ r.stalled = false
        ∧ (t.seq.engine = tripEngine p (atSpeed v s) .overspeed
            ∨ (s.seq.engine = .starting .fire ∨ s.seq.engine = .starting .confirm)
              ∧ v < (profileOf p s).rollSpeed ∧ p.crank.maxAttempts ≤ s.seq.attempts + 1
              ∧ t.seq.engine = .stopping (.lockedOut .attempts)))
    ∧ (noOverspeed p s v →
      ∃ t, exec .pickupEdge s = .next t ∧ t.prot.record = s.prot.record
        ∧ t.prot.tripLatch = s.prot.tripLatch ∧ t.prot.holdTimer = s.prot.holdTimer)

/-- R49, R25, R37: an overspeed value that is also a release-speed value ends the crank once: released and then
tripped, or tripped and then ignored, the crank count rises by one and the destination is LOCKED-OUT. -/
def Obligations.OverspeedCrankCountsOnce : Prop :=
  ∀ (p : Params) (s : State) (v : Nat), s.reader.applied = some p → gateCompletes p s v →
    s.seq.engine = .starting .crank → (profileOf p s).releaseSpeed ≤ v →
    p.protect.overspeed ≤ v → s.prot.lastSpeed < p.protect.overspeed →
    p.sense.stoppedSpeed ≤ p.protect.overspeed →
    ∃ t, exec .pickupEdge s = .next t
      ∧ t.seq.crankCount = s.seq.crankCount + 1
      ∧ t.seq.engine = .stopping (.lockedOut .overspeed)
      ∧ claimOf .own t.arb.claims = none ∧ t.seq.attempts = s.seq.attempts
      ∧ allOff t

/-! ### The start sequencer at a speed value (Chapter 2) -/

/-- CRANK (R24, R25): below the release speed the engine is marked rolling and the rack enabled at their own
speeds, the 0 of a stall judged like any other value; at the release speed the crank ends RELEASED, the crank count
rises, the station goes to its rotation's tail, CRANK-OFF is asked for and FIRE begins. That the releasing value is
not judged in FIRE too is deduced (notes/assumptions/12.md). -/
def Obligations.CrankSpeedReleases : Prop :=
  ∀ (p : Params) (s : State) (cmd : Instr) (v : Nat), s.reader.applied = some p →
    speedComes p s cmd v → noOverspeed p s v → s.seq.engine = .starting .crank →
    (v < (profileOf p s).releaseSpeed →
      ∃ t, exec cmd s = .next t ∧ t.seq.engine = .starting .crank
        ∧ Judged p { withSpeed cmd v s with seq := { s.seq with
            rolling := s.seq.rolling || decide ((profileOf p s).rollSpeed ≤ v)
            rackOn := s.seq.rackOn || decide ((profileOf p s).fuelOnSpeed ≤ v) } } t)
    ∧ ∀ c, claimOf .own s.arb.claims = some c → (profileOf p s).releaseSpeed ≤ v →
      ∃ t, exec cmd s = .next t ∧ t.seq.engine = .starting .fire
        ∧ t.seq.phaseTimer = some 0 ∧ t.seq.attempts = s.seq.attempts
        ∧ t.seq.crankCount = s.seq.crankCount + 1
        ∧ t.seq.record = s.seq.record.map (fun r => { r with
            phases := closeLast (phaseElapsed s) v r.phases ++ [{ elapsed := 0, speed := none }] })
        ∧ t.arb = { s.arb with
            claims := dropClaim .own s.arb.claims, claimTimer := none, overlapTimer := none
            rotation := toTail .own s.arb.rotation, crossing := [] }
        ∧ (openLink s → asked (.crankOff 0 (levelByte c.level) c.serial (s.seq.crankCount + 1)) t)
        ∧ outputsFollow t

/-- FIRE and CONFIRM (R29, R30): at the ID threshold FIRE becomes CONFIRM; below the roll speed either phase
fails, counted, the 0 of a stall among those values; a value that meets both conditions in FIRE has one of the two
outcomes. -/
def Obligations.SpeedEndsFireAndConfirm : Prop :=
  ∀ (p : Params) (s : State) (cmd : Instr) (v : Nat), s.reader.applied = some p → speedComes p s cmd v →
    noOverspeed p s v →
    let idle := (rowOf (tableInForce p s) 1).setpoint
    let band := (tableInForce p s).band
    let roll := (profileOf p s).rollSpeed
    (s.seq.engine = .starting .fire → idle ≤ v + band → roll ≤ v →
      ∃ t, exec cmd s = .next t ∧ t.seq.engine = .starting .confirm
        ∧ t.seq.phaseTimer = some 0 ∧ t.seq.inBand = decide (idle ≤ v + band ∧ v ≤ idle + band)
        ∧ t.seq.attempts = s.seq.attempts ∧ t.arb = s.arb ∧ outputsFollow t)
    ∧ (s.seq.engine = .starting .fire → v + band < idle → v < roll →
      ∃ t, exec cmd s = .next t ∧ t.seq.engine = failedEngine p s v
        ∧ t.seq.attempts = s.seq.attempts + 1 ∧ attemptClosed .noRun s t ∧ t.arb = s.arb ∧ allOff t)
    ∧ (s.seq.engine = .starting .fire → idle ≤ v + band → v < roll →
      ∃ t, exec cmd s = .next t ∧ t.choices = s.choices + 1
        ∧ (t.seq.engine = .starting .confirm ∨ t.seq.engine = failedEngine p s v))
    ∧ (s.seq.engine = .starting .fire → v + band < idle → roll ≤ v →
      ∃ t, exec cmd s = .next t ∧ t.seq.engine = .starting .fire ∧ Judged p (withSpeed cmd v s) t)
    ∧ (s.seq.engine = .starting .confirm → v < roll →
      ∃ t, exec cmd s = .next t ∧ t.seq.engine = failedEngine p s v
        ∧ t.seq.attempts = s.seq.attempts + 1 ∧ attemptClosed .noConfirm s t ∧ t.arb = s.arb ∧ allOff t)
    ∧ (s.seq.engine = .starting .confirm → roll ≤ v →
      ∃ t, exec cmd s = .next t ∧ t.seq.engine = .starting .confirm
        ∧ t.seq.inBand = decide (idle ≤ v + band ∧ v ≤ idle + band) ∧ t.arb = s.arb ∧ outputsFollow t)

/-- R34: in STOPPING a speed below the stopped speed enters the stop destination, with what each destination
brings, as the 0 of a stall does; a speed at or above it leaves the station STOPPING with every output off. -/
def Obligations.SpeedBelowStoppedEndsStopping : Prop :=
  ∀ (p : Params) (s : State) (cmd : Instr) (v : Nat) (d : StopDest), s.reader.applied = some p →
    speedComes p s cmd v → noOverspeed p s v → s.seq.engine = .stopping d → 0 < p.crank.claimSettle →
    ∃ t, exec cmd s = .next t
      ∧ (p.sense.stoppedSpeed ≤ v → t.seq.engine = .stopping d ∧ allOff t)
      ∧ (v < p.sense.stoppedSpeed →
          match d with
          | .stopped => t.seq.attempts = 0
              ∧ t.seq.engine = (if linkSilent s then .inhibited .duplicate else .stopped)
          | .retryWait => t.seq.engine = .retryWait ∧ t.seq.recrankTimer = some 0
          | .lockedOut r => t.seq.engine = .lockedOut r
          | .layover => t.seq.engine = .layover ∧ t.layover.watch ≠ .inactive
              ∨ t.seq.engine = .starting .prep
          | .prep => t.seq.engine = .starting .prep ∧ t.seq.attempts = s.seq.attempts
              ∧ ∃ c, claimOf .own t.arb.claims = some c ∧ c.state = .waiting
                  ∧ c.serial = s.seq.keptSerial.getD (s.arb.ownSerial + 1))

/-- In STOPPED a turning engine is taken to STOPPING while the turning watch runs, and the watch ends with its 1000 ms
(R168). In LAYOVER, at a channel gone stale, a converter sample or a peer's STATUS, the restart watch takes the level
its triggers give; where the level has risen and the station may start, it starts at that level, and otherwise it
stays in LAYOVER. An engine that comes to rest, and RUN-ISOLATE going on, make it ask again (R142, R143). -/
def Obligations.SpeedJudgesStillEngine : Prop :=
  ∀ (p : Params) (s : State), s.reader.applied = some p →
    (∀ v us, gateCompletes p s v → noOverspeed p s v → s.seq.engine = .stopped →
      s.seq.turningWatch = some us → p.sense.stoppedSpeed < v →
      ∃ t, exec .pickupEdge s = .next t ∧ t.seq.engine = .stopping .stopped
        ∧ t.seq.turningWatch = none ∧ allOff t)
    ∧ (∀ us, s.seq.turningWatch = some us → 1000000 ≤ us →
      exec .turningWatchEnd s = .next { s with seq := { s.seq with turningWatch := none } })
    ∧ (∀ us, s.seq.turningWatch = some us → us < 1000000 → exec .turningWatchEnd s = .next s)
    ∧ (∀ cmd v level, speedComes p s cmd v → noOverspeed p s v → s.seq.engine = .layover →
      s.layover.watch = .active (some level) → v < p.sense.stoppedSpeed →
      lineOn p s .runIsolate = true → linkSilent s = false → 0 < p.crank.claimSettle →
      ∃ t, exec cmd s = .next t ∧ t.seq.engine = .starting .prep
        ∧ t.seq.startLevel = some level ∧ t.seq.origLevel = some level ∧ t.seq.attempts = 0
        ∧ t.layover.watch = .inactive)
    ∧ (∀ level, goesOn p s .runIsolate → s.seq.engine = .layover →
      s.layover.watch = .active (some level) → atRest p s = true → linkSilent s = false →
      0 < p.crank.claimSettle →
      ∃ t, exec (.debounceTimeout .runIsolate) s = .next t ∧ startedAt level s t
        ∧ t.layover.watch = .inactive)
    ∧ ∀ cmd old, s.seq.engine = .layover → s.layover.watch = .active old → 0 < p.crank.claimSettle →
      ((∃ c us, cmd = .stalenessTimeout c ∧ (channelOf s.meas c).timer = some us ∧ 2000000 ≤ us)
        ∨ (∃ c raw, cmd = .converterReply c raw true ∧ s.meas.request = some c ∧ s.meas.taken = false)
        ∨ ∃ src c, cmd = .status src c ∧ heard p src s ∧ statusValid c = true) →
      ∃ t level, exec cmd s = .next t ∧ LevelStands p t level
        ∧ (∀ l, level = some l → (∀ o, old = some o → levelNum o < levelNum l) → acceptsStart p s →
            startedAt l s t ∧ t.layover.watch = .inactive)
        ∧ (level = none ∨ (∃ o l, old = some o ∧ level = some l ∧ levelNum l ≤ levelNum o)
              ∨ ¬ acceptsStart p s →
            t.seq.engine = .layover ∧ t.layover.watch = .active level)

/-! ### The converter channels (Chapter 1) -/

/-- CONVERTER_SLOT_END moves the polling on to the next channel at 20 ms and not before; a second reply in a slot
is discarded; a reply that names another channel or lacks the valid mark only ends the slot's wait (R6, R7). -/
def Obligations.ConverterSlots : Prop :=
  ∀ (p : Params) (s : State) (c : Channel), s.reader.applied = some p → s.meas.request = some c →
    (∀ us, s.meas.slot = some us → 20000 ≤ us →
      exec .converterSlotEnd s = .next { s with meas := { s.meas with
        request := some (match c with | .lube => .resv | .resv => .cool | .cool => .batt | .batt => .lube)
        slot := some 0, taken := false } })
    ∧ (∀ us, s.meas.slot = some us → us < 20000 → exec .converterSlotEnd s = .next s)
    ∧ (∀ named raw valid, s.meas.taken = true → exec (.converterReply named raw valid) s = .next s)
    ∧ ∀ named raw valid, s.meas.taken = false → (named ≠ c ∨ valid = false) →
      exec (.converterReply named raw valid) s = .next { s with meas := { s.meas with taken := true } }

/-- A valid reply (R7 to R10): its reading is scaled, joins the window of at most four, and the channel's value
is the window's mean rounded down; the channel is fresh and its staleness timer starts again. A valid LUBE reply
lifts the lube-stale cap (R46), and in PREP, in PRESSURE mode, a LUBE value at or above the prelube pressure sets
prelube-done, which a lower one and TIMED mode leave as it is (R22). -/
def Obligations.ValidReplyGivesMean : Prop :=
  ∀ (p : Params) (s : State) (c : Channel) (raw : BitVec 12), s.reader.applied = some p →
    s.meas.request = some c → s.meas.taken = false →
    let sample := (scaleOf p c).low + raw.toNat * ((scaleOf p c).high - (scaleOf p c).low) / 4095
    let all := (channelOf s.meas c).window ++ [sample]
    let window := all.drop (all.length - 4)
    ∃ t, exec (.converterReply c raw true) s = .next t
      ∧ channelOf t.meas c = { window, value := some (window.sum / window.length), stale := false
                               timer := some 0 }
      ∧ (∀ d, d ≠ c → channelOf t.meas d = channelOf s.meas d)
      ∧ t.meas.taken = true ∧ t.meas.request = some c ∧ t.meas.slot = s.meas.slot
      ∧ t.meas.speed = s.meas.speed ∧ t.meas.gate = s.meas.gate
      ∧ (c ≠ .cool → t.meas.tempClass = s.meas.tempClass ∧ t.prot.derate1 = s.prot.derate1
          ∧ t.prot.derate2 = s.prot.derate2 ∧ t.prot.hotStop = s.prot.hotStop)
      ∧ Apart { s with
          meas := t.meas
          prot := { s.prot with
            derate1 := t.prot.derate1, derate2 := t.prot.derate2, hotStop := t.prot.hotStop } } t
      ∧ (c = .lube → t.prot.lubeStaleCap = none)
      ∧ (∀ v, c = .lube → (channelOf t.meas c).value = some v → s.seq.engine = .starting .prep →
          timerReached s.arb.claimTimer p.crank.claimSettle = false →
          t.seq.engine = .starting .prep
          ∧ ((profileOf p s).mode = .pressure → (profileOf p s).prelubePressure ≤ v →
              t.seq.prelubeDone = true)
          ∧ ((profileOf p s).mode = .timed ∨ v < (profileOf p s).prelubePressure →
              t.seq.prelubeDone = s.seq.prelubeDone))
      ∧ (c = .lube ∨ c = .batt → Judged p { s with meas := t.meas } t)
      ∧ outputsFollow t

/-- R8 to R10: while the samples of a channel and its scaling lie within a range, a valid reply keeps every
sample of the window, and the channel's value, within it. -/
def Obligations.SamplesStayInRange : Prop :=
  ∀ (p : Params) (s : State) (c : Channel) (raw : BitVec 12) (lo hi : Int), s.reader.applied = some p →
    s.meas.request = some c → s.meas.taken = false →
    lo ≤ (scaleOf p c).low → (scaleOf p c).low < (scaleOf p c).high → (scaleOf p c).high ≤ hi →
    (∀ x ∈ (channelOf s.meas c).window, lo ≤ x ∧ x ≤ hi) →
    ∃ t v, exec (.converterReply c raw true) s = .next t
      ∧ (channelOf t.meas c).value = some v ∧ lo ≤ v ∧ v ≤ hi
      ∧ (∀ x ∈ (channelOf t.meas c).window, lo ≤ x ∧ x ≤ hi)
      ∧ 1 ≤ (channelOf t.meas c).window.length ∧ (channelOf t.meas c).window.length ≤ 4

/-- R13: the temperature class after a valid COOL sample, by the class held and the new value. -/
def Obligations.CoolSampleMovesClass : Prop :=
  ∀ (p : Params) (s : State) (raw : BitVec 12), s.reader.applied = some p →
    s.meas.request = some .cool → s.meas.taken = false →
    ∃ t v, exec (.converterReply .cool raw true) s = .next t ∧ t.meas.cool.value = some v
      ∧ t.meas.tempClass =
        (match s.meas.tempClass with
         | .cold => if p.sense.hotLimit ≤ v then .hot
                    else if p.sense.coldLimit + 3 ≤ v then .warm else .cold
         | .warm => if v < p.sense.coldLimit then .cold
                    else if p.sense.hotLimit ≤ v then .hot else .warm
         | .hot => if v < p.sense.coldLimit then .cold
                   else if v < p.sense.hotLimit - 3 then .warm else .hot)

/-- R44: each hot latch after a valid COOL sample, and the hot cap the latches give; the default temperatures are 92,
97 and 102 °C. -/
def Obligations.CoolSampleMovesLatches : Prop :=
  protectDefault.derate1Temp = 92 ∧ protectDefault.derate2Temp = 97 ∧ protectDefault.hotTemp = 102
  ∧ ∀ (p : Params) (s : State) (raw : BitVec 12), s.reader.applied = some p →
    s.meas.request = some .cool → s.meas.taken = false →
    ∃ t v, exec (.converterReply .cool raw true) s = .next t ∧ t.meas.cool.value = some v
      ∧ (p.protect.derate1Temp ≤ v → t.prot.derate1 = true)
      ∧ (v < p.protect.derate1Temp - 3 → t.prot.derate1 = false)
      ∧ (p.protect.derate1Temp - 3 ≤ v → v < p.protect.derate1Temp → t.prot.derate1 = s.prot.derate1)
      ∧ (p.protect.derate2Temp ≤ v → t.prot.derate2 = true)
      ∧ (v < p.protect.derate2Temp - 3 → t.prot.derate2 = false)
      ∧ (p.protect.derate2Temp - 3 ≤ v → v < p.protect.derate2Temp → t.prot.derate2 = s.prot.derate2)
      ∧ (p.protect.hotTemp ≤ v → t.prot.hotStop = true)
      ∧ (v < p.protect.hotTemp - 3 → t.prot.hotStop = false)
      ∧ (p.protect.hotTemp - 3 ≤ v → v < p.protect.hotTemp → t.prot.hotStop = s.prot.hotStop)
      ∧ (t.prot.derate1 = false → t.prot.derate2 = false → t.prot.hotStop = false → t.prot.hotCap = none)
      ∧ (t.prot.derate1 = true ∨ t.prot.derate2 = true ∨ t.prot.hotStop = true →
          ∃ cap, t.prot.hotCap = some cap
            ∧ (t.prot.derate1 = true → cap ≤ p.protect.derate1Cap)
            ∧ (t.prot.derate2 = true → cap ≤ p.protect.derate2Cap)
            ∧ (t.prot.hotStop = true → cap ≤ 1)
            ∧ (t.prot.derate1 = true ∧ cap = p.protect.derate1Cap
                ∨ t.prot.derate2 = true ∧ cap = p.protect.derate2Cap
                ∨ t.prot.hotStop = true ∧ cap = 1))

/-- R27: a RESV value below the crank floor ends the crank FLOOR: uncounted, the claim gone, the rotation as it
was, CRANK-OFF(FLOOR) asked for; an engine at rest goes straight on to PREP. The default floor is 450 kPa. -/
def Obligations.ReservoirFloorEndsCrank : Prop :=
  crankDefault.floor = 450
  ∧ ∀ (p : Params) (s : State) (raw : BitVec 12) (c : Claim), s.reader.applied = some p →
    s.meas.request = some .resv → s.meas.taken = false → s.seq.engine = .starting .crank →
    claimOf .own s.arb.claims = some c →
    ∃ t v, exec (.converterReply .resv raw true) s = .next t ∧ t.meas.resv.value = some v
      ∧ (v < p.crank.floor →
          t.seq.crankCount = s.seq.crankCount ∧ t.seq.attempts = s.seq.attempts
          ∧ t.arb.rotation = s.arb.rotation
          ∧ (openLink s → asked (.crankOff 3 (levelByte c.level) c.serial s.seq.crankCount) t)
          ∧ (p.sense.stoppedSpeed ≤ s.meas.speed → t.seq.engine = .stopping .prep
              ∧ claimOf .own t.arb.claims = none ∧ attemptClosed .floor s t ∧ allOff t)
          ∧ (s.meas.speed < p.sense.stoppedSpeed → 0 < p.crank.claimSettle →
              t.seq.engine = .starting .prep))
      ∧ (p.crank.floor ≤ v → t.seq.engine = .starting .crank ∧ t.arb = s.arb)

/-- STALENESS_TIMEOUT (R11, R15): at 2000 ms the channel is STALE, holding its value and window, and with COOL the
class becomes COLD; with LUBE, in RUNNING, the lube-stale cap holds the available row to ID (R46). Before that
nothing changes. -/
def Obligations.StaleChannelHoldsValue : Prop :=
  ∀ (p : Params) (s : State) (c : Channel) (us : Nat), s.reader.applied = some p →
    (channelOf s.meas c).timer = some us →
    (2000000 ≤ us →
      ∃ t, exec (.stalenessTimeout c) s = .next t
        ∧ channelOf t.meas c = { channelOf s.meas c with stale := true, timer := none }
        ∧ (∀ d, d ≠ c → channelOf t.meas d = channelOf s.meas d)
        ∧ t.meas.speed = s.meas.speed
        ∧ t.meas.tempClass = (if c = .cool then .cold else s.meas.tempClass)
        ∧ (c = .lube → s.seq.engine = .running →
            t.prot.lubeStaleCap = some 1 ∧ t.prot.available ≤ 1 ∧ derated t = true
            ∧ t.seq.engine = .running)
        ∧ Judged p { s with meas := t.meas } t)
    ∧ (us < 2000000 → exec (.stalenessTimeout c) s = .next s)

/-! ### Cab demand (Chapter 4) -/

/-- INPUT_RAW_CHANGE and DEBOUNCE_TIMEOUT (R58, R59): a new raw level stands and starts the line's stability timer
again; a raw level that has stood 20 ms and differs becomes the debounced level, in every reader state; otherwise
nothing changes, which short of 20 ms is the model's choice (notes/assumptions/3.md). Before handover nothing is
handed on. After it GROUND-RELAY gives and lifts the ground cap and the LOAD-PERMIT off command (R47,
notes/assumptions/24.md), and DERATE-SELECT in RUNNING puts the other notch table in force: a row whose setpoint
differs is unsettled, its dwell and load-reference row standing, and the speed that stands is judged (R76,
notes/assumptions/17.md); a row whose setpoint is the same stays as it was. -/
def Obligations.InputsAreDebounced : Prop :=
  (∀ (s : State) (line : InputLine),
    let d := inputOf s.demand.inputs line
    (∀ level, ∃ t, exec (.inputRawChange line level) s = .next t
      ∧ t = { s with demand := { s.demand with inputs := t.demand.inputs } }
      ∧ inputOf t.demand.inputs line
          = (if d.raw = level then d else { d with raw := level, stable := 0 })
      ∧ ∀ m, m ≠ line → inputOf t.demand.inputs m = inputOf s.demand.inputs m)
    ∧ (20000 ≤ d.stable → d.settled ≠ some d.raw →
      ∃ t, exec (.debounceTimeout line) s = .next t
        ∧ inputOf t.demand.inputs line = { d with settled := some d.raw }
        ∧ (∀ m, m ≠ line → inputOf t.demand.inputs m = inputOf s.demand.inputs m)
        ∧ Apart { s with demand := t.demand } t
        ∧ (s.reader.applied = none →
            t = { s with demand := { s.demand with inputs := t.demand.inputs } }))
    ∧ (d.stable < 20000 ∨ d.settled = some d.raw → exec (.debounceTimeout line) s = .next s))
  ∧ ∀ (p : Params) (s : State), s.reader.applied = some p →
    let moved (t : State) : State := { s with demand := { s.demand with inputs := t.demand.inputs } }
    (goesOn p s .groundRelay →
      ∃ t, exec (.debounceTimeout .groundRelay) s = .next t ∧ Judged p (moved t) t
        ∧ t.prot.groundCap = some 1 ∧ ground t = true ∧ t.prot.available ≤ 1
        ∧ (outputOf t.lines .loadPermit).command = false)
    ∧ (goesOff p s .groundRelay →
      ∃ t, exec (.debounceTimeout .groundRelay) s = .next t ∧ Judged p (moved t) t
        ∧ ((outputOf s.lines .loadPermit).present ≠ .sensedOn →
            t.prot.groundCap = none ∧ ground t = false ∧ t.prot.groundOff = false)
        ∧ ((outputOf s.lines .loadPermit).present = .sensedOn →
            (outputOf s.lines .loadPermit).command = false → sensedOn s .loadPermit = true →
            s.prot.groundOff = true →
            t.prot.groundCap = some 1 ∧ t.prot.groundOff = true
            ∧ (outputOf t.lines .loadPermit).command = false))
    ∧ (goesOn p s .derateSelect ∨ goesOff p s .derateSelect →
      let other := if lineOn p s .derateSelect then p.notch else p.notchAlt
      ∃ t, exec (.debounceTimeout .derateSelect) s = .next t ∧ Judged p (moved t) t
        ∧ tableInForce p t = other
        ∧ ∀ r, s.seq.engine = .running → s.step.current = some r →
          targetAfter p (updateInput .derateSelect debounceTaken s) = some r →
          (outputOf s.lines .loadPermit).present ≠ .sensedOn → s.prot.laboringCap = none →
          t.step.current = some r ∧ t.step.dwell = s.step.dwell ∧ t.lines.speedSet = speedDuty other r
          ∧ ((rowOf (tableInForce p s) r).setpoint ≠ (rowOf other r).setpoint →
              inBandOf other r s.meas.speed = false →
              t.step.settled = false ∧ t.step.settleTimer = some 0 ∧ t.step.staggerHold = none
              ∧ t.step.loadRow = s.step.loadRow)
          ∧ ((rowOf (tableInForce p s) r).setpoint ≠ (rowOf other r).setpoint →
              inBandOf other r s.meas.speed = true →
              t.step.settled = true ∧ t.step.settleTimer = none ∧ t.step.loadRow = some r)
          ∧ ((rowOf (tableInForce p s) r).setpoint = (rowOf other r).setpoint →
              t.step.settled = s.step.settled ∧ t.step.settleTimer = s.step.settleTimer
              ∧ t.step.loadRow = s.step.loadRow))

/-- R62, R63: the four handle lines spell nine valid codes, each differing from the next in one line (section 4.2).
When a handle line goes on or off the handle takes the position of a valid code and the fault clears; an invalid code
leaves the handle and starts the timer; INVALID_CODE_TIMEOUT at 500 ms sets HANDLE-FAULT and ID. -/
def Obligations.HandleCodeGivesPosition : Prop :=
  ∀ (p : Params) (s : State), s.reader.applied = some p →
    (∀ r : Row, handleCode p s = some r ↔
      (r.val, lineOn p s .handle4, lineOn p s .handle3, lineOn p s .handle2, lineOn p s .handle1) ∈
        [(1, false, false, false, false), (2, false, false, false, true), (3, false, false, true, true),
         (4, false, false, true, false), (5, false, true, true, false), (6, false, true, true, true),
         (7, false, true, false, true), (8, false, true, false, false), (9, true, true, false, false)])
    ∧ (∀ line, line = .handle1 ∨ line = .handle2 ∨ line = .handle3 ∨ line = .handle4 →
      goesOn p s line ∨ goesOff p s line →
      ∃ t, exec (.debounceTimeout line) s = .next t ∧ t.demand.ownRecord.row = t.demand.handle
        ∧ (∀ r, handleCode p t = some r →
            t.demand.handle = r ∧ t.demand.invalidTimer = none ∧ t.demand.handleFault = false)
        ∧ (handleCode p t = none → t.demand.handle = s.demand.handle
            ∧ t.demand.handleFault = s.demand.handleFault
            ∧ t.demand.invalidTimer
                = (if s.demand.invalidTimer = none ∧ s.demand.handleFault = false then some 0
                   else s.demand.invalidTimer)))
    ∧ ∀ us, s.demand.invalidTimer = some us →
      (500000 ≤ us → ∃ t, exec .invalidCodeTimeout s = .next t
        ∧ Judged p { s with demand := { s.demand with
            handle := 1, invalidTimer := none, handleFault := true } } t)
      ∧ (us < 500000 → exec .invalidCodeTimeout s = .next s)

/-- R65, R66, R71: CAB-ACTIVE going on makes the demand source OWN, with its DEMAND asked for and its recent-source
entry made; going off it becomes CURRENT where a record is still being heard, and LOST otherwise. -/
def Obligations.CabActiveSettlesSource : Prop :=
  ∀ (p : Params) (s : State), s.reader.applied = some p →
    (goesOn p s .cabActive →
      ∃ t, exec (.debounceTimeout .cabActive) s = .next t ∧ t.demand.source = .own
        ∧ t.demand.holdTimer = none
        ∧ t.demand.remote = (if s.demand.source = .current then s.demand.remote else none)
        ∧ { who := .own, age := 0 } ∈ t.demand.recent
        ∧ (openLink s → asked (.demand (rowByte (some t.demand.ownRecord.row))
            (markByte t.demand.ownRecord.centred) (markByte t.demand.ownRecord.brake)
            (BitVec.ofNat 8 t.demand.ownRecord.serial.val)) t)
        ∧ outputsFollow t)
    ∧ (goesOff p s .cabActive →
      ∃ t, exec (.debounceTimeout .cabActive) s = .next t ∧ outputsFollow t
        ∧ ((∃ r us, s.demand.remote = some r ∧ s.demand.demandTimer = some us
              ∧ us < p.link.demandTimeout * 1000) →
            t.demand.source = .current ∧ t.demand.remote = s.demand.remote)
        ∧ ((∀ r us, s.demand.remote = some r → s.demand.demandTimer = some us →
              p.link.demandTimeout * 1000 ≤ us) →
            t.demand.source = .lost ∧ t.demand.remote = none))

/-- R67, R18 to R21: a press of START-PB accepted by a still STOPPED or LAYOVER station starts it at level DEMAND and
asks for its CLAIM; a press in any other case leaves a quiet station's engine and claims as they are. With the
cab active the own serial advances either way. -/
def Obligations.StartButtonStartsEngine : Prop :=
  ∀ (p : Params) (s : State), s.reader.applied = some p → goesOn p s .startPb →
    ∃ t, exec (.debounceTimeout .startPb) s = .next t ∧ outputsFollow t
      ∧ t.demand.ownSerial
          = (if lineOn p s .cabActive then s.demand.ownSerial + 1 else s.demand.ownSerial)
      ∧ (acceptsStart p s → 0 < p.crank.claimSettle → startedAt .demand s t
          ∧ (openLink s → asked (.claim 2 (s.seq.keptSerial.getD (s.arb.ownSerial + 1))) t))
      ∧ (¬ acceptsStart p s → Quiet p s →
          t.seq.engine = s.seq.engine ∧ t.arb = s.arb ∧ t.seq.attempts = s.seq.attempts)

/-- R36: a press of STOP-PB, state by state: what becomes of the engine state, the attempt, the claim, the crank
count and the trip latch, and the frame asked for. -/
def Obligations.StopButtonByState : Prop :=
  ∀ (p : Params) (s : State), s.reader.applied = some p → goesOn p s .stopPb →
    ∃ t, exec (.debounceTimeout .stopPb) s = .next t ∧ outputsFollow t
      ∧ (∀ c, s.seq.engine = .starting .prep → claimOf .own s.arb.claims = some c →
          t.seq.engine = stoppedEngine s ∧ t.seq.attempts = 0 ∧ attemptClosed .stopped s t
          ∧ claimOf .own t.arb.claims = none ∧ t.seq.crankCount = s.seq.crankCount
          ∧ (openLink s → asked (.withdraw c.serial) t))
      ∧ (∀ c, s.seq.engine = .starting .crank → claimOf .own s.arb.claims = some c →
          t.seq.engine = haltedEngine p s ∧ t.seq.attempts = 0 ∧ attemptClosed .stopped s t
          ∧ claimOf .own t.arb.claims = none ∧ t.arb.rotation = toTail .own s.arb.rotation
          ∧ t.seq.crankCount = s.seq.crankCount + 1
          ∧ (openLink s → asked (.crankOff 2 (levelByte c.level) c.serial (s.seq.crankCount + 1)) t))
      ∧ (s.seq.engine = .starting .fire ∨ s.seq.engine = .starting .confirm →
          t.seq.engine = haltedEngine p s ∧ t.seq.attempts = 0 ∧ attemptClosed .stopped s t
          ∧ t.arb = s.arb ∧ t.seq.crankCount = s.seq.crankCount)
      ∧ (s.seq.engine = .running → t.seq.engine = haltedEngine p s ∧ t.arb = s.arb)
      ∧ (∀ d, s.seq.engine = .stopping d → (∀ r, d ≠ .lockedOut r) →
          t.seq.engine = haltedEngine p s ∧ t.arb = s.arb)
      ∧ (s.seq.engine = .stopping .prep → t.seq.keptSerial = none
          ∧ ∀ k, s.seq.keptSerial = some k → openLink s → asked (.withdraw k) t)
      ∧ (∀ r, s.seq.engine = .stopping (.lockedOut r) → atRest p s = false →
          t.seq.engine = .stopping (.lockedOut r))
      ∧ (s.seq.engine = .retryWait ∨ s.seq.engine = .layover →
          t.seq.engine = stoppedEngine s ∧ t.seq.recrankTimer = none ∧ t.layover.watch = .inactive)
      ∧ (∀ r, s.seq.engine = .lockedOut r →
          (atRest p s = true → fuelHold s = false →
            t.seq.engine = stoppedEngine s ∧ t.prot.tripLatch = false)
          ∧ (atRest p s = false ∨ fuelHold s = true →
            t.seq.engine = .lockedOut r ∧ t.prot.tripLatch = s.prot.tripLatch))
      ∧ (Quiet p s → s.seq.engine = .stopped ∨ isInhibited s = true →
          t.seq.engine = s.seq.engine ∧ t.arb = s.arb)

/-- R69, R70, R65, R71: the expiries of the demand timer, the hold timer and a recent-source entry, each at its limit
and in the source states it acts in. -/
def Obligations.DemandTimersPass : Prop :=
  ∀ (p : Params) (s : State), s.reader.applied = some p →
    (∀ us, s.demand.demandTimer = some us → p.link.demandTimeout * 1000 ≤ us →
      (s.demand.source = .current → ∃ t, exec .demandTimeout s = .next t
        ∧ Judged p { s with demand := { s.demand with
            source := if p.link.demandHold = 0 then .lost else .holding
            remote := if p.link.demandHold = 0 then none else s.demand.remote
            holdTimer := if p.link.demandHold = 0 then none else some 0 } } t)
      ∧ (s.demand.source = .waiting → ∃ t, exec .demandTimeout s = .next t
        ∧ Judged p { s with demand := { s.demand with source := .lost } } t ∧ demandLost t = true)
      ∧ (s.demand.source = .own → ∃ t, exec .demandTimeout s = .next t
        ∧ Judged p { s with demand := { s.demand with remote := none, demandTimer := none } } t))
    ∧ (∀ us, s.demand.holdTimer = some us → p.link.demandHold * 1000 ≤ us →
      s.demand.source = .holding → ∃ t, exec .demandHoldExpiry s = .next t
        ∧ Judged p { s with demand := { s.demand with
            source := .lost, remote := none, holdTimer := none } } t ∧ demandLost t = true)
    ∧ (∀ who us, sourceAge who s.demand.recent = some us → p.link.demandTimeout * 1000 ≤ us →
      ∃ t, exec (.recentSourceExpiry who) s = .next t
        ∧ Judged p { s with demand := { s.demand with
            recent := s.demand.recent.filter (fun e => e.who != who) } } t)

/-- R68: a DEMAND heard from another unit becomes the remote record, restarts the demand timer, refreshes its
source and makes the state CURRENT unless it is OWN; a new serial of the followed source starts a still station;
a row that is not ID to N8 changes nothing of the demand unit. -/
def Obligations.DemandFrameIsFollowed : Prop :=
  ∀ (p : Params) (s : State) (src : UnitNo) (row rev brake serial : Byte), heard p src s →
    rev.toNat ≤ 1 → brake.toNat ≤ 1 → serial.toNat ≤ 15 →
    ∃ t, exec (.demand src row rev brake serial) s = .next t ∧ outputsFollow t
      ∧ Apart { s with
          demand := t.demand, link := { s.link with receive := .waitingIdle }, roster := t.roster } t
      ∧ (∀ r : Row, 1 ≤ r.val → row.toNat = r.val →
          t.demand.remote
              = some { source := src, row := r, centred := rev == 1, brake := brake == 1, serial }
          ∧ t.demand.demandTimer = some 0
          ∧ t.demand.source = (if s.demand.source = .own then .own else .current)
          ∧ { who := .unit src, age := 0 } ∈ t.demand.recent
          ∧ (∀ old, s.demand.remote = some old → old.source = src → old.serial ≠ serial →
              s.demand.source = .current ∨ s.demand.source = .holding →
              (refreshSource (.unit src) s.demand.recent).length < 2 →
              acceptsStart p s → 0 < p.crank.claimSettle → startedAt .demand s t)
          ∧ (s.demand.remote = none → Quiet p s → t.seq.engine = s.seq.engine))
      ∧ (row.toNat = 0 ∨ 10 ≤ row.toNat →
          t.demand = { s.demand with ownRecord := t.demand.ownRecord })

/-! ### The start sequencer's timers (Chapter 2) -/

/-- PRELUBE_TIME_EXPIRY (R22): in TIMED mode prelube is done at the prelube time; nothing changes before it. -/
def Obligations.PrelubeTimeSetsDone : Prop :=
  ∀ (p : Params) (s : State) (us : Nat), s.reader.applied = some p → s.seq.engine = .starting .prep →
    (profileOf p s).mode = .timed → s.seq.prelubeDone = false → s.seq.phaseTimer = some us →
    ((profileOf p s).prelubeTime * 1000000 ≤ us →
      ∃ t, exec .prelubeTimeExpiry s = .next t
        ∧ Judged p { s with seq := { s.seq with prelubeDone := true } } t
        ∧ (Quiet p s → t.seq.prelubeDone = true ∧ t.seq.engine = .starting .prep))
    ∧ (us < (profileOf p s).prelubeTime * 1000000 → exec .prelubeTimeExpiry s = .next s)

/-- R118, R24, R111: when all seven grant conditions hold, CRANK_GRANT, CLAIM_SETTLE_EXPIRY and JOIN_TIME_EXPIRY
each find the station granted: it enters CRANK, its entry is CRANKING, its overlap timer starts and CRANK-ON is
asked for. -/
def Obligations.GrantEntersCrank : Prop :=
  ∀ (p : Params) (s : State) (cmd : Instr) (c : Claim) (claimed joined : Nat) (resv : Int),
    (cmd = .crankGrant ∨ cmd = .claimSettleExpiry ∨ cmd = .joinTimeExpiry) →
    s.reader.applied = some p → s.seq.engine = .starting .prep → s.seq.prelubeDone = true →
    s.arb.claimTimer = some claimed → p.crank.claimSettle * 1000 ≤ claimed →
    s.arb.joinTimer = some joined → 2 * p.link.statusPeriod * 1000 ≤ joined →
    claimOf .own s.arb.claims = some c → c.state = .waiting →
    (∀ d ∈ s.arb.claims, d.who ≠ .own → d.state = .waiting → claimAhead p.unit s.arb c d = true) →
    (s.arb.claims.filter isCranking).length < p.crank.maxCranking →
    s.meas.resv.stale = false → s.meas.resv.value = some resv → p.crank.startPressure ≤ resv →
    s.meas.speed < p.sense.stoppedSpeed →
    ∃ t, exec cmd s = .next t ∧ t.seq.engine = .starting .crank ∧ t.seq.phaseTimer = some 0
      ∧ claimOf .own t.arb.claims = some { c with state := .cranking 0 }
      ∧ t.arb.overlapTimer = some 0 ∧ t.arb.rotation = s.arb.rotation
      ∧ t.seq.record = s.seq.record.map (fun r => { r with
          phases := closeLast (phaseElapsed s) s.meas.speed r.phases ++ [{ elapsed := 0, speed := none }] })
      ∧ (openLink s → asked (.crankOn (levelByte c.level) c.serial) t)
      ∧ Apart s t ∧ outputsFollow t

/-- R31, R34 with R22, R24, R26, R29 and R30: an expiry that fails an attempt, in its phase and at its limit, counts
the failure, closes the record with its result, ends claim and crank, and leads to RETRY-WAIT or
LOCKED-OUT(ATTEMPTS); at any other moment it changes nothing. -/
def Obligations.CountedFailureEndsAttempt : Prop :=
  ∀ (p : Params) (s : State) (cmd : Instr) (phase : Phase) (result : AttemptResult),
    s.reader.applied = some p → failureOf cmd = some (phase, result) →
    (failureDue p s cmd = true →
      ∃ t, exec cmd s = .next t ∧ s.seq.engine = .starting phase
        ∧ t.seq.engine = failedEngine p s s.meas.speed ∧ t.seq.attempts = s.seq.attempts + 1
        ∧ attemptClosed result s t ∧ failedClaim s t ∧ allOff t ∧ Apart s t
        ∧ (∀ c, claimOf .own s.arb.claims = some c → openLink s →
            (phase = .prep → asked (.withdraw c.serial) t)
            ∧ (phase = .crank →
                asked (.crankOff 1 (levelByte c.level) c.serial (s.seq.crankCount + 1)) t)))
    ∧ (failureDue p s cmd = false → exec cmd s = .next s)

/-- CONFIRM_TIME_REACHED (R30): at the confirm time the attempt ends RUNNING, the count is cleared and RUNNING is
entered at row ID; before it nothing changes. -/
def Obligations.ConfirmTimeEntersRunning : Prop :=
  ∀ (p : Params) (s : State) (us : Nat), s.reader.applied = some p →
    s.seq.engine = .starting .confirm → s.seq.confirmTimer = some us →
    ((profileOf p s).confirmTime * 1000000 ≤ us →
      ∃ t, exec .confirmTimeReached s = .next t ∧ t.seq.engine = .running ∧ t.seq.attempts = 0
        ∧ attemptClosed .running s t ∧ t.arb = s.arb ∧ t.seq.phaseTimer = none
        ∧ t.lines.runLamp = true ∧ Apart s t ∧ outputsFollow t
        ∧ (0 < upDwell (tableInForce p s) 1 s.meas.tempClass → 0 < (tableInForce p s).downDwell →
            t.step.current = some 1 ∧ t.step.dwell = some 0 ∧ t.step.loadRow = some 1))
    ∧ (us < (profileOf p s).confirmTime * 1000000 → exec .confirmTimeReached s = .next s)

/-- R32: at the end of RETRY-WAIT the start level is the original level less half of one less than the
attempt count, never less than 0, and it is the level of the claim posted and of the new attempt record. -/
def Obligations.RecrankLevelFallsByHalves : Prop :=
  ∀ (p : Params) (s : State) (us : Nat) (o : Level), s.reader.applied = some p →
    s.seq.engine = .retryWait → s.seq.recrankTimer = some us → s.seq.origLevel = some o →
    1 ≤ s.seq.attempts → 0 < p.crank.claimSettle →
    (p.crank.recrank * 1000000 ≤ us →
      ∃ t level c r, exec .recrankIntervalExpiry s = .next t ∧ t.seq.engine = .starting .prep
        ∧ levelNum level = levelNum o - (s.seq.attempts - 1) / 2
        ∧ t.seq.startLevel = some level ∧ claimOf .own t.arb.claims = some c ∧ c.level = level
        ∧ c.state = .waiting ∧ t.seq.record = some r ∧ r.level = level
        ∧ r.number = s.seq.attempts + 1 ∧ t.seq.attempts = s.seq.attempts
        ∧ t.seq.recrankTimer = none ∧ Apart s t ∧ outputsFollow t)
    ∧ (us < p.crank.recrank * 1000000 → exec .recrankIntervalExpiry s = .next s)

/-! ### Protection (Chapter 3) -/

/-- R50, R51, R54, R55: a trip condition that has held for its delay trips the running station, for LUBE or for HOT; a
timer short of its delay trips nothing. At the fuel-cut hold the hold timer stops, or starts again from 0 while
ESTOP is on. -/
def Obligations.ProtectionTimersAct : Prop :=
  ∀ (p : Params) (s : State) (us : Nat), s.reader.applied = some p →
    let r (reason : LockReason) : TripRecord :=
      { reason, source := none, engine := .running, row := s.step.current, speed := s.meas.speed
        stalled := s.meas.stalled, cool := freshValue s.meas.cool, lube := freshValue s.meas.lube }
    (s.prot.lubeTimer = some us → lubeTripHolds p s = true → p.protect.lubeDelay * 1000000 ≤ us →
      ∃ t, exec .lubeTripDelayExpiry s = .next t ∧ Tripped (r .lube) t
        ∧ t.seq.engine = tripEngine p s .lube ∧ Apart s t)
    ∧ (s.prot.lubeTimer = some us → us < p.protect.lubeDelay * 1000000 →
      exec .lubeTripDelayExpiry s = .next s)
    ∧ (s.prot.hotTimer = some us → hotStopHolds s = true → p.protect.hotDelay * 1000000 ≤ us →
      ∃ t, exec .hotStopDelayExpiry s = .next t ∧ Tripped (r .hot) t
        ∧ t.seq.engine = tripEngine p s .hot ∧ Apart s t)
    ∧ (s.prot.hotTimer = some us → us < p.protect.hotDelay * 1000000 →
      exec .hotStopDelayExpiry s = .next s)
    ∧ (s.prot.holdTimer = some us → p.protect.fuelCutHold * 1000000 ≤ us →
      ∃ t, exec .fuelCutHoldExpiry s = .next t
        ∧ Judged p { s with prot := { s.prot with
            holdTimer := if lineOn p s .estop then some 0 else none } } t)
    ∧ (s.prot.holdTimer = some us → us < p.protect.fuelCutHold * 1000000 →
      exec .fuelCutHoldExpiry s = .next s)

/-- R53, R54, R37, R57, R160: ESTOP going on, and a FUEL-CUT heard from another unit, a maintenance tool included,
trip the station for FUEL-CUT in every state but INHIBITED, with LOCAL or the sender as the source. ESTOP also asks
for a FUEL-CUT, which no queue displaces. -/
def Obligations.FuelCutTrips : Prop :=
  ∀ (p : Params) (s : State) (cmd : Instr) (source : CutSource), s.reader.applied = some p →
    (cmd = .debounceTimeout .estop ∧ source = .localEstop ∧ goesOn p s .estop
      ∨ ∃ src, cmd = .fuelCut src ∧ source = .frame src ∧ heard p src s) →
    (isInhibited s = false →
      ∃ t, exec cmd s = .next t
        ∧ Tripped { reason := .fuelCut, source := some source, engine := s.seq.engine
                    row := if s.seq.engine = .running then s.step.current else none
                    speed := s.meas.speed, stalled := s.meas.stalled
                    cool := freshValue s.meas.cool, lube := freshValue s.meas.lube } t
        ∧ t.seq.engine = tripEngine p s .fuelCut
        ∧ t.seq.crankCount = s.seq.crankCount + cranksEnded s
        ∧ Apart { s with demand := t.demand, link := t.link, roster := t.roster } t
        ∧ (source = .localEstop → s.link.state = .up → queueSound s.link → asked .fuelCut t))
    ∧ (isInhibited s = true →
      ∃ t, exec cmd s = .next t ∧ t.seq.engine = s.seq.engine
        ∧ t.prot.record = s.prot.record ∧ t.prot.tripLatch = s.prot.tripLatch)

/-! ### Notch stepping (Chapter 5) -/

/-- R81, R83, R87 to R90: when the target stands above a settled row whose up-dwell is spent, the stagger interval
is passed and no peer is ahead or the hold has run out, the expiry of the dwell, of the stagger interval or of
the hold takes one step up, with its STEP frame. While a peer is ahead and the hold has not begun, the expiry of the
dwell or of the interval begins it and takes no step; after either expiry, and after any frame heard from another
unit, the hold runs exactly while only a peer ahead holds the step back (R88, R89). -/
def Obligations.StepUpIsTaken : Prop :=
  (∀ (p : Params) (s : State) (cmd : Instr) (r goal : Row) (us : Nat),
    s.reader.applied = some p → s.seq.engine = .running → s.step.current = some r →
    s.step.target = some goal → targetAfter p s = some goal → r.val < goal.val → s.step.settled = true →
    s.step.dwell = some us → upDwell (tableInForce p s) r s.meas.tempClass * 1000 ≤ us →
    (s.step.stagger = none ∨ ∃ a, s.step.stagger = some a ∧ p.step.stagger * 1000 ≤ a) →
    (peerAhead p s r = false
      ∨ ∃ a, s.step.staggerHold = some a ∧ 3 * p.step.stagger * 1000 ≤ a) →
    (cmd = .dwellTimeout
      ∨ cmd = .staggerIntervalExpiry ∧ s.step.stagger ≠ none
      ∨ cmd = .staggerHoldExpiry ∧ peerAhead p s r = true) →
    0 < upDwell (tableInForce p s) (rowUp r) s.meas.tempClass ∨ rowUp r = 9 →
    0 < (tableInForce p s).downDwell →
    ∃ t, exec cmd s = .next t ∧ Judged p { s with step := t.step } t
      ∧ t.step.current = some (rowUp r) ∧ (rowUp r).val = r.val + 1 ∧ t.step.dwell = some 0
      ∧ t.step.staggerHold = none
      ∧ (openLink s → asked (.step (rowByte (some (rowUp r)))) t))
  ∧ (∀ (p : Params) (s : State) (cmd : Instr) (r goal : Row) (us : Nat),
    s.reader.applied = some p → s.seq.engine = .running → s.step.current = some r →
    s.step.target = some goal → targetAfter p s = some goal → r.val < goal.val → s.step.settled = true →
    s.step.dwell = some us → upDwell (tableInForce p s) r s.meas.tempClass * 1000 ≤ us →
    (s.step.stagger = none ∨ ∃ a, s.step.stagger = some a ∧ p.step.stagger * 1000 ≤ a) →
    peerAhead p s r = true → s.step.staggerHold = none → 0 < p.step.stagger →
    (outputOf s.lines .loadPermit).present ≠ .sensedOn →
    (cmd = .dwellTimeout ∨ cmd = .staggerIntervalExpiry ∧ s.step.stagger ≠ none) →
    ∃ t, exec cmd s = .next t ∧ t.step.current = some r ∧ t.step.staggerHold = some 0)
  ∧ ∀ (p : Params) (s : State) (cmd : Instr), s.reader.applied = some p →
    (cmd = .dwellTimeout ∧ dwellReached p s = true
      ∨ cmd = .staggerIntervalExpiry ∧ (∃ a, s.step.stagger = some a ∧ p.step.stagger * 1000 ≤ a)
      ∨ ∃ src c, cmd = frameCommand src c ∧ heard p src s ∧ contentValid c = true) →
    ∃ t, exec cmd s = .next t ∧ (t.step.staggerHold.isSome = true ↔ heldBack p t)

/-- R82, R83, R91: when the target stands below the row and the down-dwell is spent, DWELL_TIMEOUT takes one step
down, to LO too where low idle is reached, the load-reference row following at once; a dwell not yet spent changes
nothing. -/
def Obligations.StepDownIsTaken : Prop :=
  ∀ (p : Params) (s : State) (r goal : Row) (us : Nat),
    s.reader.applied = some p → s.seq.engine = .running → s.step.current = some r →
    s.step.target = some goal → goal.val < r.val → s.step.dwell = some us →
    (targetAfter p s = some goal → (tableInForce p s).downDwell * 1000 ≤ us →
      0 < upDwell (tableInForce p s) (rowDown r) s.meas.tempClass
        ∨ s.step.lowIdleReached = true ∧ lowIdleHolds p s = true
            ∧ s.demand.ownRecord = ownRecordNow p s →
      0 < (tableInForce p s).downDwell →
      ∃ t, exec .dwellTimeout s = .next t ∧ Judged p { s with step := t.step } t
        ∧ t.step.current = some (rowDown r) ∧ (rowDown r).val + 1 = r.val ∧ t.step.dwell = some 0
        ∧ t.step.loadRow = some (rowDown r) ∧ t.step.staggerHold = none)
    ∧ (us < (tableInForce p s).downDwell * 1000 → exec .dwellTimeout s = .next s)

/-- SETTLE_LIMIT_EXPIRY (R85, R48): an unsettled row at the settle limit stops the settle timer; where the row is
ID or higher and the target is not below it, it becomes the laboring cap. -/
def Obligations.SettleLimitReportsLaboring : Prop :=
  ∀ (p : Params) (s : State) (r goal : Row) (us : Nat),
    s.reader.applied = some p → s.seq.engine = .running → s.step.current = some r →
    s.step.target = some goal → s.step.settled = false → s.step.settleTimer = some us →
    (p.step.settleLimit * 1000000 ≤ us →
      ∃ t, exec .settleLimitExpiry s = .next t
        ∧ Judged p { s with
            step := { s.step with settleTimer := none }
            prot := { s.prot with laboringCap :=
              if 1 ≤ r.val ∧ r.val ≤ goal.val then some r else s.prot.laboringCap } } t
        ∧ (1 ≤ r.val → r.val ≤ goal.val → inBandOf (tableInForce p s) r s.meas.speed = false →
            targetAfter p { s with prot := { s.prot with laboringCap := some r } } = some r →
            t.prot.laboringCap = some r ∧ laboring t = true ∧ t.prot.available ≤ r
              ∧ t.step.current = some r ∧ t.step.settled = false ∧ t.step.settleTimer = none))
    ∧ (us < p.step.settleLimit * 1000000 → exec .settleLimitExpiry s = .next s)

/-- LOW_IDLE_TIME_EXPIRY (R78, R77): at the low-idle time, while its condition holds, low idle is reached and the
target is LO; before it nothing changes. -/
def Obligations.LowIdleReachesLo : Prop :=
  ∀ (p : Params) (s : State) (us : Nat), s.reader.applied = some p →
    s.step.lowIdleTimer = some us →
    (lowIdleHolds p s = true → s.demand.ownRecord = ownRecordNow p s →
      p.step.lowIdleTime * 1000000 ≤ us →
      ∃ t, exec .lowIdleTimeExpiry s = .next t
        ∧ Judged p { s with step := t.step } t
        ∧ t.seq.engine = .running ∧ t.step.lowIdleReached = true ∧ t.step.target = some 0)
    ∧ (us < p.step.lowIdleTime * 1000000 → exec .lowIdleTimeExpiry s = .next s)

/-! ### The peer roster (Chapter 6) -/

/-- SILENCE_TIMEOUT (R99, R117): at the silence timeout a peer's entry goes, with its claim, its rotation place and
its places in the crossing and expired lists, and ROSTER-FULL clears; before it nothing changes. -/
def Obligations.SilenceRemovesPeer : Prop :=
  ∀ (p : Params) (s : State) (u : UnitNo) (e : RosterEntry), s.reader.applied = some p →
    entryOf u s.roster.entries = some e →
    (silenceMs p * 1000 ≤ e.age →
      ∃ t, exec (.silenceTimeout u) s = .next t
        ∧ t.roster = { entries := s.roster.entries.filter (fun d => d.unit != u), full := false }
        ∧ claimOf (.unit u) t.arb.claims = none
        ∧ t.arb.rotation = s.arb.rotation.filter (fun w => w != .unit u)
        ∧ u ∉ t.arb.crossing ∧ (∀ x ∈ t.arb.expired, x.unit ≠ u)
        ∧ t.seq.crankCount = s.seq.crankCount ∧ Apart { s with roster := t.roster, arb := t.arb } t
        ∧ (∀ v, v ≠ u → claimOf (.unit v) t.arb.claims = claimOf (.unit v) s.arb.claims)
        ∧ outputsFollow t)
    ∧ (e.age < silenceMs p * 1000 → exec (.silenceTimeout u) s = .next s)

/-- R87, R97, R98, R104, R105, R108: a STEP, a LAYOVER-INTENT or a LAYOVER-CANCEL heard from a unit with a roster
entry sets its age to 0; from another unit it makes an entry in the roster's order and a place at the rotation's
tail; at a full roster it only sets ROSTER-FULL. A STEP restarts the stagger timer, an intent is recorded at age 0
unless it stands with its serial, and a cancel drops the intent of its serial only. An intent that makes the own
quota fail cancels the own announced intent (R138, notes/assumptions/14.md). -/
def Obligations.StepAndIntentAreRecorded : Prop :=
  ∀ (p : Params) (s : State) (src : UnitNo), heard p src s → src ≠ 0 →
    let heardState (t : State) : State :=
      { s with link := { s.link with receive := .waitingIdle }, roster := t.roster, arb := t.arb }
    (∀ row, ∃ t, exec (.step src row) s = .next t ∧ Apart (heardState t) t ∧ outputsFollow t
      ∧ RosterHears src (fun e => { e with lastStep := some 0 }) s t
      ∧ (admitted src s → t.step.stagger = some 0)
      ∧ (¬ admitted src s → t.step.stagger = s.step.stagger))
    ∧ (∀ serial, ∃ t, exec (.layoverIntent src serial) s = .next t
      ∧ Apart (heardState t) t ∧ outputsFollow t
      ∧ RosterHears src (fun e => { e with
          intent := if e.intent.map (·.serial) = some serial then e.intent
            else some { serial, age := 0 } }) s t)
    ∧ (∀ serial, ∃ t, exec (.layoverCancel src serial) s = .next t
      ∧ Apart (heardState t) t ∧ outputsFollow t
      ∧ RosterHears src (fun e => { e with
          intent := if e.intent.map (·.serial) = some serial then none else e.intent }) s t)
    ∧ ∀ serial own e c, entryOf src s.roster.entries = some e → e.status = some c →
      c.engine = .running → e.intent = none → src < p.unit → s.layover.phase = .announced →
      s.layover.ownIntent = some own → runningPeers p s = p.layover.quota →
      ∃ t, exec (.layoverIntent src serial) s = .next t
        ∧ t.layover.phase = .none ∧ t.layover.ownIntent = none ∧ t.layover.holdTimer = none
        ∧ (openLink s → asked (.layoverCancel own) t)

/-- R100 to R103: a STATUS replaces the status part and the last-seen crank count, whose change sends the peer to
the rotation's tail; a STATUS that shows no claim removes the peer's claim, but a WAITING one of a peer
STOPPING toward PREP, and one that shows a claim unknown here makes it WAITING, or CRANKING where it shows the
crank; a WAITING one it replaces, as WAITING or CRANKING likewise. A CRANKING entry takes the level and serial of a
STATUS that shows the crank, its time from 0 for another serial (notes/assumptions/13.md), unless that serial stands
expired (R116, notes/assumptions/16.md), and of one that does not show it, as WAITING; a STATUS that shows neither
crank nor claim removes it. An entry that becomes CRANKING so, within the station's own overlap window and with more
cranks than C, is a crossing: the station yields exactly where the peer is ahead (R114, R122), the pair being ranked
before the peer joins the crossing list (notes/assumptions/13.md). That a peer judged in this window before is judged
again is the model's choice (notes/assumptions/31.md). -/
def Obligations.StatusRepairsRecords : Prop :=
  ∀ (p : Params) (s : State) (src : UnitNo) (c : StatusContent), heard p src s → admitted src s →
    statusValid c = true →
    ∃ t e, exec (.status src c) s = .next t ∧ outputsFollow t
      ∧ Apart { s with
        link := { s.link with receive := .waitingIdle }, roster := t.roster, arb := t.arb } t
      ∧ entryOf src t.roster.entries = some e
      ∧ e.age = 0 ∧ e.status = some c ∧ e.lastCount = some c.crankCount
      ∧ (∀ serial, c.intent = some serial → ∃ i, e.intent = some i ∧ i.serial = serial)
      ∧ (c.intent = none → c.engine ≠ .layover → e.intent = none)
      ∧ (∀ d k, entryOf src s.roster.entries = some d → d.lastCount = some k → k ≠ c.crankCount →
          t.arb.rotation = toTail (.unit src) s.arb.rotation)
      ∧ (∀ d k, entryOf src s.roster.entries = some d → d.lastCount = some k → k = c.crankCount →
          t.arb.rotation = s.arb.rotation)
      ∧ (c.claim = none → ¬(c.engine = .stopping ∧ c.dest = some .prep) →
          claimOf (.unit src) t.arb.claims = none)
      ∧ (∀ d, c.claim = none → c.engine = .stopping → c.dest = some .prep →
          claimOf (.unit src) s.arb.claims = some d → d.state = .waiting →
          claimOf (.unit src) t.arb.claims = some d)
      ∧ (∀ l k, c.claim = some (l, k) → claimOf (.unit src) s.arb.claims = none →
          (∀ x ∈ s.arb.expired, x.unit = src → x.serial ≠ k) →
          claimOf (.unit src) t.arb.claims = some
            { who := .unit src, level := l, serial := k
              state := if showsCrank c then .cranking 0 else .waiting })
      ∧ (∀ l k d us, c.claim = some (l, k) → showsCrank c = true →
          claimOf (.unit src) s.arb.claims = some d → d.state = .cranking us →
          (k = d.serial ∨ (∀ x ∈ s.arb.expired, x.unit = src → x.serial ≠ k) →
            claimOf (.unit src) t.arb.claims = some { who := .unit src, level := l, serial := k
                                                      state := .cranking (if k = d.serial then us else 0) })
          ∧ (k ≠ d.serial → { unit := src, serial := k } ∈ s.arb.expired →
            claimOf (.unit src) t.arb.claims = some d))
      ∧ (∀ l k d, c.claim = some (l, k) → claimOf (.unit src) s.arb.claims = some d →
          (d.state = .waiting ∨ showsCrank c = false) →
          (∀ x ∈ s.arb.expired, x.unit = src → x.serial ≠ k) →
          claimOf (.unit src) t.arb.claims = some
            { who := .unit src, level := l, serial := k
              state := if showsCrank c then .cranking 0 else .waiting })
      ∧ (∀ d us, c.claim = none → claimOf (.unit src) s.arb.claims = some d → d.state = .cranking us →
          claimOf (.unit src) t.arb.claims = none)
      ∧ ∀ l k own w, c.claim = some (l, k) → showsCrank c = true →
          (∀ x ∈ s.arb.expired, x.unit = src → x.serial ≠ k) →
          (∀ d us, claimOf (.unit src) s.arb.claims = some d → d.state ≠ .cranking us) →
          (∀ d n, entryOf src s.roster.entries = some d → d.lastCount = some n → n = c.crankCount) →
          s.seq.engine = .starting .crank → s.arb.overlapTimer = some w →
          claimOf .own s.arb.claims = some own →
          let peer : Claim := { who := .unit src, level := l, serial := k, state := .cranking 0 }
          let claims := putClaim peer s.arb.claims
          let judged : Arbiter := { s.arb with claims, rotation := (joinOrRefresh src s).arb.rotation }
          ((claims.filter isCranking).length ≤ p.crank.maxCranking →
            t.seq.engine = .starting .crank ∧ t.arb.crossing = s.arb.crossing)
          ∧ (p.crank.maxCranking < (claims.filter isCranking).length →
            src ∈ t.arb.crossing
            ∧ (claimAhead p.unit judged peer own = false → t.seq.engine = .starting .crank)
            ∧ (claimAhead p.unit judged peer own = true → p.sense.stoppedSpeed ≤ s.meas.speed →
                t.seq.engine = .stopping .prep ∧ t.seq.keptSerial = some own.serial
                ∧ t.seq.crankCount = s.seq.crankCount ∧ attemptClosed .yielded s t
                ∧ (openLink s →
                    asked (.crankOff 4 (levelByte own.level) own.serial s.seq.crankCount) t)))

/-! ### Crank arbitration (Chapter 7) -/

/-- PEER_CRANK_LIMIT_EXPIRY and OVERLAP_WINDOW_EXPIRY (R116, R123): a peer too long CRANKING loses its entry and is
put in the expired list; the overlap timer stops at the overlap window. -/
def Obligations.CrankLimitsOfPeers : Prop :=
  ∀ (p : Params) (s : State) (us : Nat), s.reader.applied = some p →
    (∀ u c, claimOf (.unit u) s.arb.claims = some c → c.state = .cranking us →
      (p.crank.peerCrankLimit * 1000000 ≤ us →
        ∃ t, exec (.peerCrankLimitExpiry u) s = .next t
          ∧ claimOf (.unit u) t.arb.claims = none
          ∧ { unit := u, serial := c.serial } ∈ t.arb.expired
          ∧ t.arb.rotation = s.arb.rotation ∧ Apart { s with arb := t.arb } t ∧ outputsFollow t)
      ∧ (us < p.crank.peerCrankLimit * 1000000 → exec (.peerCrankLimitExpiry u) s = .next s))
    ∧ (s.arb.overlapTimer = some us →
      (p.crank.overlapWindow * 1000 ≤ us →
        exec .overlapWindowExpiry s = .next { s with arb := { s.arb with overlapTimer := none } })
      ∧ (us < p.crank.overlapWindow * 1000 → exec .overlapWindowExpiry s = .next s))

/-- R112 and R113: a CLAIM makes the peer's entry WAITING at its level and serial, but leaves a CRANKING entry of the
same serial CRANKING; a level above 3 is not taken. A WITHDRAW removes the entry of its serial only, and else
changes nothing. A serial in the expired list makes no entry (R116). -/
def Obligations.ClaimAndWithdraw : Prop :=
  ∀ (p : Params) (s : State) (src : UnitNo) (serial : Byte), heard p src s → admitted src s →
    (∀ l : Level, (∀ x ∈ s.arb.expired, x.unit = src → x.serial ≠ serial) →
      ∃ t c, exec (.claim src (levelByte l) serial) s = .next t ∧ outputsFollow t
        ∧ Apart { s with
          link := { s.link with receive := .waitingIdle }, roster := t.roster, arb := t.arb } t
        ∧ claimOf (.unit src) t.arb.claims = some c ∧ c.level = l ∧ c.serial = serial
        ∧ ((∀ d us, claimOf (.unit src) s.arb.claims = some d → d.state = .cranking us →
              d.serial ≠ serial) → c.state = .waiting)
        ∧ (∀ d us, claimOf (.unit src) s.arb.claims = some d → d.state = .cranking us →
              d.serial = serial → c.state = .cranking us)
        ∧ ∀ v, v ≠ src → claimOf (.unit v) t.arb.claims = claimOf (.unit v) s.arb.claims)
    ∧ (∀ l : Level, claimOf (.unit src) s.arb.claims = none →
      { unit := src, serial } ∈ s.arb.expired →
      ∃ t, exec (.claim src (levelByte l) serial) s = .next t
        ∧ claimOf (.unit src) t.arb.claims = none)
    ∧ (∀ level : Byte, 3 < level.toNat →
      ∃ t, exec (.claim src level serial) s = .next t
        ∧ ∀ v, claimOf (.unit v) t.arb.claims = claimOf (.unit v) s.arb.claims)
    ∧ (∃ t, exec (.withdraw src serial) s = .next t ∧ outputsFollow t
        ∧ Apart { s with
          link := { s.link with receive := .waitingIdle }, roster := t.roster, arb := t.arb } t
        ∧ claimOf (.unit src) t.arb.claims
            = (claimOf (.unit src) s.arb.claims).filter (fun d => d.serial != serial)
        ∧ ∀ v, v ≠ src → claimOf (.unit v) t.arb.claims = claimOf (.unit v) s.arb.claims)

/-- R114, R122, R123: a CRANK-ON makes the peer's entry CRANKING from 0, but one that stands CRANKING with the same
serial keeps its time. Outside the station's own overlap window no more follows; within it, with more cranks than C,
the peer is a crossed one, and the station yields its crank, keeping its serial, exactly where the peer's entry is
ahead; at rest it goes straight on to PREP and claims with that serial again. That an entry of another serial is
judged for a crossing, and that the pair is ranked before the peer joins the crossing list, is deduced
(notes/assumptions/13.md); that a peer judged in this window before is judged again is the model's choice
(notes/assumptions/31.md). -/
def Obligations.CrankOnMayYield : Prop :=
  ∀ (p : Params) (s : State) (src : UnitNo) (l : Level) (serial : Byte), heard p src s →
    admitted src s → (∀ x ∈ s.arb.expired, x.unit = src → x.serial ≠ serial) →
    let heardState (t : State) : State :=
      { s with link := { s.link with receive := .waitingIdle }, roster := t.roster, arb := t.arb }
    (∀ d us, claimOf (.unit src) s.arb.claims = some d → d.state = .cranking us → d.serial = serial →
      ∃ t, exec (.crankOn src (levelByte l) serial) s = .next t ∧ outputsFollow t
        ∧ Apart (heardState t) t ∧ t.arb.crossing = s.arb.crossing
        ∧ claimOf (.unit src) t.arb.claims
            = some { who := .unit src, level := l, serial, state := .cranking us }
        ∧ (Quiet p s → t.seq.engine = s.seq.engine))
    ∧ ((∀ d us, claimOf (.unit src) s.arb.claims = some d → d.state = .cranking us →
        d.serial ≠ serial) →
    let peer : Claim := { who := .unit src, level := l, serial, state := .cranking 0 }
    ∃ t, exec (.crankOn src (levelByte l) serial) s = .next t ∧ outputsFollow t
      ∧ Apart (heardState t) t
      ∧ claimOf (.unit src) t.arb.claims = some peer
      ∧ (s.seq.engine ≠ .starting .crank ∨ s.arb.overlapTimer = none →
          t.arb.crossing = s.arb.crossing)
      ∧ ∀ own w, s.seq.engine = .starting .crank → s.arb.overlapTimer = some w →
          claimOf .own s.arb.claims = some own →
          let claims := putClaim peer s.arb.claims
          let judged : Arbiter := { s.arb with
            claims, rotation := (joinOrRefresh src s).arb.rotation }
          ((claims.filter isCranking).length ≤ p.crank.maxCranking →
            t.seq.engine = .starting .crank ∧ t.arb.crossing = s.arb.crossing)
          ∧ (p.crank.maxCranking < (claims.filter isCranking).length →
            src ∈ t.arb.crossing
            ∧ (claimAhead p.unit judged peer own = false →
                t.seq.engine = .starting .crank)
            ∧ (claimAhead p.unit judged peer own = true →
                t.seq.crankCount = s.seq.crankCount ∧ t.seq.attempts = s.seq.attempts
                ∧ (openLink s →
                    asked (.crankOff 4 (levelByte own.level) own.serial s.seq.crankCount) t)
                ∧ (p.sense.stoppedSpeed ≤ s.meas.speed →
                    t.seq.engine = .stopping .prep ∧ t.seq.keptSerial = some own.serial
                    ∧ claimOf .own t.arb.claims = none ∧ attemptClosed .yielded s t ∧ allOff t)
                ∧ (s.meas.speed < p.sense.stoppedSpeed → 0 < p.crank.claimSettle →
                    t.seq.engine = .starting .prep ∧ t.seq.keptSerial = none
                    ∧ ∃ c, claimOf .own t.arb.claims = some c ∧ c.state = .waiting
                        ∧ c.serial = own.serial))))

/-- R115, R103: a CRANK-OFF shows the peer's crank count, whose change sends it to the rotation's tail; YIELDED
returns its entry to WAITING and every other result removes it. -/
def Obligations.CrankOffEndsPeerCrank : Prop :=
  ∀ (p : Params) (s : State) (src : UnitNo) (l : Level) (result serial count : Byte), heard p src s →
    admitted src s → result.toNat ≤ 4 →
    ∃ t e, exec (.crankOff src result (levelByte l) serial count) s = .next t ∧ outputsFollow t
      ∧ Apart { s with
        link := { s.link with receive := .waitingIdle }, roster := t.roster, arb := t.arb } t
      ∧ entryOf src t.roster.entries = some e ∧ e.lastCount = some count ∧ e.age = 0
      ∧ (result = 4 → claimOf (.unit src) t.arb.claims
          = some { who := .unit src, level := l, serial, state := .waiting })
      ∧ (result ≠ 4 → claimOf (.unit src) t.arb.claims = none)
      ∧ (∀ d, entryOf src s.roster.entries = some d →
          t.arb.rotation = (if d.lastCount = some count then s.arb.rotation
            else toTail (.unit src) s.arb.rotation))

/-! ### Make-up (Chapter 8) -/

/-- R127 to R131: what a run of the make-up calculator gives. Its own figures are those of the table; the shortfall,
the headroom of the consist and the peers counted are drawn from the roster's status parts; the extra is the share of
the shortfall; and the make-up row is the highest one within the extra. So the extra never exceeds the own headroom,
the make-up row lies above the demand row, within the make-up limit, the available row and row 9, and the shortfall
of 7 peers is at most 7000. That every step leaves the result of such a run is part of OutputsFollowEveryStep. -/
def Obligations.MakeUpStaysWithinLimits : Prop :=
  ∀ (p : Params) (s : State),
    let m := makeUpRun p s
    let t := tableInForce p s
    let h := (demandInForce s).row
    let v := s.prot.available
    let gives := s.seq.engine = .running ∧ isolated s = false
    (h.val < 2 → m.rated = 0 ∧ m.avail = 0 ∧ m.headroom = 0)
    ∧ (2 ≤ h.val → m.rated = powerOf t h
        ∧ (gives → linkSilent s = false → m.avail = powerOf t (if h.val ≤ v.val then h else v))
        ∧ (¬gives ∨ linkSilent s = true → m.avail = 0)
        ∧ (∀ top : Row, gives → h.val ≤ v.val → p.step.makeUpEnable = true →
            top.val = min (min (h.val + p.step.makeUpLimit) 9) v.val →
            m.headroom = powerOf t top - powerOf t h)
        ∧ (¬gives ∨ v.val < h.val ∨ p.step.makeUpEnable = false → m.headroom = 0))
    ∧ m.shortfall = (s.roster.entries.map fun e => match e.status with
        | some c => c.rated - c.avail
        | none => 0).sum
    ∧ m.total = m.headroom + (s.roster.entries.map fun e => match e.status with
        | some c => c.headroom
        | none => 0).sum
    ∧ m.counted = (s.roster.entries.filter (·.status.isSome)).map (·.unit)
    ∧ m.extra = (if p.step.makeUpEnable = true ∧ 1 ≤ p.step.makeUpLimit ∧ 2 ≤ h.val ∧ 0 < m.shortfall
          ∧ 0 < m.total ∧ 0 < m.headroom then min m.headroom (m.shortfall * m.headroom / m.total) else 0)
    ∧ m.extra ≤ m.headroom
    ∧ (∀ r, m.row = some r →
        2 ≤ h.val ∧ h.val < r.val ∧ r.val ≤ h.val + p.step.makeUpLimit ∧ r.val ≤ v.val
        ∧ powerOf t r ≤ powerOf t h + m.extra
        ∧ 0 < m.shortfall ∧ 0 < m.headroom
        ∧ ∀ x : Row, r.val < x.val → x.val ≤ h.val + p.step.makeUpLimit → x.val ≤ v.val →
            powerOf t h + m.extra < powerOf t x)
    ∧ (m.row = none → m.extra = 0 ∨ ∀ x : Row, h.val < x.val → x.val ≤ h.val + p.step.makeUpLimit →
        x.val ≤ v.val → powerOf t h + m.extra < powerOf t x)
    ∧ (s.roster.entries.length ≤ 7 → (∀ e ∈ s.roster.entries, ∀ c, e.status = some c →
        c.rated ≤ 1000 ∧ c.headroom ≤ 1000) →
        m.shortfall ≤ 7000 ∧ m.total ≤ 7000 + m.headroom)

/-! ### Layover (Chapter 9) -/

/-- LAYOVER_IDLE_TIME_EXPIRY (R135, R137): at the idle time the running idle timer is reached, and with that the
conditions are judged; an eligible station with no step due announces its intent with the next serial where the
quota holds; short of the time nothing changes. -/
def Obligations.IdleTimeAnnouncesIntent : Prop :=
  ∀ (p : Params) (s : State) (us : Nat), s.reader.applied = some p → s.layover.idle = .running us →
    (p.layover.idleTime * 60000000 ≤ us →
      ∃ t, exec .layoverIdleTimeExpiry s = .next t
        ∧ Judged p { s with layover := { s.layover with idle := .reached } } t
        ∧ (s.layover.eligible = true → eligibleNow p s = true →
            s.demand.ownRecord = ownRecordNow p s → s.layover.phase = .none →
            targetAfter p s = s.step.current →
            t.seq.engine = .running ∧ t.step.current = s.step.current
            ∧ t.layover.idle = .reached ∧ t.layover.eligible = true
            ∧ (p.layover.quota ≤ runningPeers p s →
                t.layover.phase = .announced ∧ t.layover.ownIntent = some (s.layover.serial + 1)
                ∧ t.layover.serial = s.layover.serial + 1 ∧ t.layover.holdTimer = some 0
                ∧ (openLink s → asked (.layoverIntent (s.layover.serial + 1)) t))
            ∧ (runningPeers p s < p.layover.quota → t.layover.phase = .none)))
    ∧ (us < p.layover.idleTime * 60000000 → exec .layoverIdleTimeExpiry s = .next s)

/-- INTENT_HOLD_EXPIRY (R139, R138): with eligibility and quota holding the intent is committed and the station goes
STOPPING toward LAYOVER; with either failing the intent is cancelled and LAYOVER-CANCEL asked for. -/
def Obligations.IntentHoldCommitsOrCancels : Prop :=
  ∀ (p : Params) (s : State) (us : Nat) (serial : Byte), s.reader.applied = some p →
    s.layover.phase = .announced → s.layover.ownIntent = some serial →
    s.layover.holdTimer = some us →
    (p.layover.intentHold * 1000 ≤ us → eligibleNow p s = true →
      p.layover.quota ≤ runningPeers p s → p.sense.stoppedSpeed ≤ s.meas.speed →
      ∃ t, exec .intentHoldExpiry s = .next t ∧ t.seq.engine = .stopping .layover
        ∧ t.layover.phase = .committed ∧ t.layover.ownIntent = some serial
        ∧ t.step.current = none ∧ allOff t ∧ Apart s t)
    ∧ (p.layover.intentHold * 1000 ≤ us → Quiet p s →
      (eligibleNow p s = false ∨ runningPeers p s < p.layover.quota) →
      ∃ t, exec .intentHoldExpiry s = .next t ∧ t.seq.engine = s.seq.engine
        ∧ t.layover.phase = .none ∧ t.layover.ownIntent = none ∧ t.layover.holdTimer = none
        ∧ (openLink s → asked (.layoverCancel serial) t) ∧ Apart s t ∧ outputsFollow t)
    ∧ (us < p.layover.intentHold * 1000 → exec .intentHoldExpiry s = .next s)

/-! ### Apparatus lines (Chapter 10) -/

/-- SENSE_RAW_CHANGE and SENSE_DEBOUNCE_TIMEOUT (R147, R146): a sense return is debounced as an input line is, from
reset on, in a station whose read FAILED too; the sensed state stays undetermined until handover and is from then on
the debounced level read with the sense polarity. That the expiry short of 20 ms, or with no difference, changes
nothing is the model's choice (notes/assumptions/3.md). -/
def Obligations.SenseIsDebounced : Prop :=
  ∀ (s : State) (out : Output) (level : Bool),
    let d := (outputOf s.lines out).sense
    (∃ t, exec (.senseRawChange out level) s = .next t ∧ t = { s with lines := t.lines }
      ∧ outputOf t.lines out = { outputOf s.lines out with
          sense := if d.raw = level then d else { d with raw := level, stable := 0 } }
      ∧ ∀ o, o ≠ out → outputOf t.lines o = outputOf s.lines o)
    ∧ (20000 ≤ d.stable → d.settled ≠ some d.raw →
      ∃ t, exec (.senseDebounceTimeout out) s = .next t
        ∧ (outputOf t.lines out).sense = { d with settled := some d.raw }
        ∧ (∀ o, o ≠ out → (outputOf t.lines o).sense = (outputOf s.lines o).sense)
        ∧ (∀ o, (outputOf t.lines o).last = (outputOf s.lines o).last)
        ∧ (s.reader.applied = none → t = { s with lines := t.lines }
            ∧ (∀ o, sensed t o = none ∧ (outputOf t.lines o).command = (outputOf s.lines o).command
                ∧ (outputOf t.lines o).mismatch = (outputOf s.lines o).mismatch
                ∧ (outputOf t.lines o).present = (outputOf s.lines o).present))
        ∧ (∀ p, s.reader.applied = some p →
            sensed t out = some (levelOn (outputParams p.lines out).sensePolarity d.raw)
            ∧ (∀ o, o ≠ out → sensed t o = sensed s o)
            ∧ ((outputOf t.lines out).command
                  = levelOn (outputParams p.lines out).sensePolarity d.raw →
                (outputOf t.lines out).mismatch = none ∧ (outputOf t.lines out).present = .none))
        ∧ Apart { s with lines := t.lines } t)
    ∧ (d.stable < 20000 ∨ d.settled = some d.raw → exec (.senseDebounceTimeout out) s = .next s)

/-- MISMATCH_TIME_EXPIRY (R150, R151): at the mismatch time the fault of the side the command stands on is raised
and kept as the last fault; where line and command go on disagreeing it stands as the present fault, LINE-FAULT is
set and the mismatch timer stopped. CRANK-VALVE and RACK-ENABLE sensed on trip the station, CRANK-VALVE sensed off
in CRANK fails the attempt NO-ROLL; the other faults stop nothing, and LOAD-PERMIT sensed on brings the ground cap
(R47). -/
def Obligations.MismatchRaisesFault : Prop :=
  ∀ (p : Params) (s : State) (out : Output) (us : Nat), s.reader.applied = some p →
    (outputOf s.lines out).mismatch = some us →
    ((outputParams p.lines out).mismatch * 1000 ≤ us →
      ∃ t, exec (.mismatchTimeExpiry out) s = .next t ∧ outputsFollow t
        ∧ Apart { s with lines := t.lines } t
        ∧ (outputOf t.lines out).last
            = (if (outputOf s.lines out).command then .sensedOff else .sensedOn)
        ∧ (∀ o, o ≠ out → (outputOf t.lines o).last = (outputOf s.lines o).last)
        ∧ ((outputOf s.lines out).command = false → isInhibited s = false →
            (out = .crankValve → t.seq.engine = tripEngine p s .valve
              ∧ ∃ r, Tripped r t ∧ r.reason = .valve)
            ∧ (out = .rackEnable → t.seq.engine = tripEngine p s .rack
              ∧ ∃ r, Tripped r t ∧ r.reason = .rack))
        ∧ ((outputOf s.lines out).command = true → out = .crankValve →
            s.seq.engine = .starting .crank → t.seq.engine = failedEngine p s s.meas.speed
              ∧ attemptClosed .noRoll s t ∧ failedClaim s t)
        ∧ ((out = .fuelPump ∨ out = .prelube ∨ out = .loadPermit
              ∨ out = .rackEnable ∧ (outputOf s.lines out).command = true) →
            Quiet p s → t.seq.engine = s.seq.engine ∧ t.arb = s.arb)
        ∧ (Quiet p s → (outputOf s.lines out).command = resolvedCommand s out →
            sensedOn s out ≠ (outputOf s.lines out).command →
            (out = .crankValve → (outputOf s.lines out).command = false) →
            (out = .loadPermit → (outputOf s.lines out).command = false
              ∧ (isRunning s = false ∨ s.prot.tripLatch = true ∨ lineOn p s .groundRelay = true
                  ∨ isolated s = true)) →
            (outputOf t.lines out).command = (outputOf s.lines out).command
            ∧ (outputOf t.lines out).present
                = (if (outputOf s.lines out).command then .sensedOff else .sensedOn)
            ∧ (outputOf t.lines out).mismatch = none ∧ lineFault t = true
            ∧ t.lines.faultLamp = true
            ∧ (out = .loadPermit → t.prot.groundCap = some 1 ∧ ground t = true
                ∧ t.prot.available ≤ 1)))
    ∧ (us < (outputParams p.lines out).mismatch * 1000 →
      exec (.mismatchTimeExpiry out) s = .next s)

/-! ### The consist link (Chapter 11) -/

/-- STATUS_PERIOD_EXPIRY and LINE_IDLE (R66, R156, R158, R159): at the status period the timer starts again from 0
and STATUS is queued, with the own DEMAND ahead of it in OWN. At the idle line the frame in the buffer begins its
next try, or else the head of the queue its first, with the content it has at this moment; in SILENT nothing is
sent. A queue that is not empty keeps its other frames at the status period. A STATUS shows the values of this moment
(R40, R127, section 13.1), a REPLY the record asked for (R39, R57, R106, R154, R162), and what is sent passes the
field checks (R170). That the receive state reads idle while the own frame is on the line, and that an undetermined
sense is shown as such, are the model's (notes/assumptions/29.md, notes/assumptions/15.md). -/
def Obligations.StatusIsQueuedAndFramesBegin : Prop :=
  ∀ (p : Params) (s : State), s.reader.applied = some p →
    (∀ us, s.link.statusTimer = some us → p.link.statusPeriod * 1000 ≤ us → openLink s →
      exec .statusPeriodExpiry s = .next { s with link := { s.link with
        statusTimer := some 0
        queue := if s.demand.source = .own then
            [.made (.demand (rowByte (some s.demand.ownRecord.row))
               (markByte s.demand.ownRecord.centred) (markByte s.demand.ownRecord.brake)
               (BitVec.ofNat 8 s.demand.ownRecord.serial.val)), .status]
          else [.status] } })
    ∧ (∀ us, s.link.statusTimer = some us → us < p.link.statusPeriod * 1000 →
      exec .statusPeriodExpiry s = .next s)
    ∧ (∀ f rest, s.link.state = .up → s.link.buffer = none → s.link.queue = f :: rest →
      exec .lineIdle s = .next { s with link := { s.link with
        queue := rest, receive := .idle
        buffer := some { frame := f, content := formContent p s f, tries := 1, onLine := true } } })
    ∧ (∀ b, s.link.state = .up → s.link.buffer = some b → b.onLine = false →
      exec .lineIdle s = .next { s with link := { s.link with
        receive := .idle
        buffer := some { b with content := formContent p s b.frame, onLine := true } } })
    ∧ (s.link.state = .silent ∨ s.link.state = .up ∧ s.link.buffer = none ∧ s.link.queue = [] →
      exec .lineIdle s = .next { s with link := { s.link with receive := .idle } })
    ∧ (∀ us, s.link.statusTimer = some us → p.link.statusPeriod * 1000 ≤ us → s.link.state = .up →
      queueSound s.link → s.link.queue.length < 7 →
      let demand := TxFrame.made (.demand (rowByte (some s.demand.ownRecord.row))
        (markByte s.demand.ownRecord.centred) (markByte s.demand.ownRecord.brake)
        (BitVec.ofNat 8 s.demand.ownRecord.serial.val))
      ∃ t, exec .statusPeriodExpiry s = .next t
        ∧ t = { s with link := { s.link with statusTimer := some 0, queue := t.link.queue } }
        ∧ .status ∈ t.link.queue ∧ (s.demand.source = .own → demand ∈ t.link.queue)
        ∧ (∀ f ∈ s.link.queue, txKind f ≠ 9 → (s.demand.source = .own → txKind f ≠ 5) →
            f ∈ t.link.queue)
        ∧ ∀ f ∈ t.link.queue, f = .status ∨ s.demand.source = .own ∧ f = demand ∨ f ∈ s.link.queue)
    ∧ (∃ c, formContent p s .status = .status c ∧ StatusShows p s c)
    ∧ (∀ dest kind part, formContent p s (.reply dest kind part)
        = .reply (BitVec.ofNat 8 dest.val :: recordShown s kind part))
    ∧ (∀ f, (∀ r, powerOf (tableInForce p s) r ≤ 1000) → rosterSound s → attemptSound s →
      (∀ c, f = .made c → contentValid c = true) → contentValid (formContent p s f) = true)

/-- ARBITRATION_LOST, TRANSMIT_ERROR and FRAME_SENT_IN_FULL (R156, R158, R109): arbitration lost keeps the frame and
its try count; an error counts a try and at the third discards the frame; a frame sent in full empties the buffer,
and the first one places the station at its rotation's tail. -/
def Obligations.TransmitOutcomes : Prop :=
  ∀ (p : Params) (s : State) (b : TxBuffer), s.reader.applied = some p → s.link.buffer = some b →
    b.onLine = true →
    exec .arbitrationLost s = .next { s with link := { s.link with
      buffer := some { b with onLine := false }, receive := .receiving } }
    ∧ (b.tries < 3 → exec .transmitError s = .next { s with link := { s.link with
        buffer := some { b with tries := b.tries + 1, onLine := false }, receive := .receiving } })
    ∧ (3 ≤ b.tries → exec .transmitError s = .next { s with link := { s.link with
        buffer := none, receive := .receiving } })
    ∧ ∃ t, exec .frameSentInFull s = .next t ∧ t.link.buffer = none
        ∧ t.link.receive = .waitingIdle ∧ t.arb.placed = true
        ∧ t.arb.rotation
            = (if s.arb.placed then s.arb.rotation else toTail .own s.arb.rotation)
        ∧ Judged p { s with link := { t.link with queue := s.link.queue }
                            arb := { s.arb with rotation := t.arb.rotation, placed := true
                                                crossing := t.arb.crossing } } t

/-- QUERY, REPLY and DISCARDED_FRAME (R160, R162): a QUERY for the station is answered to its sender; one for another
station, a REPLY and a frame that fails a check touch no block, and no REPLY joins the queue for them; a REPLY whose
own length fails ends with its frame. -/
def Obligations.AddressedFrames : Prop :=
  ∀ (p : Params) (s : State) (src : UnitNo), heard p src s →
    let ended : State := { s with link := { s.link with receive := .waitingIdle } }
    (∀ dest kind part : Byte,
      ∃ t, exec (.query src dest kind part) s = .next t ∧ Judged p ended t
        ∧ (dest.toNat = p.unit.val → openLink s → TxFrame.reply src kind part ∈ t.link.queue)
        ∧ (dest.toNat ≠ p.unit.val →
            ∀ d k n, TxFrame.reply d k n ∈ t.link.queue → TxFrame.reply d k n ∈ s.link.queue))
    ∧ (∀ payload, contentValid (.reply payload) = true →
      ∃ t, exec (.reply src payload) s = .next t ∧ Judged p ended t
        ∧ ∀ d k n, TxFrame.reply d k n ∈ t.link.queue → TxFrame.reply d k n ∈ s.link.queue)
    ∧ (∀ payload, contentValid (.reply payload) = false → exec (.reply src payload) s = .next ended)
    ∧ (∀ bits, receiveLine bits = none → exec (.discardedFrame bits) s = .next ended)

/-- R161, R38, R133: a valid frame that carries the own unit number, whatever its kind, taken in UP, makes the
station link-silent: its queue and buffer are emptied, its status timer and its intent end, and its engine state goes
where a duplicate sends it, from PREP at whatever speed. Taken in SILENT it changes nothing more. -/
def Obligations.DuplicateSilencesStation : Prop :=
  ∀ (p : Params) (s : State) (c : Content), s.reader.applied = some p → contentValid c = true →
    (s.link.state = .silent →
      ∃ t, exec (frameCommand p.unit c) s = .next t
        ∧ Judged p { s with link := { s.link with receive := .waitingIdle } } t)
    ∧ (s.link.state = .up →
    ∃ t, exec (frameCommand p.unit c) s = .next t ∧ outputsFollow t
      ∧ t.link = { state := .silent, queue := [], buffer := none, statusTimer := none
                   receive := .waitingIdle }
      ∧ t.layover.ownIntent = none ∧ t.layover.phase = .none ∧ Apart { s with link := t.link } t
      ∧ t.prot.record = s.prot.record ∧ t.prot.tripLatch = s.prot.tripLatch
      ∧ (s.seq.engine = .stopped ∨ s.seq.engine = .retryWait ∨ s.seq.engine = .layover →
          t.seq.engine = .inhibited .duplicate)
      ∧ (s.seq.engine = .running → t.seq.engine = .running)
      ∧ (∀ r, s.seq.engine = .lockedOut r → t.seq.engine = .lockedOut r)
      ∧ (∀ phase, s.seq.engine = .starting phase →
          t.seq.engine = (if phase = .prep ∨ atRest p s = true then .inhibited .duplicate
            else .stopping .stopped)
          ∧ t.seq.attempts = 0 ∧ attemptClosed .stopped s t ∧ claimOf .own t.arb.claims = none)
      ∧ (∀ d, s.seq.engine = .stopping d →
          t.seq.keptSerial = none
          ∧ (atRest p s = false → t.seq.engine = .stopping (match d with
              | .lockedOut r => .lockedOut r
              | _ => .stopped))
          ∧ (atRest p s = true → t.seq.engine = (match d with
              | .lockedOut r => .lockedOut r
              | _ => .inhibited .duplicate))))

/-! ### Frames on the line (Chapter 13) -/

/-- R156, R169, R170: the bits a station sends for a frame that passes the field checks are read back by the receive
checks as the same sender and the same content. -/
def Obligations.FrameReadsBack : Prop :=
  ∀ (src : UnitNo) (c : Content), contentValid c = true →
    receiveLine (frameLine (frameOfContent src c)) = some (src, c)

/-- R157: a request leaves the transmit queue with at most 8 frames, one of a kind, in the order of their
identifiers. A frame of its kind is replaced. Otherwise the frame it cancels goes (WITHDRAW and CLAIM, LAYOVER-CANCEL
and LAYOVER-INTENT, each the other), and with room then every other frame stays and the new one joins; in a queue
still full, the new frame joins in the place of the last one where its identifier is lower, and is discarded where it
is not. -/
def Obligations.QueueKeepsItsOrder : Prop :=
  ∀ (f : TxFrame) (q : List TxFrame), q.length ≤ 8 →
    q.Pairwise (fun a b => txKind a < txKind b) →
    let cancels (g : TxFrame) : Prop :=
      (txKind f, txKind g) ∈ [(4, 3), (3, 4), (8, 7), (7, 8)]
    (enqueue f q).length ≤ 8 ∧ (enqueue f q).Pairwise (fun a b => txKind a < txKind b)
    ∧ (∀ g ∈ enqueue f q, g = f ∨ g ∈ q)
    ∧ ((∀ g ∈ q, txKind f ≤ txKind g) → f ∈ enqueue f q)
    ∧ (q.length < 8 → f ∈ enqueue f q)
    ∧ ((∃ g ∈ q, txKind g = txKind f) →
        f ∈ enqueue f q ∧ ∀ g ∈ q, txKind g ≠ txKind f → g ∈ enqueue f q)
    ∧ ((∀ g ∈ q, txKind g ≠ txKind f) →
        (∀ g ∈ q, cancels g → g ∉ enqueue f q)
        ∧ (q.length < 8 ∨ (∃ g ∈ q, cancels g) →
            f ∈ enqueue f q ∧ ∀ g ∈ q, ¬cancels g → g ∈ enqueue f q)
        ∧ (q.length = 8 → (∀ g ∈ q, ¬cancels g) → ∀ last, q.getLast? = some last →
            (txKind f < txKind last → f ∈ enqueue f q ∧ last ∉ enqueue f q
              ∧ ∀ g ∈ q, g ≠ last → g ∈ enqueue f q)
            ∧ (txKind last < txKind f → enqueue f q = q)))

/-! ### Invariants -/

/-- In every state a step leads to, whatever the command and wherever the station stood, as long as it was so before:
each on/off output carries its resolved command, both duties are those of the row and the state, and the lamps show
their conditions (R148, R149, R153); what the blocks have judged stands, timers, make-up result, target, LOAD-PERMIT
command, eligibility and standing level (`Standing`: R30, R50, R51, R77, R78, R89, R92, R132, R134, R136, R142); and an
output that agrees with its sense return has neither mismatch timer nor present fault, one that disagrees exactly one
of them (R150, R152). That all conditions are judged at every command, the make-up result among them, also where the
station goes link-silent, and that an undetermined sense is compared as off, are the model's
(notes/assumptions/6.md, notes/assumptions/17.md, notes/assumptions/32.md, notes/assumptions/15.md). -/
def Obligations.OutputsFollowEveryStep : Prop :=
  ∀ s t : State, readerSound s → step s = .next t →
    (outputsFollow s → outputsFollow t)
    ∧ ((∀ p, s.reader.applied = some p → Standing p s) → ∀ p, t.reader.applied = some p → Standing p t)
    ∧ (linesSound s → linesSound t)

/-- R96, R108, R157, R161, R163: every step keeps the roster in unit order with at most 7 entries, none of them the
station's, the rotation with each unit once, and the transmit queue in order and empty unless the link is UP, every
frame that waits in it with its content, or in the buffer, passing the field checks (R169, R170). -/
def Obligations.ListsStaySound : Prop :=
  ∀ s t : State, readerSound s → rosterSound s → queueSound s.link → step s = .next t →
    readerSound t ∧ rosterSound t ∧ queueSound t.link ∧ (framesSound s.link → framesSound t.link)

/-- Every step keeps at most one claim for each unit, and the own claim exactly while the station is in PREP, WAITING,
or in CRANK, CRANKING (R110, R111); a roster entry behind every peer's claim, crossing and expired pair, and so at
most 8 claims (R97, R117); the attempt record in step with the phase (R39); and the intent, its hold and the idle
timer together (R133, R135, R137 to R140). -/
def Obligations.OwnClaimStaysSound : Prop :=
  ∀ s t : State, readerSound s → step s = .next t →
    (ownClaimSound s → ownClaimSound t)
    ∧ (rosterSound s → arbiterSound s → arbiterSound t)
    ∧ (rosterSound s → arbiterSound s → ownClaimSound s → t.arb.claims.length ≤ 8)
    ∧ (attemptSound s → attemptSound t)
    ∧ (layoverSound s → layoverSound t)

/-- The invariants hold right after reset. -/
def Obligations.InvariantsHoldAtReset : Prop :=
  readerSound State.reset ∧ outputsFollow State.reset ∧ rosterSound State.reset
    ∧ queueSound State.reset.link ∧ framesSound State.reset.link ∧ ownClaimSound State.reset
    ∧ arbiterSound State.reset ∧ attemptSound State.reset ∧ layoverSound State.reset
    ∧ linesSound State.reset ∧ ∀ p, State.reset.reader.applied = some p → Standing p State.reset
end

