-- ==== Sys2Proof/Laws/State.lean ====
section
/-! SUPPORT. State.lean: what each named update of the state leaves alone, one lemma a field, so that no later proof
unfolds a record update. -/

namespace Sys2Proof.Machine

variable (s : State)

/-! ### The queue of commands -/

@[simp] theorem withPending_pending (r : List Instr) : (s.withPending r).pending = r := rfl
@[simp] theorem withPending_reader (r : List Instr) : (s.withPending r).reader = s.reader := rfl
@[simp] theorem withPending_meas (r : List Instr) : (s.withPending r).meas = s.meas := rfl
@[simp] theorem withPending_demand (r : List Instr) : (s.withPending r).demand = s.demand := rfl
@[simp] theorem withPending_seq (r : List Instr) : (s.withPending r).seq = s.seq := rfl
@[simp] theorem withPending_prot (r : List Instr) : (s.withPending r).prot = s.prot := rfl
@[simp] theorem withPending_step (r : List Instr) : (s.withPending r).step = s.step := rfl
@[simp] theorem withPending_roster (r : List Instr) : (s.withPending r).roster = s.roster := rfl
@[simp] theorem withPending_arb (r : List Instr) : (s.withPending r).arb = s.arb := rfl
@[simp] theorem withPending_layover (r : List Instr) : (s.withPending r).layover = s.layover := rfl
@[simp] theorem withPending_lines (r : List Instr) : (s.withPending r).lines = s.lines := rfl
@[simp] theorem withPending_link (r : List Instr) : (s.withPending r).link = s.link := rfl

/-! ### A request for a frame changes the transmit queue alone -/

section Request
variable (f : TxFrame)

@[simp] theorem requestFrame_reader : (requestFrame f s).reader = s.reader := by
  unfold requestFrame; split <;> rfl
@[simp] theorem requestFrame_meas : (requestFrame f s).meas = s.meas := by
  unfold requestFrame; split <;> rfl
@[simp] theorem requestFrame_demand : (requestFrame f s).demand = s.demand := by
  unfold requestFrame; split <;> rfl
@[simp] theorem requestFrame_seq : (requestFrame f s).seq = s.seq := by
  unfold requestFrame; split <;> rfl
@[simp] theorem requestFrame_prot : (requestFrame f s).prot = s.prot := by
  unfold requestFrame; split <;> rfl
@[simp] theorem requestFrame_step : (requestFrame f s).step = s.step := by
  unfold requestFrame; split <;> rfl
@[simp] theorem requestFrame_roster : (requestFrame f s).roster = s.roster := by
  unfold requestFrame; split <;> rfl
@[simp] theorem requestFrame_arb : (requestFrame f s).arb = s.arb := by
  unfold requestFrame; split <;> rfl
@[simp] theorem requestFrame_makeUp : (requestFrame f s).makeUp = s.makeUp := by
  unfold requestFrame; split <;> rfl
@[simp] theorem requestFrame_layover : (requestFrame f s).layover = s.layover := by
  unfold requestFrame; split <;> rfl
@[simp] theorem requestFrame_lines : (requestFrame f s).lines = s.lines := by
  unfold requestFrame; split <;> rfl
@[simp] theorem requestFrame_choices : (requestFrame f s).choices = s.choices := by
  unfold requestFrame; split <;> rfl
@[simp] theorem requestFrame_pending : (requestFrame f s).pending = s.pending := by
  unfold requestFrame; split <;> rfl

/-- A request taken in UP enters the queue under R157; in DOWN and SILENT none is taken. -/
theorem requestFrame_link :
    (requestFrame f s).link
      = { s.link with queue := if s.link.state = .up then enqueue f s.link.queue
                               else s.link.queue } := by
  unfold requestFrame; split <;> simp_all

@[simp] theorem requestFrame_link_state : (requestFrame f s).link.state = s.link.state := by
  rw [requestFrame_link]
@[simp] theorem requestFrame_link_buffer : (requestFrame f s).link.buffer = s.link.buffer := by
  rw [requestFrame_link]
@[simp] theorem requestFrame_link_statusTimer :
    (requestFrame f s).link.statusTimer = s.link.statusTimer := by rw [requestFrame_link]
@[simp] theorem requestFrame_link_receive : (requestFrame f s).link.receive = s.link.receive := by
  rw [requestFrame_link]

end Request

/-! ### Measurements and lines -/

@[simp] theorem setGate_gate (g : Gate) : (setGate g s).meas.gate = g := rfl
@[simp] theorem setGate_speed (g : Gate) : (setGate g s).meas.speed = s.meas.speed := rfl
@[simp] theorem completeGate_speed (p : Params) :
    (completeGate p s).meas.speed = gateSpeed p.sense.teeth p.sense.gate s.meas.gate.counter := rfl
@[simp] theorem abandonGate_gate : (abandonGate s).meas.gate = idleGate s.meas.gate := rfl
@[simp] theorem abandonGate_speed : (abandonGate s).meas.speed = 0 := rfl
@[simp] theorem abandonGate_stalled : (abandonGate s).meas.stalled = true := rfl
@[simp] theorem compareSpeed_lastSpeed : (compareSpeed s).prot.lastSpeed = s.meas.speed := rfl
@[simp] theorem compareSpeed_meas : (compareSpeed s).meas = s.meas := rfl
@[simp] theorem useChoice_choices : (useChoice s).choices = s.choices + 1 := rfl
@[simp] theorem useChoice_meas : (useChoice s).meas = s.meas := rfl
@[simp] theorem takeReply_taken : (takeReply s).meas.taken = true := rfl

@[simp] theorem inputOf_setInput_self (l : InputLine) (d : Debounce) (i : Inputs) :
    inputOf (setInput l d i) l = d := by cases l <;> rfl
theorem inputOf_setInput_other {l m : InputLine} (d : Debounce) (i : Inputs) (h : m ≠ l) :
    inputOf (setInput l d i) m = inputOf i m := by
  cases l <;> cases m <;> first | rfl | exact absurd rfl h

@[simp] theorem updateInput_inputOf (l : InputLine) (f : Debounce → Debounce) :
    inputOf (updateInput l f s).demand.inputs l = f (inputOf s.demand.inputs l) := by
  simp [updateInput]
@[simp] theorem updateInput_reader (l : InputLine) (f : Debounce → Debounce) :
    (updateInput l f s).reader = s.reader := rfl
@[simp] theorem updateInput_seq (l : InputLine) (f : Debounce → Debounce) :
    (updateInput l f s).seq = s.seq := rfl

@[simp] theorem outputOf_updateOutput_self (o : Output) (f : OutputLine → OutputLine) :
    outputOf (updateOutput o f s).lines o = f (outputOf s.lines o) := by cases o <;> rfl
theorem outputOf_updateOutput_other {o q : Output} (f : OutputLine → OutputLine) (h : q ≠ o) :
    outputOf (updateOutput o f s).lines q = outputOf s.lines q := by
  cases o <;> cases q <;> first | rfl | exact absurd rfl h

@[simp] theorem channelOf_setChannel_self (ch : Channel) (c : ChannelState) :
    channelOf (setChannel ch c s).meas ch = c := by cases ch <;> rfl
theorem channelOf_setChannel_other {ch dh : Channel} (c : ChannelState) (h : dh ≠ ch) :
    channelOf (setChannel ch c s).meas dh = channelOf s.meas dh := by
  cases ch <;> cases dh <;> first | rfl | exact absurd rfl h

/-! ### Settled outputs change the line driver alone -/

@[simp] theorem settleOutputs_reader (p : Params) : (settleOutputs p s).reader = s.reader := rfl
@[simp] theorem settleOutputs_meas (p : Params) : (settleOutputs p s).meas = s.meas := rfl
@[simp] theorem settleOutputs_demand (p : Params) : (settleOutputs p s).demand = s.demand := rfl
@[simp] theorem settleOutputs_seq (p : Params) : (settleOutputs p s).seq = s.seq := rfl
@[simp] theorem settleOutputs_prot (p : Params) : (settleOutputs p s).prot = s.prot := rfl
@[simp] theorem settleOutputs_step (p : Params) : (settleOutputs p s).step = s.step := rfl
@[simp] theorem settleOutputs_roster (p : Params) : (settleOutputs p s).roster = s.roster := rfl
@[simp] theorem settleOutputs_arb (p : Params) : (settleOutputs p s).arb = s.arb := rfl
@[simp] theorem settleOutputs_makeUp (p : Params) : (settleOutputs p s).makeUp = s.makeUp := rfl
@[simp] theorem settleOutputs_layover (p : Params) : (settleOutputs p s).layover = s.layover := rfl
@[simp] theorem settleOutputs_link (p : Params) : (settleOutputs p s).link = s.link := rfl
@[simp] theorem settleOutputs_choices (p : Params) : (settleOutputs p s).choices = s.choices := rfl
@[simp] theorem settleOutputs_pending (p : Params) : (settleOutputs p s).pending = s.pending := rfl

/-! ### Transitions -/

@[simp] theorem stateReached_stopping (d : StopDest) :
    stateReached s (.stopping d) = .stopping d := rfl
@[simp] theorem stateReached_starting (ph : Phase) :
    stateReached s (.starting ph) = .starting ph := rfl
@[simp] theorem stateReached_running : stateReached s .running = .running := rfl
@[simp] theorem stateReached_retryWait : stateReached s .retryWait = .retryWait := rfl
@[simp] theorem stateReached_lockedOut (r : LockReason) :
    stateReached s (.lockedOut r) = .lockedOut r := rfl
@[simp] theorem stateReached_layover : stateReached s .layover = .layover := rfl

@[simp] theorem enterState_engine (e : EngineState) :
    (enterState e s).seq.engine = stateReached s e := by
  unfold enterState changeLayover endIntent clearStepper startStepper
  dsimp only
  repeat' split
  all_goals simp [changeSequencer]

@[simp] theorem enterState_watch (e : EngineState) :
    (enterState e s).layover.watch
      = if stateReached s e = .layover then .active none else .inactive := by
  unfold enterState changeLayover
  rfl

@[simp] theorem withParams_none (f : Params → State) (h : s.reader.applied = none) :
    withParams s f = s := by simp [withParams, h]
theorem withParams_some {p : Params} (f : Params → State) (h : s.reader.applied = some p) :
    withParams s f = f p := by simp [withParams, h]

end Sys2Proof.Machine
end

