-- ==== Sys2Proof/Laws/Settle.lean ====
section
/-! SUPPORT. Settle.lean: what the judgements that follow a command (`settle`) leave alone, operation by operation, and
what they establish: the frame `Kept`, a quiet engine state, the outputs. -/

namespace Sys2Proof.Machine

variable {s t u : State} {p : Params}

/-! ### `Kept` composes -/

theorem Kept.refl (s : State) : Kept s s := by
  constructor <;> intros <;> rfl

theorem Kept.trans (h : Kept s t) (k : Kept t u) : Kept s u where
  reader := k.reader.trans h.reader
  meas := k.meas.trans h.meas
  roster := k.roster.trans h.roster
  choices := k.choices.trans h.choices
  pending := k.pending.trans h.pending
  demand := by rw [k.demand, h.demand]
  link := by rw [k.link, h.link]
  rotation := k.rotation.trans h.rotation
  joinTimer := k.joinTimer.trans h.joinTimer
  placed := k.placed.trans h.placed
  crossing := k.crossing.trans h.crossing
  expired := k.expired.trans h.expired
  peerClaims := k.peerClaims.trans h.peerClaims
  crankCount := k.crankCount.trans h.crankCount
  derate1 := k.derate1.trans h.derate1
  derate2 := k.derate2.trans h.derate2
  hotStop := k.hotStop.trans h.hotStop
  tripLatch := k.tripLatch.trans h.tripLatch
  holdTimer := k.holdTimer.trans h.holdTimer
  lastSpeed := k.lastSpeed.trans h.lastSpeed
  tripRecord := k.tripRecord.trans h.tripRecord
  driven := k.driven.trans h.driven
  polarities := k.polarities.trans h.polarities
  sense := fun o => (k.sense o).trans (h.sense o)
  last := fun o => (k.last o).trans (h.last o)

/-! ### The own claim -/

/-- A frame of the judgements is a frame of a change of engine state. -/
theorem Kept.apart (h : Kept s t) : Apart s t where
  reader := h.reader
  meas := h.meas
  roster := h.roster
  choices := h.choices
  pending := h.pending
  demand := h.demand
  link := h.link
  joinTimer := h.joinTimer
  placed := h.placed
  expired := h.expired
  peerClaims := h.peerClaims
  derate1 := h.derate1
  derate2 := h.derate2
  hotStop := h.hotStop
  lastSpeed := h.lastSpeed
  driven := h.driven
  polarities := h.polarities
  sense := h.sense
  last := h.last

theorem Apart.trans (h : Apart s t) (k : Apart t u) : Apart s u where
  reader := k.reader.trans h.reader
  meas := k.meas.trans h.meas
  roster := k.roster.trans h.roster
  choices := k.choices.trans h.choices
  pending := k.pending.trans h.pending
  demand := by rw [k.demand, h.demand]
  link := by rw [k.link, h.link]
  joinTimer := k.joinTimer.trans h.joinTimer
  placed := k.placed.trans h.placed
  expired := k.expired.trans h.expired
  peerClaims := k.peerClaims.trans h.peerClaims
  derate1 := k.derate1.trans h.derate1
  derate2 := k.derate2.trans h.derate2
  hotStop := k.hotStop.trans h.hotStop
  lastSpeed := k.lastSpeed.trans h.lastSpeed
  driven := k.driven.trans h.driven
  polarities := k.polarities.trans h.polarities
  sense := fun out => (k.sense out).trans (h.sense out)
  last := fun out => (k.last out).trans (h.last out)

theorem claimOf_who {w : Who} {l : List Claim} {c : Claim} (h : claimOf w l = some c) :
    c.who = w := by
  have := List.find?_some h
  simpa using this

theorem ownClaim_who (s : State) : (ownClaim s).who = .own := by
  unfold ownClaim
  cases h : claimOf .own s.arb.claims with
  | none => rfl
  | some c => simpa using claimOf_who h

theorem dropClaim_putClaim {c : Claim} (l : List Claim) :
    dropClaim c.who (putClaim c l) = dropClaim c.who l := by
  unfold putClaim dropClaim
  split
  · induction l with
    | nil => rfl
    | cons d ds ih =>
      clear * -
      induction (d :: ds) with
      | nil => rfl
      | cons e es ih =>
        by_cases h : e.who = c.who <;> simp [h, ih]
  · simp

theorem dropClaim_own_putClaim {c : Claim} (h : c.who = .own) (l : List Claim) :
    dropClaim .own (putClaim c l) = dropClaim .own l := by
  rw [← h]; exact dropClaim_putClaim l

/-! ### The operations that `settle` runs -/

theorem requestFrame_kept (f : TxFrame) (s : State) : Kept s (requestFrame f s) := by
  constructor <;> intros <;> simp [requestFrame_link]

theorem clearStepper_kept (s : State) : Kept s (clearStepper s) := by
  constructor <;> intros <;> rfl

theorem startStepper_kept (s : State) : Kept s (startStepper s) := by
  constructor <;> intros <;> rfl

theorem layover_kept (l : LayoverUnit) (s : State) : Kept s { s with layover := l } := by
  constructor <;> intros <;> rfl

theorem changeLayover_kept (b e : EngineState) (s : State) : Kept s (changeLayover b e s) := by
  unfold changeLayover
  dsimp only
  split
  · exact (layover_kept _ s).trans (layover_kept _ _)
  · exact layover_kept _ s

theorem changeSequencer_kept (e : EngineState) (s : State) :
    Kept s { s with seq := changeSequencer e s.seq } := by
  constructor <;> intros <;> rfl

theorem Kept.ite {c : Prop} [Decidable c] (h : Kept s t) (k : Kept s u) :
    Kept s (if c then t else u) := by
  split <;> assumption

theorem enterState_kept (e : EngineState) (s : State) : Kept s (enterState e s) := by
  unfold enterState
  dsimp only
  have h1 := changeSequencer_kept (stateReached s e) s
  generalize ({ s with seq := changeSequencer (stateReached s e) s.seq } : State) = a at *
  refine Kept.trans ?_ (changeLayover_kept _ _ _)
  have h2 : Kept s (if s.seq.engine = .running ∧ stateReached s e ≠ .running then clearStepper a
      else a) := Kept.ite (h1.trans (clearStepper_kept a)) h1
  exact Kept.ite (h2.trans (startStepper_kept _)) h2

theorem endAttempt_kept (r : AttemptResult) (s : State) : Kept s (endAttempt r s) := by
  constructor <;> intros <;> rfl

theorem enterPhase_kept (ph : Phase) (s : State) : Kept s (enterPhase ph s) := by
  constructor <;> intros <;> rfl

theorem postOwnClaim_kept (l : Level) (s : State) : Kept s (postOwnClaim l s) := by
  unfold postOwnClaim
  refine Kept.trans ?_ (requestFrame_kept _ _)
  constructor <;> intros <;> first | rfl | exact dropClaim_own_putClaim rfl _

theorem enterPrep_kept (s : State) : Kept s (enterPrep s) := by
  unfold enterPrep
  refine Kept.trans (enterState_kept (.starting .prep) s) (Kept.trans ?_ (postOwnClaim_kept _ _))
  constructor <;> intros <;> rfl

theorem startRequest_kept (p : Params) (l : Level) (s : State) : Kept s (startRequest p l s) := by
  unfold startRequest
  split
  · refine Kept.trans ?_ (enterPrep_kept _)
    constructor <;> intros <;> rfl
  · exact Kept.refl s

theorem enterCrank_kept (s : State) : Kept s (enterCrank s) := by
  unfold enterCrank
  refine Kept.trans ?_ (requestFrame_kept _ _)
  constructor <;> intros <;> first
    | rfl
    | exact dropClaim_own_putClaim (c := { ownClaim s with state := .cranking 0 }) (ownClaim_who s) _

theorem arriveAt_kept (d : StopDest) (s : State) : Kept s (arriveAt d s) := by
  cases d
  · refine Kept.trans ?_ (enterState_kept _ _)
    constructor <;> intros <;> rfl
  · exact enterState_kept _ _
  · exact enterState_kept _ _
  · exact enterState_kept _ _
  · exact enterPrep_kept _

theorem judgeLine_sense (c v : Bool) (l : OutputLine) : (judgeLine c v l).sense = l.sense := by
  unfold judgeLine; (repeat' split) <;> rfl

theorem judgeLine_last (c v : Bool) (l : OutputLine) : (judgeLine c v l).last = l.last := by
  unfold judgeLine; (repeat' split) <;> rfl

@[simp] theorem judgeLine_command (c v : Bool) (l : OutputLine) :
    (judgeLine c v l).command = c := by
  unfold judgeLine; (repeat' split) <;> rfl

theorem settleOutputs_kept (p : Params) (s : State) : Kept s (settleOutputs p s) := by
  constructor <;> intros <;> first
    | rfl
    | (rename_i o; cases o <;> first | exact judgeLine_sense _ _ _ | exact judgeLine_last _ _ _)

theorem settleArrival_kept (p : Params) (s : State) : Kept s (settleArrival p s) := by
  unfold settleArrival
  split
  · split
    · exact (settleOutputs_kept p s).trans (arriveAt_kept _ _)
    · exact Kept.refl s
  · exact Kept.refl s

theorem settleOwnRecord_kept (p : Params) (s : State) : Kept s (settleOwnRecord p s) := by
  unfold settleOwnRecord
  have h (r : OwnRecord) : Kept s { s with demand := { s.demand with ownRecord := r } } := by
    constructor <;> intros <;> rfl
  dsimp only
  split
  · exact Kept.refl s
  · split
    · exact (h _).trans (requestFrame_kept _ _)
    · exact h _

theorem settleCaps_kept (p : Params) (s : State) : Kept s (settleCaps p s) := by
  constructor <;> intros <;> rfl

theorem settleMakeUp_kept (p : Params) (s : State) : Kept s (settleMakeUp p s) := by
  constructor <;> intros <;> rfl

theorem settleLowIdle_kept (p : Params) (s : State) : Kept s (settleLowIdle p s) := by
  constructor <;> intros <;> rfl

theorem settleTarget_kept (s : State) : Kept s (settleTarget s) := by
  constructor <;> intros <;> rfl

theorem settleReport_kept (s : State) : Kept s (settleReport s) := by
  unfold settleReport
  split
  · constructor <;> intros <;> rfl
  · exact Kept.refl s

theorem settleRow_kept (p : Params) (s : State) : Kept s (settleRow p s) := by
  unfold settleRow
  split
  · exact Kept.refl s
  · split
    · constructor <;> intros <;> rfl
    · exact Kept.refl s

theorem settleLubeTimer_kept (p : Params) (s : State) : Kept s (settleLubeTimer p s) := by
  constructor <;> intros <;> rfl

theorem moveRow_kept (r : Row) (l : Option Row) (s : State) : Kept s (moveRow r l s) := by
  constructor <;> intros <;> rfl

theorem afterStep_kept (p : Params) (s : State) : Kept s (afterStep p s) :=
  (settleLubeTimer_kept p s).trans (settleRow_kept p _)

theorem stepUp_kept (r : Row) (s : State) : Kept s (stepUp r s) :=
  (moveRow_kept _ _ s).trans (requestFrame_kept _ _)

theorem stepDown_kept (r : Row) (s : State) : Kept s (stepDown r s) := moveRow_kept _ _ s

theorem settleSteps_kept (p : Params) : ∀ (n : Nat) (s : State), Kept s (settleSteps p n s)
  | 0, s => Kept.refl s
  | n + 1, s => by
    unfold settleSteps
    split
    · exact Kept.refl s
    · split
      · exact ((stepUp_kept _ s).trans (afterStep_kept p _)).trans (settleSteps_kept p n _)
      · split
        · exact ((stepDown_kept _ s).trans (afterStep_kept p _)).trans (settleSteps_kept p n _)
        · exact Kept.refl s

theorem settleStaggerHold_kept (p : Params) (s : State) : Kept s (settleStaggerHold p s) := by
  constructor <;> intros <;> rfl

theorem settleLoadPermit_kept (p : Params) (s : State) : Kept s (settleLoadPermit p s) := by
  constructor <;> intros <;> rfl

theorem settleStepper_kept (p : Params) (s : State) : Kept s (settleStepper p s) :=
  (settleLowIdle_kept p s).trans <| (settleTarget_kept _).trans <| (settleReport_kept _).trans <|
    (settleSteps_kept p 9 _).trans <|
    (settleStaggerHold_kept p _).trans (settleLoadPermit_kept p _)

theorem settlePrelube_kept (p : Params) (s : State) : Kept s (settlePrelube p s) := by
  unfold settlePrelube
  split
  · constructor <;> intros <;> rfl
  · exact Kept.refl s

theorem settleConfirm_kept (p : Params) (s : State) : Kept s (settleConfirm p s) := by
  constructor <;> intros <;> rfl

theorem settleHotTimer_kept (s : State) : Kept s (settleHotTimer s) := by
  constructor <;> intros <;> rfl

theorem cancelIntent_kept (s : State) : Kept s (cancelIntent s) := by
  unfold cancelIntent
  dsimp only
  split
  · constructor <;> intros <;> rfl
  · refine Kept.trans ?_ (requestFrame_kept _ _)
    constructor <;> intros <;> rfl

theorem announceIntent_kept (s : State) : Kept s (announceIntent s) := by
  unfold announceIntent
  refine Kept.trans ?_ (requestFrame_kept _ _)
  constructor <;> intros <;> rfl

theorem settleEligible_kept (p : Params) (s : State) : Kept s (settleEligible p s) := by
  unfold settleEligible
  have h (l : LayoverUnit) : Kept s { s with layover := l } := by constructor <;> intros <;> rfl
  dsimp only
  split
  · exact (h _).trans (cancelIntent_kept _)
  · split
    · exact (h _).trans (announceIntent_kept _)
    · exact h _

theorem settleWatch_kept (p : Params) (s : State) : Kept s (settleWatch p s) := by
  unfold settleWatch
  have h (l : LayoverUnit) : Kept s { s with layover := l } := by constructor <;> intros <;> rfl
  split
  · exact Kept.refl s
  · dsimp only
    split
    · exact h _
    · split
      · exact (h _).trans (startRequest_kept p _ _)
      · exact h _

theorem settleGrant_kept (p : Params) (s : State) : Kept s (settleGrant p s) := by
  unfold settleGrant
  split
  · exact enterCrank_kept s
  · exact Kept.refl s

theorem settleLamps_kept (s : State) : Kept s (settleLamps s) := by
  constructor <;> intros <;> rfl

theorem settleTimers_kept (p : Params) (s : State) :
    Kept s (settleHotTimer (settleLubeTimer p (settleConfirm p (settlePrelube p s)))) :=
  (settlePrelube_kept p s).trans <| (settleConfirm_kept p _).trans <|
    (settleLubeTimer_kept p _).trans (settleHotTimer_kept _)

theorem settleRound_kept (p : Params) (s : State) : Kept s (settleRound p s) := by
  unfold settleRound
  dsimp only
  have h1 := (settleArrival_kept p s).trans (settleOwnRecord_kept p _)
  generalize settleOwnRecord p (settleArrival p s) = a at *
  have h2 := h1.trans ((settleCaps_kept p a).trans (settleMakeUp_kept p _))
  generalize settleMakeUp p (settleCaps p a) = b at *
  have h3 := h2.trans (settleStepper_kept p b)
  generalize settleStepper p b = c at *
  have h4 := h3.trans (settleTimers_kept p c)
  generalize settleHotTimer (settleLubeTimer p (settleConfirm p (settlePrelube p c))) = d at *
  have h5 := h4.trans ((settleEligible_kept p d).trans (settleWatch_kept p _))
  generalize settleWatch p (settleEligible p d) = e at *
  have h6 := h5.trans (settleGrant_kept p e)
  generalize settleGrant p e = f at *
  exact h6.trans ((settleOutputs_kept p f).trans (settleLamps_kept _))

/-- Everything `settle` leaves alone. -/
theorem settle_kept (p : Params) (s : State) : Kept s (settle p s) := by
  have h1 := settleRound_kept p s
  have h2 := settleRound_kept p (settleRound p s)
  have h3 := settleRound_kept p (settleRound p (settleRound p s))
  exact (h1.trans h2).trans h3

/-! ### A quiet engine state -/

theorem Still.refl (s : State) : Still s s := ⟨rfl, rfl, id, rfl⟩

theorem Still.trans (h : Still s t) (k : Still t u) : Still s u :=
  ⟨by rw [k.seq, h.seq], k.arb.trans h.arb, k.watch ∘ h.watch, k.meas.trans h.meas⟩

theorem Still.engine (h : Still s t) : t.seq.engine = s.seq.engine := by rw [h.seq]

theorem Still.quiet (h : Still s t) (q : Quiet p s) : Quiet p t where
  moving := fun d hd => by
    rw [h.engine] at hd
    have := q.moving d hd
    simpa [atRest, h.meas] using this
  ungranted := fun hd => by
    rw [h.engine] at hd
    rw [h.arb]
    exact q.ungranted hd
  unwatched := fun hd => by
    rw [h.engine] at hd
    exact h.watch (q.unwatched hd)

theorem requestFrame_still (f : TxFrame) (s : State) : Still s (requestFrame f s) := by
  constructor <;> simp

theorem settleArrival_quiet (q : Quiet p s) : settleArrival p s = s := by
  unfold settleArrival
  split
  · rename_i d hd
    simp [q.moving d hd]
  · rfl

theorem startRequest_refused {l : Level} (h : ¬(s.seq.engine = .stopped ∨ s.seq.engine = .layover)) :
    startRequest p l s = s := by
  unfold startRequest
  simp [h]

theorem settleWatch_still (q : Quiet p s) : Still s (settleWatch p s) := by
  unfold settleWatch
  split
  · exact Still.refl s
  · rename_i old hw
    have hn : ¬(s.seq.engine = .stopped ∨ s.seq.engine = .layover) := fun hd => by
      rw [q.unwatched hd] at hw
      cases hw
    have h (w : RestartWatch) : Still s { s with layover := { s.layover with watch := w } } :=
      ⟨rfl, rfl, fun hi => absurd (hi.symm.trans hw) (by simp), rfl⟩
    dsimp only
    split
    · exact h _
    · split
      · rw [startRequest_refused]
        · exact h _
        · exact hn
      · exact h _

theorem settleGrant_quiet (q : Quiet p s) : settleGrant p s = s := by
  unfold settleGrant
  have : grantHolds p s = false := by
    by_cases h : s.seq.engine = .starting .prep
    · simp [grantHolds, q.ungranted h]
    · simp [grantHolds, h]
  simp [this]

theorem settleOwnRecord_still (p : Params) (s : State) : Still s (settleOwnRecord p s) := by
  unfold settleOwnRecord
  have h (r : OwnRecord) : Still s { s with demand := { s.demand with ownRecord := r } } :=
    ⟨rfl, rfl, id, rfl⟩
  dsimp only
  split
  · exact Still.refl s
  · split
    · exact (h _).trans (requestFrame_still _ _)
    · exact h _

theorem settleRow_still (p : Params) (s : State) : Still s (settleRow p s) := by
  unfold settleRow
  split
  · exact Still.refl s
  · split
    · exact ⟨rfl, rfl, id, rfl⟩
    · exact Still.refl s

theorem afterStep_still (p : Params) (s : State) : Still s (afterStep p s) :=
  Still.trans (t := settleLubeTimer p s) ⟨rfl, rfl, id, rfl⟩ (settleRow_still p _)

theorem stepUp_still (r : Row) (s : State) : Still s (stepUp r s) :=
  Still.trans (t := moveRow (rowUp r) s.step.loadRow s) ⟨rfl, rfl, id, rfl⟩
    (requestFrame_still _ _)

theorem settleSteps_still (p : Params) : ∀ (n : Nat) (s : State), Still s (settleSteps p n s)
  | 0, s => Still.refl s
  | n + 1, s => by
    unfold settleSteps
    split
    · exact Still.refl s
    · split
      · exact ((stepUp_still _ s).trans (afterStep_still p _)).trans (settleSteps_still p n _)
      · split
        · exact (Still.trans (t := stepDown _ s) ⟨rfl, rfl, id, rfl⟩ (afterStep_still p _)).trans
            (settleSteps_still p n _)
        · exact Still.refl s

theorem settleReport_still (s : State) : Still s (settleReport s) := by
  unfold settleReport
  split
  · exact ⟨rfl, rfl, id, rfl⟩
  · exact Still.refl s

theorem settleStepper_still (p : Params) (s : State) : Still s (settleStepper p s) :=
  (Still.trans (t := settleTarget (settleLowIdle p s)) ⟨rfl, rfl, id, rfl⟩
    (settleReport_still _)).trans <|
    (settleSteps_still p 9 _).trans ⟨rfl, rfl, id, rfl⟩

theorem settlePrelube_still (p : Params) (s : State) : Still s (settlePrelube p s) := by
  unfold settlePrelube
  split
  · exact ⟨rfl, rfl, id, rfl⟩
  · exact Still.refl s

theorem cancelIntent_still (s : State) : Still s (cancelIntent s) := by
  unfold cancelIntent
  dsimp only
  split
  · exact ⟨rfl, rfl, id, rfl⟩
  · exact ⟨by simp [requestMade], by simp [requestMade], by simp [requestMade], by simp [requestMade]⟩

theorem announceIntent_still (s : State) : Still s (announceIntent s) := by
  unfold announceIntent
  exact ⟨by simp [requestMade], by simp [requestMade], by simp [requestMade], by simp [requestMade]⟩

theorem settleEligible_still (p : Params) (s : State) : Still s (settleEligible p s) := by
  unfold settleEligible
  have h (a : Bool) (b : Nat) (c : IdleTimer) :
      Still s { s with layover := { s.layover with q := b, eligible := a, idle := c } } :=
    ⟨rfl, rfl, id, rfl⟩
  dsimp only
  split
  · exact (h _ _ _).trans (cancelIntent_still _)
  · split
    · exact (h _ _ _).trans (announceIntent_still _)
    · exact h _ _ _

theorem settleMakeUpCaps_still (p : Params) (s : State) :
    Still s (settleMakeUp p (settleCaps p s)) := ⟨rfl, rfl, id, rfl⟩

theorem settleTimers_still (p : Params) (s : State) :
    Still s (settleHotTimer (settleLubeTimer p (settleConfirm p s))) := ⟨rfl, rfl, id, rfl⟩

theorem settleLines_still (p : Params) (s : State) :
    Still s (settleLamps (settleOutputs p s)) := ⟨rfl, rfl, id, rfl⟩

theorem settleRound_still (q : Quiet p s) : Still s (settleRound p s) := by
  unfold settleRound
  rw [settleArrival_quiet q]
  dsimp only
  have h1 := settleOwnRecord_still p s
  generalize settleOwnRecord p s = a at *
  have h2 := h1.trans (settleMakeUpCaps_still p a)
  generalize settleMakeUp p (settleCaps p a) = b at *
  have h3 := h2.trans (settleStepper_still p b)
  generalize settleStepper p b = c at *
  have h4 := h3.trans (settlePrelube_still p c)
  generalize settlePrelube p c = d at *
  have h5 := h4.trans (settleTimers_still p d)
  generalize settleHotTimer (settleLubeTimer p (settleConfirm p d)) = e at *
  have h6 := h5.trans (settleEligible_still p e)
  generalize settleEligible p e = f at *
  have h7 := h6.trans (settleWatch_still (h6.quiet q))
  generalize settleWatch p f = g at *
  rw [settleGrant_quiet (h7.quiet q)]
  exact h7.trans (settleLines_still p g)

/-- In a quiet state `settle` moves neither the engine state nor the arbiter. -/
theorem settle_still (q : Quiet p s) : Still s (settle p s) := by
  have h1 := settleRound_still q
  have h2 := settleRound_still (h1.quiet q)
  have h3 := settleRound_still (h2.quiet (h1.quiet q))
  exact (h1.trans h2).trans h3

/-! ### What `settle` establishes -/

theorem resolvedCommand_outputs (p : Params) (s : State) (out : Output) :
    resolvedCommand (settleLamps (settleOutputs p s)) out = resolvedCommand s out := by
  cases out <;> rfl

/-- After `settle` every output follows its rule (R148, R149, R153). -/
theorem settle_outputs (p : Params) (s : State) :
    (∀ out, (outputOf (settle p s).lines out).command = resolvedCommand (settle p s) out)
      ∧ (settle p s).lines.speedSet = speedSetOf p (settle p s)
      ∧ (settle p s).lines.loadRef
          = loadRefOf p (settle p s) (resolvedCommand (settle p s) .loadPermit)
      ∧ (settle p s).lines.runLamp = isRunning (settle p s)
      ∧ (settle p s).lines.layoverLamp = ((settle p s).seq.engine == .layover)
      ∧ (settle p s).lines.faultLamp = faultLampOf (settle p s) := by
  have key (u : State) :
      (∀ out, (outputOf (settleRound p u).lines out).command = resolvedCommand (settleRound p u) out)
        ∧ (settleRound p u).lines.speedSet = speedSetOf p (settleRound p u)
        ∧ (settleRound p u).lines.loadRef
            = loadRefOf p (settleRound p u) (resolvedCommand (settleRound p u) .loadPermit)
        ∧ (settleRound p u).lines.runLamp = isRunning (settleRound p u)
        ∧ (settleRound p u).lines.layoverLamp = ((settleRound p u).seq.engine == .layover)
        ∧ (settleRound p u).lines.faultLamp = faultLampOf (settleRound p u) := by
    unfold settleRound
    dsimp only
    generalize settleGrant p _ = w
    refine ⟨fun out => ?_, rfl, ?_, rfl, rfl, rfl⟩
    · rw [resolvedCommand_outputs]
      cases out <;> exact judgeLine_command _ _ _
    · rw [resolvedCommand_outputs]
      rfl
  exact key _

/-- `settleOutputs` gives every on/off output its resolved command. -/
theorem settleOutputs_command (p : Params) (s : State) (out : Output) :
    (outputOf (settleOutputs p s).lines out).command = resolvedCommand s out := by
  cases out <;> exact judgeLine_command _ _ _

/-- `settle` says once what every judgement leaves: see `Judged`. -/
theorem settle_judged (h : s.reader.applied = some p) : Judged p s (settle p s) where
  kept := settle_kept p s
  outputs := by
    intro q hq
    rw [(settle_kept p s).reader, h] at hq
    cases hq
    exact settle_outputs p s
  still := settle_still

/-- After `settle` the stepper's LOAD-PERMIT command is R92's. -/
theorem settleStepper_loadPermit (p : Params) (s : State) :
    (settleStepper p s).step.loadPermit
      = loadPermitHolds p (settleStaggerHold p (settleSteps p 9
          (settleReport (settleTarget (settleLowIdle p s))))) := rfl

end Sys2Proof.Machine
end

