-- ==== Sys2Proof/Laws/Ops.lean ====
section
/-! SUPPORT. Ops.lean: what the shared operations on claims, on the transmit queue and on the sequencer can do, each
said once. -/

namespace Sys2Proof.Machine

variable {s t : State} {p : Params}

/-! ### The claim list -/

theorem claimOf_dropClaim_self (w : Who) (l : List Claim) : claimOf w (dropClaim w l) = none := by
  simp [claimOf, dropClaim]

theorem claimOf_dropClaim_other {v w : Who} (h : v ≠ w) (l : List Claim) :
    claimOf v (dropClaim w l) = claimOf v l := by
  unfold claimOf dropClaim
  rw [List.find?_filter]
  congr 1
  funext c
  by_cases hv : c.who = v
  · subst hv; simp [h]
  · simp [hv]

/-- What `putClaim` makes of a unit's entry. -/
theorem claimOf_putClaim (v : Who) (c : Claim) (l : List Claim) :
    claimOf v (putClaim c l) = if v = c.who then some c else claimOf v l := by
  unfold putClaim claimOf
  by_cases hv : v = c.who
  · subst hv
    simp only [if_true]
    split
    · rename_i h
      induction l with
      | nil => simp at h
      | cons d ds ih =>
        by_cases hd : d.who = c.who
        · simp [hd]
        · have : (ds.any fun d => d.who == c.who) = true := by simpa [hd] using h
          simpa [hd] using ih this
    · rename_i h
      have : l.find? (fun d => d.who == c.who) = none := by
        rw [List.find?_eq_none]
        intro d hd he
        exact h (List.any_eq_true.mpr ⟨d, hd, he⟩)
      simp [this]
  · rw [if_neg hv]
    split
    · clear * - hv
      induction l with
      | nil => rfl
      | cons d ds ih =>
        by_cases hd : d.who = c.who
        · have hc : c.who ≠ v := fun e => hv e.symm
          simpa [hd, hc] using ih
        · by_cases he : d.who = v <;> simp [hd, he, hv, ih]
    · have hc : c.who ≠ v := fun e => hv e.symm
      cases hf : l.find? (fun d => d.who == v) <;> simp [hf, hc]

/-- Lists that agree but for the station's own entry hold the same entry of each peer. -/
theorem claimOf_unit_of_dropClaim {l m : List Claim} (h : dropClaim .own l = dropClaim .own m)
    (u : UnitNo) : claimOf (.unit u) l = claimOf (.unit u) m := by
  rw [← claimOf_dropClaim_other (w := .own) (by simp) l, h, claimOf_dropClaim_other (by simp)]

/-- The judgements leave every peer's claim. -/
theorem Kept.peerClaim (h : Kept s t) (u : UnitNo) :
    claimOf (.unit u) t.arb.claims = claimOf (.unit u) s.arb.claims :=
  claimOf_unit_of_dropClaim h.peerClaims u

theorem ownClaim_of_claimOf {c : Claim} (h : claimOf .own s.arb.claims = some c) :
    ownClaim s = c := by
  simp [ownClaim, h]

/-! ### The transmit queue -/

theorem mem_insertFrame (f g : TxFrame) (q : List TxFrame) :
    g ∈ insertFrame f q ↔ g = f ∨ g ∈ q := by
  induction q with
  | nil => simp [insertFrame]
  | cons h hs ih =>
    unfold insertFrame
    split
    · simp
    · simp only [List.mem_cons, ih]; tauto

theorem length_insertFrame (f : TxFrame) (q : List TxFrame) :
    (insertFrame f q).length = q.length + 1 := by
  induction q with
  | nil => rfl
  | cons h hs ih => unfold insertFrame; split <;> simp [ih]

/-- Where there is room a request joins the queue. -/
theorem mem_enqueue_self {f : TxFrame} {q : List TxFrame} (h : q.length < 8) : f ∈ enqueue f q := by
  unfold enqueue
  split
  · rename_i ha
    obtain ⟨g, hg, he⟩ := List.any_eq_true.mp ha
    exact List.mem_map.mpr ⟨g, hg, by simp_all⟩
  · dsimp only
    rw [if_pos (lt_of_le_of_lt (List.length_filter_le _ _) h)]
    exact (mem_insertFrame _ _ _).mpr (.inl rfl)

/-- Where there is room a request displaces only the frame of its own kind and of the kind it cancels. -/
theorem mem_enqueue_of_mem {f g : TxFrame} {q : List TxFrame} (hg : g ∈ q) (hk : txKind g ≠ txKind f)
    (hc : cancelledKind (txKind f) ≠ some (txKind g)) (h : q.length < 8) : g ∈ enqueue f q := by
  unfold enqueue
  split
  · exact List.mem_map.mpr ⟨g, hg, by simp [hk]⟩
  · dsimp only
    rw [if_pos (lt_of_le_of_lt (List.length_filter_le _ _) h)]
    exact (mem_insertFrame _ _ _).mpr (.inr (List.mem_filter.mpr ⟨hg, by simpa using hc⟩))

/-- A request brings no other frame than itself. -/
theorem mem_of_mem_enqueue {f g : TxFrame} {q : List TxFrame} (h : g ∈ enqueue f q) :
    g = f ∨ g ∈ q := by
  unfold enqueue at h
  split at h
  · obtain ⟨d, hd, he⟩ := List.mem_map.mp h
    split at he
    · exact .inl he.symm
    · exact .inr (he ▸ hd)
  · dsimp only at h
    split at h
    · rcases (mem_insertFrame _ _ _).mp h with h | h
      · exact .inl h
      · exact .inr (List.mem_filter.mp h).1
    · split at h
      · split at h
        · rcases (mem_insertFrame _ _ _).mp h with h | h
          · exact .inl h
          · exact .inr (List.mem_filter.mp (List.mem_of_mem_dropLast h)).1
        · exact .inr (List.mem_filter.mp h).1
      · rcases (mem_insertFrame _ _ _).mp h with h | h
        · exact .inl h
        · exact .inr (List.mem_filter.mp h).1

/-- The kinds of a queue's frames, each at most once, lie within `K`. -/
def kindsWithin (K : List Nat) (q : List TxFrame) : Prop :=
  (q.map txKind).Nodup ∧ ∀ f ∈ q, txKind f ∈ K

theorem kindsWithin.length {K : List Nat} {q : List TxFrame} (h : kindsWithin K q) :
    q.length ≤ K.length := by
  have := (List.Nodup.subperm h.1 (fun k hk => by
    obtain ⟨f, hf, rfl⟩ := List.mem_map.mp hk; exact h.2 f hf)).length_le
  simpa using this

theorem nodup_insertFrame {f : TxFrame} {q : List TxFrame} (h : (q.map txKind).Nodup)
    (hf : txKind f ∉ q.map txKind) : ((insertFrame f q).map txKind).Nodup := by
  induction q with
  | nil => simp [insertFrame]
  | cons g gs ih =>
    unfold insertFrame
    split
    · exact List.nodup_cons.mpr ⟨hf, h⟩
    · rw [List.map_cons, List.nodup_cons] at h ⊢
      refine ⟨?_, ih h.2 (fun hm => hf (List.mem_cons_of_mem _ hm))⟩
      intro hm
      obtain ⟨d, hd, he⟩ := List.mem_map.mp hm
      rcases (mem_insertFrame _ _ _).mp hd with rfl | hd
      · exact hf (by simp [he])
      · exact h.1 (List.mem_map.mpr ⟨d, hd, he⟩)

theorem kindsWithin_enqueue {K : List Nat} {f : TxFrame} {q : List TxFrame} (h : kindsWithin K q)
    (hf : txKind f ∈ K) : kindsWithin K (enqueue f q) := by
  constructor
  · unfold enqueue
    have hfil (P : TxFrame → Bool) : ((q.filter P).map txKind).Nodup :=
      h.1.sublist (List.Sublist.map _ List.filter_sublist)
    split
    · have : (q.map fun g => if txKind g = txKind f then f else g).map txKind = q.map txKind := by
        rw [List.map_map]
        refine List.map_congr_left fun g _ => ?_
        by_cases hg : txKind g = txKind f <;> simp [hg]
      rw [this]; exact h.1
    · rename_i ha
      have hn (P : TxFrame → Bool) : txKind f ∉ (q.filter P).map txKind := fun hm => by
        obtain ⟨d, hd, he⟩ := List.mem_map.mp hm
        exact ha (List.any_eq_true.mpr ⟨d, (List.mem_filter.mp hd).1, by simp [he]⟩)
      dsimp only
      split
      · exact nodup_insertFrame (hfil _) (hn _)
      · split
        · split
          · refine nodup_insertFrame ((hfil _).sublist (List.Sublist.map _ (List.dropLast_sublist _))) ?_
            intro hm
            exact hn _ ((List.Sublist.map _ (List.dropLast_sublist _)).subset hm)
          · exact hfil _
        · exact nodup_insertFrame (hfil _) (hn _)
  · intro g hg
    rcases mem_of_mem_enqueue hg with rfl | hg
    · exact hf
    · exact h.2 g hg

/-! ### A frame asked for by a command still waits after `settle` -/

/-- A frame waits in a queue that otherwise holds at most a DEMAND, a STEP and a layover frame. -/
structure Held (g : TxFrame) (s : State) : Prop where
  mem : g ∈ s.link.queue
  kinds : kindsWithin (txKind g :: [5, 6, 7, 8]) s.link.queue

theorem Held.of_link {g : TxFrame} (h : Held g s) (e : t.link = s.link) : Held g t := by
  constructor <;> rw [e]
  · exact h.mem
  · exact h.kinds

theorem Held.request {g : TxFrame} (h : Held g s) (hg : txKind g ∉ [5, 6, 7, 8]) {f : TxFrame}
    (hf : txKind f ∈ [5, 6, 7, 8]) : Held g (requestFrame f s) := by
  unfold requestFrame
  split
  · have hl : s.link.queue.length < 8 := lt_of_le_of_lt h.kinds.length (by simp)
    refine ⟨mem_enqueue_of_mem h.mem (fun e => hg (e ▸ hf)) ?_ hl,
      kindsWithin_enqueue h.kinds (List.mem_cons_of_mem _ hf)⟩
    intro hc
    simp only [List.mem_cons, List.not_mem_nil, or_false, not_or] at hf hg
    rcases hf with hf | hf | hf | hf <;> rw [hf] at hc <;> simp [cancelledKind] at hc <;> omega
  · exact h

theorem Held.made {g : TxFrame} (h : Held g s) (hg : txKind g ∉ [5, 6, 7, 8]) {c : Content}
    (hc : contentKind c ∈ [5, 6, 7, 8]) : Held g (requestMade c s) := h.request hg hc

/-- A request taken into an empty queue waits there alone. -/
theorem held_request (g : TxFrame) (hs : openLink s) : Held g (requestFrame g s) := by
  have hq : (requestFrame g s).link.queue = [g] := by
    rw [requestFrame_link]
    simp [hs.1, hs.2, enqueue, insertFrame]
  constructor <;> rw [hq]
  · simp
  · exact ⟨by simp, by simp⟩

section Held
variable {g : TxFrame}

theorem Held.settleOwnRecord (h : Held g s) (hg : txKind g ∉ [5, 6, 7, 8]) :
    Held g (settleOwnRecord p s) := by
  unfold Machine.settleOwnRecord
  dsimp only
  split
  · exact h
  · have h' : Held g { s with demand := { s.demand with ownRecord := ownRecordNow p s } } :=
      h.of_link rfl
    split
    · exact h'.made hg (by simp [demandContent, contentKind])
    · exact h'

theorem settleRow_link (p : Params) (s : State) : (settleRow p s).link = s.link := by
  unfold settleRow
  split
  · rfl
  · split <;> rfl

theorem Held.settleSteps (hg : txKind g ∉ [5, 6, 7, 8]) :
    ∀ (n : Nat) (s : State), Held g s → Held g (settleSteps p n s)
  | 0, _, h => h
  | n + 1, s, h => by
    unfold Machine.settleSteps
    split
    · exact h
    · rename_i r _
      split
      · refine Held.settleSteps hg n _ (Held.of_link (s := stepUp r s) ?_ (settleRow_link _ _))
        exact Held.made (s := moveRow (rowUp r) s.step.loadRow s) (h.of_link rfl) hg
          (by simp [contentKind])
      · split
        · exact Held.settleSteps hg n _ (Held.of_link h (settleRow_link _ _))
        · exact h

theorem settleReport_link (s : State) : (settleReport s).link = s.link := by
  unfold settleReport; split <;> rfl

theorem Held.settleStepper (h : Held g s) (hg : txKind g ∉ [5, 6, 7, 8]) :
    Held g (settleStepper p s) := by
  have h1 : Held g (settleReport (settleTarget (settleLowIdle p s))) :=
    h.of_link (settleReport_link _)
  exact (Held.settleSteps hg 9 _ h1).of_link rfl

theorem settlePrelube_link (p : Params) (s : State) : (settlePrelube p s).link = s.link := by
  unfold settlePrelube; split <;> rfl

theorem Held.cancelIntent (h : Held g s) (hg : txKind g ∉ [5, 6, 7, 8]) :
    Held g (cancelIntent s) := by
  unfold Machine.cancelIntent
  dsimp only
  split
  · exact h.of_link rfl
  · rename_i serial _
    refine Held.made (c := .layoverCancel serial) ?_ hg (by simp [contentKind])
    exact h.of_link rfl

theorem Held.announceIntent (h : Held g s) (hg : txKind g ∉ [5, 6, 7, 8]) :
    Held g (announceIntent s) := by
  unfold Machine.announceIntent
  refine Held.made (c := .layoverIntent (s.layover.serial + 1)) ?_ hg (by simp [contentKind])
  exact h.of_link rfl

theorem Held.settleEligible (h : Held g s) (hg : txKind g ∉ [5, 6, 7, 8]) :
    Held g (settleEligible p s) := by
  unfold Machine.settleEligible
  dsimp only
  have h' (l : LayoverUnit) : Held g { s with layover := l } := h.of_link rfl
  split
  · exact (h' _).cancelIntent hg
  · split
    · exact (h' _).announceIntent hg
    · exact h' _

theorem settleWatch_link (q : Quiet p s) : (settleWatch p s).link = s.link := by
  unfold settleWatch
  split
  · rfl
  · rename_i old hw
    have hn : ¬(s.seq.engine = .stopped ∨ s.seq.engine = .layover) := fun hd => by
      rw [q.unwatched hd] at hw
      cases hw
    dsimp only
    split
    · rfl
    · split
      · rw [startRequest_refused]
        exact hn
      · rfl

theorem Held.settleRound (h : Held g s) (hg : txKind g ∉ [5, 6, 7, 8]) (q : Quiet p s) :
    Held g (settleRound p s) := by
  unfold Machine.settleRound
  rw [settleArrival_quiet q]
  dsimp only
  have k1 := settleOwnRecord_still p s
  have h1 := h.settleOwnRecord (p := p) hg
  generalize Machine.settleOwnRecord p s = a at *
  have k2 := k1.trans (settleMakeUpCaps_still p a)
  have h2 : Held g (settleMakeUp p (settleCaps p a)) := h1.of_link rfl
  generalize settleMakeUp p (settleCaps p a) = b at *
  have k3 := k2.trans (settleStepper_still p b)
  have h3 := h2.settleStepper (p := p) hg
  generalize Machine.settleStepper p b = c at *
  have k4 := k3.trans (settlePrelube_still p c)
  have h4 : Held g (settlePrelube p c) := h3.of_link (settlePrelube_link p c)
  generalize settlePrelube p c = d at *
  have k5 := k4.trans (settleTimers_still p d)
  have h5 : Held g (settleHotTimer (settleLubeTimer p (settleConfirm p d))) := h4.of_link rfl
  generalize settleHotTimer (settleLubeTimer p (settleConfirm p d)) = e at *
  have k6 := k5.trans (settleEligible_still p e)
  have h6 := h5.settleEligible (p := p) hg
  generalize Machine.settleEligible p e = f at *
  have k7 := k6.trans (settleWatch_still (k6.quiet q))
  have h7 : Held g (settleWatch p f) := h6.of_link (settleWatch_link (k6.quiet q))
  generalize settleWatch p f = w at *
  rw [settleGrant_quiet (k7.quiet q)]
  exact h7.of_link rfl

/-- In a quiet state a frame other than a DEMAND, a STEP or a layover frame still waits after `settle`. -/
theorem Held.settle (h : Held g s) (hg : txKind g ∉ [5, 6, 7, 8]) (q : Quiet p s) :
    Held g (settle p s) := by
  have s1 := settleRound_still q
  have s2 := settleRound_still (s1.quiet q)
  have h1 := h.settleRound hg q
  have h2 := h1.settleRound hg (s1.quiet q)
  exact h2.settleRound hg (s2.quiet (s1.quiet q))

end Held

end Sys2Proof.Machine
end

