-- ==== Sys2Proof/Laws/After.lean ====
section
/-! SUPPORT. After.lean: the values `settle` leaves behind: the hot cap and the other caps, the target row, and a
LOAD-PERMIT command only in RUNNING. -/

namespace Sys2Proof.Machine

variable {s t u : State} {p : Params}

/-! ### What stands once the caps and the stepper have been judged -/

/-- The items of the protection unit and the stepper that nothing after `settleCaps`, or after the stepper, writes
again in the same round. -/
structure CapsHeld (s t : State) : Prop where
  hot : t.prot.hotCap = s.prot.hotCap
  stale : t.prot.lubeStaleCap = s.prot.lubeStaleCap
  ground : t.prot.groundCap = s.prot.groundCap
  available : t.prot.available = s.prot.available

theorem CapsHeld.refl (s : State) : CapsHeld s s := ⟨rfl, rfl, rfl, rfl⟩

theorem CapsHeld.trans (h : CapsHeld s t) (k : CapsHeld t u) : CapsHeld s u :=
  ⟨k.hot.trans h.hot, k.stale.trans h.stale, k.ground.trans h.ground,
    k.available.trans h.available⟩

theorem requestFrame_caps (f : TxFrame) (s : State) : CapsHeld s (requestFrame f s) := by
  constructor <;> simp

theorem CapsHeld.ite {c : Prop} [Decidable c] (h : CapsHeld s t) (k : CapsHeld s u) :
    CapsHeld s (if c then t else u) := by
  split <;> assumption

theorem changeLayover_caps (b e : EngineState) (s : State) : CapsHeld s (changeLayover b e s) := by
  unfold changeLayover
  dsimp only
  split <;> exact ⟨rfl, rfl, rfl, rfl⟩

theorem enterState_caps (e : EngineState) (s : State) : CapsHeld s (enterState e s) := by
  unfold enterState
  dsimp only
  have h1 : CapsHeld s { s with seq := changeSequencer (stateReached s e) s.seq } :=
    ⟨rfl, rfl, rfl, rfl⟩
  generalize ({ s with seq := changeSequencer (stateReached s e) s.seq } : State) = a at *
  refine CapsHeld.trans ?_ (changeLayover_caps _ _ _)
  have h2 : CapsHeld s (if s.seq.engine = .running ∧ stateReached s e ≠ .running then clearStepper a
      else a) := CapsHeld.ite (h1.trans ⟨rfl, rfl, rfl, rfl⟩) h1
  exact CapsHeld.ite (h2.trans ⟨rfl, rfl, rfl, rfl⟩) h2

theorem enterPrep_caps (s : State) : CapsHeld s (enterPrep s) := by
  unfold enterPrep postOwnClaim
  refine CapsHeld.trans (enterState_caps (.starting .prep) s)
    (CapsHeld.trans ?_ (requestFrame_caps _ _))
  exact ⟨rfl, rfl, rfl, rfl⟩

theorem startRequest_caps (p : Params) (l : Level) (s : State) : CapsHeld s (startRequest p l s) := by
  unfold startRequest
  split
  · refine CapsHeld.trans ?_ (enterPrep_caps _)
    exact ⟨rfl, rfl, rfl, rfl⟩
  · exact CapsHeld.refl s

theorem settleRow_caps (p : Params) (s : State) : CapsHeld s (settleRow p s) := by
  unfold settleRow
  split
  · exact CapsHeld.refl s
  · split
    · exact ⟨rfl, rfl, rfl, rfl⟩
    · exact CapsHeld.refl s

theorem settleSteps_caps (p : Params) : ∀ (n : Nat) (s : State), CapsHeld s (settleSteps p n s)
  | 0, s => CapsHeld.refl s
  | n + 1, s => by
    unfold settleSteps
    split
    · exact CapsHeld.refl s
    · rename_i r _
      split
      · refine CapsHeld.trans ?_ (settleSteps_caps p n _)
        refine CapsHeld.trans (t := stepUp r s) ?_ ?_
        · exact CapsHeld.trans (t := moveRow (rowUp r) s.step.loadRow s) ⟨rfl, rfl, rfl, rfl⟩
            (requestFrame_caps _ _)
        · exact CapsHeld.trans (t := settleLubeTimer p (stepUp r s)) ⟨rfl, rfl, rfl, rfl⟩
            (settleRow_caps p _)
      · split
        · refine CapsHeld.trans ?_ (settleSteps_caps p n _)
          exact CapsHeld.trans (t := settleLubeTimer p (stepDown r s)) ⟨rfl, rfl, rfl, rfl⟩
            (settleRow_caps p _)
        · exact CapsHeld.refl s

theorem settleReport_caps (s : State) : CapsHeld s (settleReport s) := by
  unfold settleReport
  split
  · exact ⟨rfl, rfl, rfl, rfl⟩
  · exact CapsHeld.refl s

theorem settleStepper_caps (p : Params) (s : State) : CapsHeld s (settleStepper p s) := by
  have h1 : CapsHeld s (settleTarget (settleLowIdle p s)) := ⟨rfl, rfl, rfl, rfl⟩
  have h2 := h1.trans (settleReport_caps _)
  have h3 := h2.trans (settleSteps_caps p 9 _)
  exact h3.trans ⟨rfl, rfl, rfl, rfl⟩

theorem settlePrelube_caps (p : Params) (s : State) : CapsHeld s (settlePrelube p s) := by
  unfold settlePrelube
  split
  · exact ⟨rfl, rfl, rfl, rfl⟩
  · exact CapsHeld.refl s

theorem settleEligible_caps (p : Params) (s : State) : CapsHeld s (settleEligible p s) := by
  unfold settleEligible
  have h (l : LayoverUnit) : CapsHeld s { s with layover := l } := ⟨rfl, rfl, rfl, rfl⟩
  dsimp only
  split
  · unfold cancelIntent
    dsimp only
    split
    · exact ⟨rfl, rfl, rfl, rfl⟩
    · exact (h _).trans (requestFrame_caps _ _)
  · split
    · exact (h _).trans (requestFrame_caps _ _)
    · exact h _

theorem settleWatch_caps (p : Params) (s : State) : CapsHeld s (settleWatch p s) := by
  unfold settleWatch
  have h (l : LayoverUnit) : CapsHeld s { s with layover := l } := ⟨rfl, rfl, rfl, rfl⟩
  split
  · exact CapsHeld.refl s
  · dsimp only
    split
    · exact h _
    · split
      · exact (h _).trans (startRequest_caps p _ _)
      · exact h _

theorem settleGrant_caps (p : Params) (s : State) : CapsHeld s (settleGrant p s) := by
  unfold settleGrant enterCrank
  split
  · refine CapsHeld.trans ?_ (requestFrame_caps _ _)
    exact ⟨rfl, rfl, rfl, rfl⟩
  · exact CapsHeld.refl s

/-- The caps a round leaves are those `settleCaps` found. -/
theorem settleRound_caps (p : Params) (s : State) :
    CapsHeld (settleCaps p (settleOwnRecord p (settleArrival p s))) (settleRound p s) := by
  unfold settleRound
  dsimp only
  generalize settleCaps p (settleOwnRecord p (settleArrival p s)) = a
  have h1 : CapsHeld a (settleMakeUp p a) := ⟨rfl, rfl, rfl, rfl⟩
  have h2 := h1.trans (settleStepper_caps p _)
  have h3 := h2.trans (settlePrelube_caps p _)
  generalize settlePrelube p (settleStepper p (settleMakeUp p a)) = b at *
  have h4 : CapsHeld a (settleHotTimer (settleLubeTimer p (settleConfirm p b))) :=
    h3.trans ⟨rfl, rfl, rfl, rfl⟩
  have h5 := (h4.trans (settleEligible_caps p _)).trans (settleWatch_caps p _)
  generalize settleWatch p (settleEligible p (settleHotTimer (settleLubeTimer p
    (settleConfirm p b)))) = c at *
  have h6 := h5.trans (settleGrant_caps p _)
  exact h6.trans ⟨rfl, rfl, rfl, rfl⟩

/-- After `settle` the hot cap is the least cap of the latches that are set (R44). -/
theorem settle_hotCap (p : Params) (s : State) :
    (settle p s).prot.hotCap = hotCapOf p s.prot.derate1 s.prot.derate2 s.prot.hotStop := by
  have h1 := settleRound_kept p s
  have h2 := h1.trans (settleRound_kept p _)
  have h3 := h2.trans ((settleArrival_kept p _).trans (settleOwnRecord_kept p _))
  have hc := (settleRound_caps p (settleRound p (settleRound p s))).hot
  rw [show settle p s = settleRound p (settleRound p (settleRound p s)) from rfl, hc,
    ← h3.derate1, ← h3.derate2, ← h3.hotStop]
  rfl

/-! ### LOAD-PERMIT -/

theorem startRequest_running (p : Params) (l : Level) (h : s.seq.engine = .running) :
    startRequest p l s = s := startRequest_refused (by rw [h]; simp)

/-- What follows the stepper in a round leaves the stepper, and a RUNNING station RUNNING. -/
structure StepHeld (s t : State) : Prop where
  step : t.step = s.step
  running : s.seq.engine = .running → t.seq.engine = .running

theorem StepHeld.refl (s : State) : StepHeld s s := ⟨rfl, id⟩

theorem StepHeld.trans (h : StepHeld s t) (k : StepHeld t u) : StepHeld s u :=
  ⟨k.step.trans h.step, k.running ∘ h.running⟩

/-- A change between two states other than RUNNING leaves the stepper. -/
theorem enterState_step {e : EngineState} (h : s.seq.engine ≠ .running)
    (h' : stateReached s e ≠ .running) : (enterState e s).step = s.step := by
  unfold enterState changeLayover endIntent
  simp only [h, h', false_and, if_false, ne_eq, not_false_eq_true, and_false]
  split <;> rfl

theorem enterPrep_step (h : s.seq.engine ≠ .running) : (enterPrep s).step = s.step := by
  have h1 : (enterState (.starting .prep) s).step = s.step :=
    enterState_step h (by unfold stateReached; simp)
  unfold enterPrep postOwnClaim requestMade
  simp [h1]

theorem startRequest_held (p : Params) (l : Level) (s : State) : StepHeld s (startRequest p l s) := by
  by_cases h : s.seq.engine = .running
  · rw [startRequest_running p l h]; exact StepHeld.refl s
  · refine ⟨?_, fun h' => absurd h' h⟩
    unfold startRequest
    split
    · exact enterPrep_step h
    · rfl

theorem settleWatch_held (p : Params) (s : State) : StepHeld s (settleWatch p s) := by
  unfold settleWatch
  have h (l : LayoverUnit) : StepHeld s { s with layover := l } := ⟨rfl, id⟩
  split
  · exact StepHeld.refl s
  · dsimp only
    split
    · exact h _
    · split
      · exact (h _).trans (startRequest_held p _ _)
      · exact h _

theorem settleGrant_held (p : Params) (s : State) : StepHeld s (settleGrant p s) := by
  unfold settleGrant
  split
  · rename_i hg
    have hp : s.seq.engine = .starting .prep := by
      have : s.seq.engine == .starting .prep := by
        unfold grantHolds at hg
        simp only [Bool.and_eq_true] at hg
        exact hg.1.1.1.1.1.1.1
      simpa using this
    refine ⟨?_, fun h => absurd (hp.symm.trans h) (by simp)⟩
    unfold enterCrank requestMade
    simp [enterPhase, closePhase]
  · exact StepHeld.refl s

theorem settleEligible_held (p : Params) (s : State) : StepHeld s (settleEligible p s) := by
  unfold settleEligible
  have h (l : LayoverUnit) : StepHeld s { s with layover := l } := ⟨rfl, id⟩
  have hr (f : TxFrame) (u : State) : StepHeld u (requestFrame f u) := ⟨by simp, by simp⟩
  dsimp only
  split
  · unfold cancelIntent
    dsimp only
    split
    · exact ⟨rfl, id⟩
    · exact (h _).trans (hr _ _)
  · split
    · exact (h _).trans (hr _ _)
    · exact h _

theorem settlePrelube_held (p : Params) (s : State) : StepHeld s (settlePrelube p s) := by
  unfold settlePrelube
  split
  · exact ⟨rfl, id⟩
  · exact StepHeld.refl s

/-- A round leaves a LOAD-PERMIT command only in RUNNING (R92). -/
theorem settleRound_loadPermit (p : Params) (s : State)
    (h : (settleRound p s).step.loadPermit = true) : (settleRound p s).seq.engine = .running := by
  unfold settleRound at h ⊢
  dsimp only at h ⊢
  generalize settleMakeUp p (settleCaps p (settleOwnRecord p (settleArrival p s))) = a at *
  have hl : (settleStepper p a).step.loadPermit = true →
      (settleStepper p a).seq.engine = .running := by
    intro h
    rw [settleStepper_loadPermit] at h
    unfold loadPermitHolds isRunning at h
    simp only [Bool.and_eq_true] at h
    exact eq_of_beq h.1.1.1.1
  generalize settleStepper p a = c at *
  have h4 : StepHeld c (settleHotTimer (settleLubeTimer p (settleConfirm p (settlePrelube p c)))) :=
    (settlePrelube_held p c).trans ⟨rfl, id⟩
  have h5 := (h4.trans (settleEligible_held p _)).trans (settleWatch_held p _)
  generalize settleWatch p (settleEligible p (settleHotTimer (settleLubeTimer p
    (settleConfirm p (settlePrelube p c))))) = d at *
  have h6 := h5.trans (settleGrant_held p _)
  have h7 : (settleGrant p d).step.loadPermit = true := h
  rw [h6.step] at h7
  exact h6.running (hl h7)

/-- After `settle` a station that is not RUNNING has no LOAD-PERMIT command of the stepper's. -/
theorem settle_loadPermit (p : Params) (s : State) (h : (settle p s).seq.engine ≠ .running) :
    (settle p s).step.loadPermit = false := by
  cases hb : (settle p s).step.loadPermit
  · rfl
  · exact absurd (settleRound_loadPermit p (settleRound p (settleRound p s)) hb) h

/-- After `settle` every on/off output is off where the trip latch is set (R54, R148). -/
theorem settle_allOff_of_latch (h : s.prot.tripLatch = true) : allOff (settle p s) := by
  intro out
  rw [(settle_outputs p s).1 out]
  have : (settle p s).prot.tripLatch = true := by rw [(settle_kept p s).tripLatch, h]
  unfold resolvedCommand protectionOff
  simp [this]

/-- After `settle` every on/off output is off in a state in which the sequencer commands none (R34, R35). -/
theorem settle_allOff (h : (settle p s).seq.engine ≠ .running)
    (hs : ∀ phase, (settle p s).seq.engine ≠ .starting phase) : allOff (settle p s) := by
  intro out
  rw [(settle_outputs p s).1 out]
  have hl := settle_loadPermit p s h
  unfold resolvedCommand
  cases out
  case loadPermit => simp [hl]
  all_goals
    unfold sequencerCommand
    cases he : (settle p s).seq.engine <;> simp_all

/-! ### Arrival at rest (R34) -/

theorem enterPrep_engine (s : State) : (enterPrep s).seq.engine = .starting .prep := by
  unfold enterPrep postOwnClaim requestMade
  simp

theorem arriveAt_engine (d : StopDest) (s : State) :
    (arriveAt d s).seq.engine = match d with
      | .stopped => stoppedEngine s
      | .retryWait => .retryWait
      | .lockedOut r => .lockedOut r
      | .layover => .layover
      | .prep => .starting .prep := by
  cases d
  · unfold arriveAt stoppedEngine
    rw [enterState_engine]
    unfold stateReached linkSilent
    simp
  · simp [arriveAt]
  · simp [arriveAt]
  · simp [arriveAt]
  · exact enterPrep_engine s

theorem settleArrival_of_not_stopping (h : ∀ d, s.seq.engine ≠ .stopping d) :
    settleArrival p s = s := by
  unfold settleArrival
  split
  · rename_i d hd; exact absurd hd (h d)
  · rfl

/-- A STOPPING station at rest settles its outputs as STOPPING has them, and then as the state it arrives at does. -/
theorem settle_arrival {d : StopDest} (h : s.seq.engine = .stopping d) (hr : atRest p s = true) :
    settle p s = settle p (arriveAt d (settleOutputs p s)) := by
  have h1 : settleArrival p s = arriveAt d (settleOutputs p s) := by
    unfold settleArrival
    rw [h]
    simp [hr]
  have h2 : settleArrival p (arriveAt d (settleOutputs p s)) = arriveAt d (settleOutputs p s) := by
    apply settleArrival_of_not_stopping
    intro e he
    rw [arriveAt_engine] at he
    cases d <;> simp [stoppedEngine] at he
    split at he <;> simp at he
  have h3 : settleRound p s = settleRound p (arriveAt d (settleOutputs p s)) := by
    unfold settleRound
    rw [h1, h2]
  unfold settle
  rw [h3]

end Sys2Proof.Machine
end

