-- ==== Sys2Proof/Laws/Standing.lean ====
section
/-! SUPPORT. Standing.lean: what stands once every block has judged its conditions: `settle` leaves a state that is
`Standing`, whatever state it began with. -/

namespace Sys2Proof.Machine

variable {s t u : State} {p : Params}

/-! ### The conditions, as the statements spell them -/

theorem timerWhile_isSome (holds : Bool) (t : Timer) : (timerWhile holds t).isSome = holds := by
  cases holds <;> rfl

theorem freshAtLeast_iff {c : ChannelState} {b : Int} :
    freshAtLeast c b = true ↔ ∃ v, freshValue c = some v ∧ b ≤ v := by
  unfold freshAtLeast
  cases freshValue c <;> simp

theorem isRunning_iff : isRunning s = true ↔ s.seq.engine = .running := by
  unfold isRunning; simp

theorem lubeTripHolds_iff : lubeTripHolds p s = true ↔ s.seq.engine = .running
    ∧ ∃ (v : Int) (r : Row), freshValue s.meas.lube = some v ∧ s.step.current = some r
        ∧ v < ((rowOf (tableInForce p s) r).lubeMin : Int) := by
  unfold lubeTripHolds
  rw [Bool.and_eq_true, isRunning_iff]
  cases freshValue s.meas.lube <;> cases s.step.current <;> simp

theorem hotStopHolds_iff : hotStopHolds s = true ↔ s.seq.engine = .running ∧ s.prot.hotStop = true
    ∧ ∃ v, freshValue s.meas.cool = some v := by
  unfold hotStopHolds
  rw [Bool.and_eq_true, Bool.and_eq_true, isRunning_iff, Option.isSome_iff_exists]
  tauto

theorem confirmHolds_iff : confirmHolds p s = true ↔ s.seq.engine = .starting .confirm ∧ s.seq.inBand = true
    ∧ ∃ v : Int, freshValue s.meas.lube = some v ∧ ((profileOf p s).confirmLube : Int) ≤ v := by
  unfold confirmHolds
  rw [Bool.and_eq_true, Bool.and_eq_true, freshAtLeast_iff, beq_iff_eq, and_assoc]

theorem lowIdleHolds_iff : lowIdleHolds p s = true ↔ p.step.lowIdleEnable = true ∧ s.seq.engine = .running
    ∧ (demandInForce s).row = 1 ∧ (demandInForce s).centred = true ∧ s.meas.tempClass ≠ .cold := by
  unfold lowIdleHolds
  simp only [Bool.and_eq_true, isRunning_iff, beq_iff_eq, bne_iff_ne, and_assoc]

theorem loadPermitHolds_iff : loadPermitHolds p s = true ↔ s.seq.engine = .running ∧ isolated s = false
    ∧ (demandInForce s).centred = false ∧ lineOn p s .groundRelay = false
    ∧ ∃ r, s.step.loadRow = some r ∧ 2 ≤ r.val := by
  unfold loadPermitHolds
  simp only [Bool.and_eq_true, isRunning_iff, Bool.not_eq_true', and_assoc]
  cases s.step.loadRow <;> simp

theorem eligibleNow_iff : eligibleNow p s = true ↔ p.layover.enable = true ∧ s.seq.engine = .running
    ∧ (s.step.current = some 0 ∨ s.step.current = some 1)
    ∧ demandInForce s = { row := 1, centred := true, brake := true }
    ∧ (∃ v, freshValue s.meas.cool = some v ∧ p.layover.coolMin ≤ v)
    ∧ (∃ v : Int, freshValue s.meas.batt = some v ∧ (p.layover.battMin : Int) ≤ v)
    ∧ (∃ v : Int, freshValue s.meas.resv = some v ∧ (p.layover.resvMin : Int) ≤ v)
    ∧ demandConflict s = false ∧ linkSilent s = false := by
  unfold eligibleNow
  rw [← freshAtLeast_iff, ← freshAtLeast_iff, ← freshAtLeast_iff]
  generalize demandInForce s = d
  obtain ⟨row, centred, brake⟩ := d
  simp only [Bool.and_eq_true, Bool.or_eq_true, isRunning_iff, Bool.not_eq_true', beq_iff_eq, and_assoc,
    DemandInForce.mk.injEq]

theorem timerReached_iff {t : Timer} {ms : Nat} : timerReached t ms = true ↔ ∃ us, t = some us ∧ ms * 1000 ≤ us := by
  unfold timerReached
  cases t <;> simp

/-- R89: the hold runs after its judgement exactly while only a peer ahead holds the step up back. -/
theorem settleStaggerHold_iff (p : Params) (s : State) :
    (settleStaggerHold p s).step.staggerHold.isSome = true ↔ heldBack p s := by
  have h : (settleStaggerHold p s).step.staggerHold.isSome = (match s.step.current with
      | none => false
      | some r => stepUpReady p s r && staggerPassed p s && peerAhead p s r) := timerWhile_isSome _ _
  rw [h]
  unfold heldBack
  cases hc : s.step.current with
  | none => simp
  | some r =>
    have hp : staggerPassed p s = true
        ↔ s.step.stagger = none ∨ ∃ us, s.step.stagger = some us ∧ p.step.stagger * 1000 ≤ us := by
      unfold staggerPassed
      cases s.step.stagger <;> simp [timerReached_iff]
    have ha : peerAhead p s r = true ↔ ∃ e ∈ s.roster.entries, ∃ c, e.status = some c ∧ c.engine = .running
        ∧ c.isolated = false ∧ c.current = some r ∧ (∃ g, c.target = some g ∧ r.val < g.val) ∧ e.unit < p.unit := by
      unfold peerAhead entryAhead
      simp only [List.any_eq_true]
      refine exists_congr fun e => and_congr_right fun _ => ?_
      cases e.status with
      | none => simp
      | some c =>
        simp only [Bool.and_eq_true, beq_iff_eq, Bool.not_eq_true', decide_eq_true_eq, Option.some.injEq,
          exists_eq_left', and_assoc]
        cases c.target <;> simp
    unfold stepUpReady
    simp only [Bool.and_eq_true, hp, ha, timerReached_iff, and_assoc]
    cases s.step.target with
    | none => simp
    | some g =>
      simp only [decide_eq_true_eq, Option.some.injEq]
      constructor
      · rintro ⟨h1, h2⟩
        exact ⟨r, g, rfl, rfl, h1, h2⟩
      · rintro ⟨r', g', rfl, rfl, h1, h2⟩
        exact ⟨h1, h2⟩

/-- R142: the level the restart watch takes is the standing one. -/
theorem standingLevel_stands (p : Params) (s : State) : LevelStands p s (standingLevel p s) := by
  have hs : (∃ cool batt resv : Int,
      freshValue s.meas.cool = some cool ∧ p.layover.restartTemp < cool
        ∧ freshValue s.meas.batt = some batt ∧ (p.layover.restartVolt : Int) < batt
        ∧ freshValue s.meas.resv = some resv ∧ (p.layover.restartPress : Int) < resv)
      ↔ freshAtLeast s.meas.cool (p.layover.restartTemp + 1) = true
        ∧ freshAtLeast s.meas.batt (p.layover.restartVolt + 1) = true
        ∧ freshAtLeast s.meas.resv (p.layover.restartPress + 1) = true := by
    rw [freshAtLeast_iff, freshAtLeast_iff, freshAtLeast_iff]
    constructor
    · rintro ⟨c, b, r, hc, hc', hb, hb', hr, hr'⟩
      exact ⟨⟨c, hc, hc'⟩, ⟨b, hb, hb'⟩, ⟨r, hr, hr'⟩⟩
    · rintro ⟨⟨c, hc, hc'⟩, ⟨b, hb, hb'⟩, ⟨r, hr, hr'⟩⟩
      exact ⟨c, b, r, hc, hc', hb, hb', hr, hr'⟩
  have hl : (!freshAtLeast s.meas.cool (p.layover.restartTemp + 1)
        || !freshAtLeast s.meas.batt (p.layover.restartVolt + 1)
        || !freshAtLeast s.meas.resv (p.layover.restartPress + 1)) = true
      ↔ ¬(freshAtLeast s.meas.cool (p.layover.restartTemp + 1) = true
        ∧ freshAtLeast s.meas.batt (p.layover.restartVolt + 1) = true
        ∧ freshAtLeast s.meas.resv (p.layover.restartPress + 1) = true) := by
    simp only [Bool.or_eq_true, Bool.not_eq_true']
    grind
  have hd : (decide (1 < (demandInForce s).row.val) || !(demandInForce s).centred || !(demandInForce s).brake) = true
      ↔ ¬((demandInForce s).row.val ≤ 1 ∧ (demandInForce s).centred = true ∧ (demandInForce s).brake = true) := by
    simp only [Bool.or_eq_true, Bool.not_eq_true', decide_eq_true_eq]
    grind
  unfold LevelStands standingLevel
  simp only [hs, hl, hd, decide_eq_true_eq]
  refine ⟨fun h => if_pos h, fun h k => ?_, fun h k q => ?_, fun h k q => ?_⟩
  · rw [if_neg (not_not.mpr h), if_pos k]
  · rw [if_neg (not_not.mpr h), if_neg (not_not.mpr k), if_pos q]
  · rw [if_neg (not_not.mpr h), if_neg (not_not.mpr k), if_neg (Nat.not_lt.mpr q)]

/-! ### The make-up row's bound (R131) -/

theorem highestRow_le (t : Config.NotchTable) (target : Nat) (low : Row) : ∀ n,
    (highestRow t target low n).val ≤ low.val + n
  | 0 => Nat.le_refl _
  | n + 1 => by
    unfold highestRow
    dsimp only
    split
    · show (min (low.val + n + 1) 9) % 10 ≤ low.val + (n + 1)
      omega
    · have := highestRow_le t target low n
      omega

/-- R131: a make-up row is at most M rows above the demand row. -/
theorem makeUpRowOf_le {t : Config.NotchTable} {h v r : Row} {extra : Nat}
    (hr : makeUpRowOf p t h v extra = some r) : r.val ≤ h.val + p.step.makeUpLimit := by
  have top : (makeUpTop p h v).val ≤ h.val + p.step.makeUpLimit := by
    unfold makeUpTop rowMin
    have : ((Fin.ofNat 10 (min (h.val + p.step.makeUpLimit) 9)) : Row).val ≤ h.val + p.step.makeUpLimit := by
      show (min (h.val + p.step.makeUpLimit) 9) % 10 ≤ _
      omega
    split <;> omega
  unfold makeUpRowOf at hr
  dsimp only at hr
  split at hr
  · cases hr
  · split at hr
    · cases hr
    · cases hr
      refine Nat.le_trans (highestRow_le _ _ _ _) ?_
      omega

theorem makeUpRun_row {r : Row} (h : (makeUpRun p s).row = some r) :
    r.val ≤ (demandInForce s).row.val + p.step.makeUpLimit := makeUpRowOf_le h

/-! ### What the stepper leaves -/

/-- What the judgements read that the stepper leaves as it is, but for its own items and the laboring cap. -/
structure Viewed (s t : State) : Prop where
  reader : t.reader = s.reader
  meas : t.meas = s.meas
  roster : t.roster = s.roster
  demand : t.demand = s.demand
  makeUp : t.makeUp = s.makeUp
  available : t.prot.available = s.prot.available
  link : t.link.state = s.link.state
  engine : t.seq.engine = s.seq.engine
  target : t.step.target = s.step.target
  lowIdleTimer : t.step.lowIdleTimer = s.step.lowIdleTimer
  lowIdleReached : t.step.lowIdleReached = s.step.lowIdleReached

theorem Viewed.refl (s : State) : Viewed s s := ⟨rfl, rfl, rfl, rfl, rfl, rfl, rfl, rfl, rfl, rfl, rfl⟩

theorem Viewed.trans (h : Viewed s t) (k : Viewed t u) : Viewed s u where
  reader := k.reader.trans h.reader
  meas := k.meas.trans h.meas
  roster := k.roster.trans h.roster
  demand := k.demand.trans h.demand
  makeUp := k.makeUp.trans h.makeUp
  available := k.available.trans h.available
  link := k.link.trans h.link
  engine := k.engine.trans h.engine
  target := k.target.trans h.target
  lowIdleTimer := k.lowIdleTimer.trans h.lowIdleTimer
  lowIdleReached := k.lowIdleReached.trans h.lowIdleReached

theorem settleRow_viewed (p : Params) (s : State) : Viewed s (settleRow p s) := by
  unfold settleRow
  split
  · exact Viewed.refl s
  · split
    · exact ⟨rfl, rfl, rfl, rfl, rfl, rfl, rfl, rfl, rfl, rfl, rfl⟩
    · exact Viewed.refl s

theorem afterStep_viewed (p : Params) (s : State) : Viewed s (afterStep p s) :=
  Viewed.trans (t := settleLubeTimer p s) ⟨rfl, rfl, rfl, rfl, rfl, rfl, rfl, rfl, rfl, rfl, rfl⟩
    (settleRow_viewed p _)

theorem stepUp_viewed (r : Row) (s : State) : Viewed s (stepUp r s) := by
  unfold stepUp requestMade moveRow
  constructor <;> simp

theorem settleSteps_viewed (p : Params) : ∀ (n : Nat) (s : State), Viewed s (settleSteps p n s)
  | 0, s => Viewed.refl s
  | n + 1, s => by
    unfold settleSteps
    split
    · exact Viewed.refl s
    · rename_i r _
      split
      · exact ((stepUp_viewed r s).trans (afterStep_viewed p _)).trans (settleSteps_viewed p n _)
      · split
        · have h : Viewed s (stepDown r s) := ⟨rfl, rfl, rfl, rfl, rfl, rfl, rfl, rfl, rfl, rfl, rfl⟩
          exact (h.trans (afterStep_viewed p _)).trans (settleSteps_viewed p n _)
        · exact Viewed.refl s

/-- R78, R77, R89, R92: after the stepper its low-idle timer runs exactly while the condition holds, the target is that
of the make-up row, the stagger hold runs only while a peer ahead holds a step back, and the LOAD-PERMIT command is
that of its condition. -/
structure Stepped (p : Params) (s : State) : Prop where
  lowIdle : s.step.lowIdleTimer.isSome = lowIdleHolds p s
  lowIdleReached : s.step.lowIdleReached = true → s.step.lowIdleTimer.isSome = true
  makeUp : s.makeUp = makeUpRun p s
  target : s.step.target = if isRunning s then some (targetRow s) else none
  staggerHold : s.step.staggerHold.isSome = true → heldBack p s
  loadPermit : s.step.loadPermit = loadPermitHolds p s

theorem Viewed.lowIdleHolds (h : Viewed s t) : lowIdleHolds p t = lowIdleHolds p s := by
  unfold Machine.lowIdleHolds isRunning demandInForce demandConflict
  rw [h.engine, h.demand, h.meas]

theorem Viewed.makeUpRun (h : Viewed s t) : makeUpRun p t = makeUpRun p s := by
  unfold Machine.makeUpRun ownFigures countedPeers isRunning isolated linkSilent tableInForce lineOn demandInForce
    demandConflict
  rw [h.engine, h.demand, h.available, h.reader, h.link, h.roster]

theorem Viewed.targetRow (h : Viewed s t) : targetRow t = targetRow s := by
  unfold Machine.targetRow computedTarget wantedRow isolated linkSilent lineOn demandInForce demandConflict
  rw [h.demand, h.available, h.reader, h.link, h.makeUp, h.lowIdleReached]

theorem heldBack_congr (h : heldBack p s) (hs : t.step = s.step) (hm : t.meas = s.meas) (hr : t.roster = s.roster)
    (hd : t.demand = s.demand) : heldBack p t := by
  unfold heldBack tableInForce lineOn at h ⊢
  rw [hs, hm, hr, hd]
  exact h

theorem Stepped.viewed (h : Stepped p s) (v : Viewed s t) (hs : t.step = s.step) : Stepped p t where
  lowIdle := by rw [v.lowIdleTimer, v.lowIdleHolds, h.lowIdle]
  lowIdleReached := by rw [v.lowIdleTimer, v.lowIdleReached]; exact h.lowIdleReached
  makeUp := by rw [v.makeUp, v.makeUpRun, h.makeUp]
  target := by
    have hr : isRunning t = isRunning s := by unfold isRunning; rw [v.engine]
    rw [v.target, v.targetRow, hr, h.target]
  staggerHold := by rw [hs]; exact fun k => heldBack_congr (h.staggerHold k) hs v.meas v.roster v.demand
  loadPermit := by
    have hp : loadPermitHolds p t = loadPermitHolds p s := by
      unfold loadPermitHolds isRunning isolated lineOn demandInForce demandConflict
      rw [v.engine, v.reader, v.demand, hs]
    rw [hs, hp, h.loadPermit]

theorem settlePrelube_viewed (p : Params) (s : State) : Viewed s (settlePrelube p s) := by
  unfold settlePrelube
  split
  · exact ⟨rfl, rfl, rfl, rfl, rfl, rfl, rfl, rfl, rfl, rfl, rfl⟩
  · exact Viewed.refl s

theorem settleStepper_stepped (h : s.makeUp = makeUpRun p s) : Stepped p (settleStepper p s) := by
  have h1 : Viewed (settleTarget (settleLowIdle p s)) (settleStepper p s) := by
    have h2 : Viewed (settleTarget (settleLowIdle p s)) (settleReport (settleTarget (settleLowIdle p s))) := by
      unfold settleReport
      split
      · exact ⟨rfl, rfl, rfl, rfl, rfl, rfl, rfl, rfl, rfl, rfl, rfl⟩
      · exact Viewed.refl _
    exact (h2.trans (settleSteps_viewed p 9 _)).trans ⟨rfl, rfl, rfl, rfl, rfl, rfl, rfl, rfl, rfl, rfl, rfl⟩
  have hl : (settleStepper p s).step.lowIdleTimer.isSome = lowIdleHolds p (settleStepper p s) := by
    rw [h1.lowIdleTimer, h1.lowIdleHolds]
    exact timerWhile_isSome _ _
  refine ⟨hl, fun hr => ?_, ?_, ?_, fun hh => ?_, rfl⟩
  · rw [hl, h1.lowIdleHolds]
    rw [h1.lowIdleReached] at hr
    exact (Bool.and_eq_true _ _ ▸ hr : _ ∧ _).1
  · rw [h1.makeUp, h1.makeUpRun]
    exact h
  · rw [h1.target, h1.targetRow, show isRunning (settleStepper p s) = isRunning (settleTarget (settleLowIdle p s)) by
      unfold isRunning; rw [h1.engine]]
    rfl
  · exact (settleStaggerHold_iff p (settleSteps p 9 (settleReport (settleTarget (settleLowIdle p s))))).mp hh

/-! ### What the blocks after the stepper leave -/

/-- What a round's later judgements leave: everything the conditions read, but a start or a grant may take a station
that is not RUNNING to PREP or CRANK. -/
structure Later (s t : State) : Prop where
  reader : t.reader = s.reader
  meas : t.meas = s.meas
  roster : t.roster = s.roster
  demand : t.demand = s.demand
  makeUp : t.makeUp = s.makeUp
  prot : t.prot = s.prot
  step : t.step = s.step
  link : t.link.state = s.link.state
  seq : t.seq = s.seq ∨ s.seq.engine ≠ .running
    ∧ (t.seq.engine = .starting .prep ∨ t.seq.engine = .starting .crank) ∧ t.seq.confirmTimer = none

theorem Later.refl (s : State) : Later s s := ⟨rfl, rfl, rfl, rfl, rfl, rfl, rfl, rfl, .inl rfl⟩

theorem Later.trans (h : Later s t) (k : Later t u) : Later s u where
  reader := k.reader.trans h.reader
  meas := k.meas.trans h.meas
  roster := k.roster.trans h.roster
  demand := k.demand.trans h.demand
  makeUp := k.makeUp.trans h.makeUp
  prot := k.prot.trans h.prot
  step := k.step.trans h.step
  link := k.link.trans h.link
  seq := by
    obtain h1 | ⟨h1, h2⟩ := h.seq
    · obtain k1 | ⟨k1, k2⟩ := k.seq
      · exact .inl (k1.trans h1)
      · exact .inr ⟨h1 ▸ k1, k2⟩
    · obtain k1 | ⟨-, k2⟩ := k.seq
      · exact .inr ⟨h1, k1.symm ▸ h2⟩
      · exact .inr ⟨h1, k2⟩

theorem requestFrame_later (f : TxFrame) (s : State) : Later s (requestFrame f s) := by
  refine ⟨?_, ?_, ?_, ?_, ?_, ?_, ?_, ?_, .inl ?_⟩ <;> simp

theorem layover_later (l : LayoverUnit) (s : State) : Later s { s with layover := l } :=
  ⟨rfl, rfl, rfl, rfl, rfl, rfl, rfl, rfl, .inl rfl⟩

theorem settleEligible_later (p : Params) (s : State) : Later s (settleEligible p s) := by
  unfold settleEligible
  dsimp only
  split
  · unfold cancelIntent
    dsimp only
    split
    · exact layover_later _ s
    · exact (layover_later _ s).trans (requestFrame_later _ _)
  · split
    · exact (layover_later _ s).trans (requestFrame_later _ _)
    · exact layover_later _ s

theorem changeLayover_same (b e : EngineState) (s : State) :
    (changeLayover b e s) = { s with layover := (changeLayover b e s).layover } := by
  unfold changeLayover endIntent
  dsimp only
  split <;> rfl

/-- A change between two states other than RUNNING moves the sequencer and the layover unit only. -/
theorem enterState_same {e : EngineState} (h : s.seq.engine ≠ .running) (h' : stateReached s e ≠ .running) :
    enterState e s = { s with
      seq := changeSequencer (stateReached s e) s.seq, layover := (enterState e s).layover } := by
  unfold enterState
  simp only [h, h', false_and, if_false, ne_eq, not_false_eq_true, and_false]
  exact changeLayover_same _ _ _

theorem startRequest_later (p : Params) (l : Level) (s : State) : Later s (startRequest p l s) := by
  unfold startRequest
  split
  · rename_i h
    have hr : s.seq.engine ≠ .running := by
      rintro he
      rw [he] at h
      simp at h
    unfold enterPrep postOwnClaim requestMade
    rw [enterState_same (by exact hr) (by unfold stateReached; simp)]
    refine Later.trans ?_ (requestFrame_later _ _)
    exact ⟨rfl, rfl, rfl, rfl, rfl, rfl, rfl, rfl, .inr ⟨hr, .inl (by simp [changeSequencer, stateReached]), rfl⟩⟩
  · exact Later.refl s

theorem settleWatch_later (p : Params) (s : State) : Later s (settleWatch p s) := by
  unfold settleWatch
  split
  · exact Later.refl s
  · dsimp only
    split
    · exact layover_later _ s
    · split
      · exact (layover_later _ s).trans (startRequest_later p _ _)
      · exact layover_later _ s

theorem settleGrant_later (p : Params) (s : State) : Later s (settleGrant p s) := by
  unfold settleGrant
  split
  · rename_i hg
    have hp : s.seq.engine = .starting .prep := by
      unfold grantHolds at hg
      simp only [Bool.and_eq_true] at hg
      exact eq_of_beq hg.1.1.1.1.1.1.1
    unfold enterCrank requestMade
    refine Later.trans ?_ (requestFrame_later _ _)
    exact ⟨rfl, rfl, rfl, rfl, rfl, rfl, rfl, rfl, .inr ⟨by rw [hp]; simp, .inr rfl, rfl⟩⟩
  · exact Later.refl s

/-! ### A round -/

/-- R133, R134: `settleEligible` leaves the count and the eligibility of its conditions. -/
theorem settleEligible_judges (p : Params) (s : State) :
    (settleEligible p s).layover.q = countNow p s
      ∧ (settleEligible p s).layover.eligible = eligibleNow p s := by
  unfold settleEligible
  dsimp only
  split
  · unfold cancelIntent requestMade
    dsimp only
    split <;> simp
  · split
    · unfold announceIntent requestMade
      simp
    · exact ⟨rfl, rfl⟩

/-- R143: `settleWatch` leaves the count and the eligibility, and an active watch at the standing level. -/
theorem settleWatch_judges (p : Params) (s : State) :
    (settleWatch p s).layover.q = s.layover.q ∧ (settleWatch p s).layover.eligible = s.layover.eligible
      ∧ ∀ level, (settleWatch p s).layover.watch = .active level → level = standingLevel p s := by
  unfold settleWatch
  split
  · rename_i h
    refine ⟨rfl, rfl, fun level hl => ?_⟩
    rw [h] at hl
    cases hl
  · dsimp only
    split
    · refine ⟨rfl, rfl, fun level hl => ?_⟩
      cases hl
      rfl
    · split
      · unfold startRequest
        split
        · unfold enterPrep postOwnClaim requestMade enterState changeLayover endIntent clearStepper startStepper
          refine ⟨?_, ?_, fun level hl => ?_⟩
          · simp only [requestFrame_layover]; split_ifs <;> rfl
          · simp only [requestFrame_layover]; split_ifs <;> rfl
          · simp [stateReached] at hl
        · refine ⟨rfl, rfl, fun level hl => ?_⟩
          cases hl
          rfl
      · refine ⟨rfl, rfl, fun level hl => ?_⟩
        cases hl
        rfl

theorem settleGrant_layover (p : Params) (s : State) : (settleGrant p s).layover = s.layover := by
  unfold settleGrant enterCrank requestMade
  split
  · simp [enterPhase, closePhase]
  · rfl

theorem Later.running (h : Later s t) : isRunning t = isRunning s := by
  unfold isRunning
  obtain h1 | ⟨h1, h2 | h2, -⟩ := h.seq
  · rw [h1]
  · rw [h2]; simp [h1]
  · rw [h2]; simp [h1]

/-- What was judged by the conditions of R50, R51, R78, R92, R131, R134 and R142 is judged so still. -/
theorem Later.conditions (h : Later s t) : lubeTripHolds p t = lubeTripHolds p s ∧ hotStopHolds t = hotStopHolds s
    ∧ lowIdleHolds p t = lowIdleHolds p s ∧ makeUpRun p t = makeUpRun p s ∧ targetRow t = targetRow s
    ∧ loadPermitHolds p t = loadPermitHolds p s ∧ eligibleNow p t = eligibleNow p s
    ∧ standingLevel p t = standingLevel p s ∧ runningPeers p t = runningPeers p s := by
  have hr := h.running
  have hd : demandInForce t = demandInForce s := by unfold demandInForce demandConflict; rw [h.demand]
  have hi : isolated t = isolated s := by unfold isolated lineOn; rw [h.reader, h.demand]
  have hl : linkSilent t = linkSilent s := by unfold linkSilent; rw [h.link]
  have ht : tableInForce p t = tableInForce p s := by unfold tableInForce lineOn; rw [h.demand]
  have hp : runningPeers p t = runningPeers p s := by unfold runningPeers; rw [h.roster]
  refine ⟨?_, ?_, ?_, ?_, ?_, ?_, ?_, ?_, hp⟩
  · unfold lubeTripHolds; rw [hr, ht, h.meas, h.step]
  · unfold hotStopHolds; rw [hr, h.meas, h.prot]
  · unfold lowIdleHolds; rw [hr, hd, h.meas]
  · unfold makeUpRun ownFigures countedPeers; rw [hr, hd, hi, hl, ht, h.prot, h.roster]
  · unfold targetRow computedTarget wantedRow; rw [hd, hi, hl, h.prot, h.makeUp, h.step]
  · unfold loadPermitHolds lineOn; rw [hr, hd, hi, h.demand, h.step]
  · unfold eligibleNow demandConflict; rw [hr, hd, hl, h.demand, h.meas, h.step]
  · unfold standingLevel; rw [hd, hp, h.meas]

/-- R30: the confirm timer that follows its condition follows it still. -/
theorem Later.confirm (h : Later s t) (hs : s.seq.confirmTimer.isSome = confirmHolds p s) :
    t.seq.confirmTimer.isSome = confirmHolds p t := by
  obtain h1 | ⟨-, h2, h3⟩ := h.seq
  · unfold confirmHolds profileOf at hs ⊢
    rw [h1, h.meas]
    exact hs
  · rw [h3]
    unfold confirmHolds
    obtain h2 | h2 := h2 <;> rw [h2] <;> rfl

/-- After the judgements of the timers the lube trip, hot-stop and confirm timers run exactly while their conditions
hold (R30, R50, R51). -/
structure Timed (p : Params) (s : State) : Prop where
  lube : s.prot.lubeTimer.isSome = lubeTripHolds p s
  hot : s.prot.hotTimer.isSome = hotStopHolds s
  confirm : s.seq.confirmTimer.isSome = confirmHolds p s

theorem settleTimers_timed (p : Params) (s : State) :
    Timed p (settleHotTimer (settleLubeTimer p (settleConfirm p s))) where
  lube := timerWhile_isSome _ _
  hot := timerWhile_isSome _ _
  confirm := timerWhile_isSome _ _

theorem rowMin_val (a b : Row) : (rowMin a b).val = min a.val b.val := by
  unfold rowMin
  split <;> omega

/-- R77: the target row as the statements spell it. -/
theorem targetRow_val (s : State) : (targetRow s).val
    = (let wanted := max (demandInForce s).row.val ((s.makeUp.row.map (·.val)).getD 0)
       let free := min wanted s.prot.available.val
       let held := if isolated s = true ∨ linkSilent s = true then min free 1 else free
       if held = 1 ∧ s.step.lowIdleReached = true then 0 else held) := by
  have hw : (wantedRow s).val = max (demandInForce s).row.val ((s.makeUp.row.map (·.val)).getD 0) := by
    unfold wantedRow
    cases s.makeUp.row with
    | none => simp
    | some r =>
      dsimp only
      split <;> simp <;> omega
  have hc : (computedTarget s).val
      = (if isolated s = true ∨ linkSilent s = true then
          min (min (max (demandInForce s).row.val ((s.makeUp.row.map (·.val)).getD 0)) s.prot.available.val) 1
        else min (max (demandInForce s).row.val ((s.makeUp.row.map (·.val)).getD 0)) s.prot.available.val) := by
    unfold computedTarget
    rw [rowMin_val, rowMin_val, hw]
    by_cases h : isolated s = true ∨ linkSilent s = true
    · have h' : (isolated s || linkSilent s) = true := by simpa using h
      rw [if_pos h, if_pos h']
      rfl
    · have h' : ¬(isolated s || linkSilent s) = true := by simpa using h
      rw [if_neg h, if_neg h']
      have := s.prot.available.isLt
      show min _ 9 = _
      omega
  dsimp only
  rw [← hc]
  unfold targetRow
  by_cases h : computedTarget s = 1 ∧ s.step.lowIdleReached = true
  · rw [if_pos h, if_pos ⟨congrArg Fin.val h.1, h.2⟩]
    rfl
  · rw [if_neg h, if_neg fun k => h ⟨Fin.ext k.1, k.2⟩]

/-- A round leaves its conditions standing. -/
theorem settleRound_standing (p : Params) (s : State) : Standing p (settleRound p s) := by
  have ha : (settleMakeUp p (settleCaps p (settleOwnRecord p (settleArrival p s)))).makeUp
      = makeUpRun p (settleMakeUp p (settleCaps p (settleOwnRecord p (settleArrival p s)))) := rfl
  unfold settleRound
  dsimp only
  generalize settleMakeUp p (settleCaps p (settleOwnRecord p (settleArrival p s))) = a at *
  have hb := settleStepper_stepped ha
  generalize settleStepper p a = b at *
  have hc : Stepped p (settleHotTimer (settleLubeTimer p (settleConfirm p (settlePrelube p b)))) :=
    (hb.viewed (settlePrelube_viewed p b) (settlePrelube_held p b).step).viewed
      ⟨rfl, rfl, rfl, rfl, rfl, rfl, rfl, rfl, rfl, rfl, rfl⟩ rfl
  have ht := settleTimers_timed p (settlePrelube p b)
  generalize settleHotTimer (settleLubeTimer p (settleConfirm p (settlePrelube p b))) = c at *
  obtain ⟨hq, he⟩ := settleEligible_judges p c
  have hd := settleEligible_later p c
  generalize settleEligible p c = d at *
  obtain ⟨hq', he', hw⟩ := settleWatch_judges p d
  have hwd := settleWatch_later p d
  generalize settleWatch p d = w at *
  have hg := settleGrant_later p w
  have hgl := settleGrant_layover p w
  generalize settleGrant p w = g at *
  have hl : Later c (settleLamps (settleOutputs p g)) :=
    ((hd.trans hwd).trans hg).trans ⟨rfl, rfl, rfl, rfl, rfl, rfl, rfl, rfl, .inl rfl⟩
  have hlw : Later d (settleLamps (settleOutputs p g)) :=
    (hwd.trans hg).trans ⟨rfl, rfl, rfl, rfl, rfl, rfl, rfl, rfl, .inl rfl⟩
  have hlay : (settleLamps (settleOutputs p g)).layover = w.layover := hgl
  generalize settleLamps (settleOutputs p g) = t at *
  obtain ⟨kl, kh, ki, km, kt, kp, ke, -, kr⟩ := hl.conditions (p := p)
  have hm : t.makeUp = makeUpRun p t := by rw [hl.makeUp, km, hc.makeUp]
  have hgoal : t.step.target = if isRunning t then some (targetRow t) else none := by
    rw [hl.step, kt, hl.running, hc.target]
  refine
    { lubeTrip := by rw [← lubeTripHolds_iff, kl, ← ht.lube, hl.prot]
      hotStop := by rw [← hotStopHolds_iff, kh, ← ht.hot, hl.prot]
      confirm := by rw [← confirmHolds_iff, hl.confirm ht.confirm]
      lowIdle := by rw [← lowIdleHolds_iff, ki, ← hc.lowIdle, hl.step]
      lowIdleReached := by rw [hl.step]; exact hc.lowIdleReached
      makeUp := hm
      noTarget := fun h => by
        rw [hgoal, if_neg (mt isRunning_iff.mp h)]
      target := fun h => ⟨targetRow t, by rw [hgoal, if_pos (isRunning_iff.mpr h)], targetRow_val t⟩
      targetInLimits := ?_
      staggerHold := by
        rw [hl.step]
        exact fun h => heldBack_congr (hc.staggerHold h) hl.step hl.meas hl.roster hl.demand
      loadPermit := by rw [← loadPermitHolds_iff, kp, ← hc.loadPermit, hl.step]
      quota := fun h => ?_
      eligible := by rw [← eligibleNow_iff, ke, ← he, ← he', ← hlay]
      watch := fun level h => ?_ }
  · intro r hr
    rw [hgoal] at hr
    split at hr
    · cases hr
      have h1 := targetRow_val t
      have h2 : (t.makeUp.row.map (·.val)).getD 0 ≤ (demandInForce t).row.val + p.step.makeUpLimit := by
        cases hrow : t.makeUp.row with
        | none => simp
        | some r => exact makeUpRun_row (hm ▸ hrow)
      dsimp only at h1
      generalize (t.makeUp.row.map (·.val)).getD 0 = m at *
      split at h1 <;> [skip; split at h1] <;> (try split at h1) <;> omega
    · cases hr
  · have hs : linkSilent c = false := by
      have : linkSilent t = linkSilent c := by unfold linkSilent; rw [hl.link]
      rw [← this, h]
    rw [hlay, hq', hq, kr]
    unfold countNow
    rw [hs]
    rfl
  · rw [hlay] at h
    rw [hw level h, ← (hlw.conditions (p := p)).2.2.2.2.2.2.2.1]
    exact standingLevel_stands p t

/-- After `settle` the conditions of every block stand judged. -/
theorem settle_standing (p : Params) (s : State) : Standing p (settle p s) :=
  settleRound_standing p _

end Sys2Proof.Machine
end

