-- ==== Sys2Proof/Laws/Trips.lean ====
section
/-! SUPPORT. Trips.lean: what trips, stops and failures do to the protection unit, the engine state and the claims, and
where `settle` takes them. -/

namespace Sys2Proof.Machine

variable {s t : State} {p : Params}

/-! ### Where `settle` takes an engine state -/

/-- A state with no move of its own is quiet. -/
theorem quiet_of (h1 : ∀ d, s.seq.engine ≠ .stopping d) (h2 : s.seq.engine ≠ .starting .prep)
    (h3 : s.seq.engine ≠ .stopped) (h4 : s.seq.engine ≠ .layover) : Quiet p s :=
  ⟨fun d h => absurd h (h1 d), fun h => absurd h h2,
    fun h => by rcases h with h | h <;> contradiction⟩

theorem settle_engine_quiet (q : Quiet p s) : (settle p s).seq.engine = s.seq.engine :=
  (settle_still q).engine

theorem quiet_stopping {d : StopDest} (h : s.seq.engine = .stopping d) (hr : atRest p s = false) :
    Quiet p s :=
  ⟨fun _ _ => hr, fun h' => (by rw [h] at h'; cases h'), fun h' => (by rw [h] at h'; simp at h')⟩

theorem settle_stopping {d : StopDest} (h : s.seq.engine = .stopping d) (hr : atRest p s = false) :
    (settle p s).seq.engine = .stopping d := by
  rw [settle_engine_quiet (quiet_stopping h hr), h]

/-- A station STOPPING toward LOCKED-OUT is locked out at once where its engine is at rest. -/
theorem settle_stopping_lockedOut {r : LockReason} (h : s.seq.engine = .stopping (.lockedOut r)) :
    (settle p s).seq.engine = if atRest p s then .lockedOut r else .stopping (.lockedOut r) := by
  split
  · rename_i hr
    rw [settle_arrival h hr, settle_engine_quiet, arriveAt_engine]
    apply quiet_of <;> intros <;> rw [arriveAt_engine] <;> simp
  · rename_i hr
    exact settle_stopping h (by simpa using hr)

/-! ### The ends of a claim or a crank -/

@[simp] theorem withdrawClaim_prot : (withdrawClaim s).prot = s.prot := by
  simp [withdrawClaim, requestMade, removeOwnClaim]
@[simp] theorem withdrawClaim_meas : (withdrawClaim s).meas = s.meas := by
  simp [withdrawClaim, requestMade, removeOwnClaim]
@[simp] theorem withdrawClaim_seq : (withdrawClaim s).seq = s.seq := by
  simp [withdrawClaim, requestMade, removeOwnClaim]
@[simp] theorem endCrankCounted_prot (b : Byte) : (endCrankCounted b s).prot = s.prot := by
  simp [endCrankCounted, requestMade, removeOwnClaim, moveToTail]
@[simp] theorem endCrankCounted_meas (b : Byte) : (endCrankCounted b s).meas = s.meas := by
  simp [endCrankCounted, requestMade, removeOwnClaim, moveToTail]
@[simp] theorem endCrankCounted_seq (b : Byte) :
    (endCrankCounted b s).seq = { s.seq with crankCount := s.seq.crankCount + 1 } := by
  simp [endCrankCounted, requestMade, removeOwnClaim, moveToTail]
@[simp] theorem endCrankCounted_arb (b : Byte) :
    (endCrankCounted b s).arb = { s.arb with
      claims := dropClaim .own s.arb.claims, claimTimer := none, overlapTimer := none
      rotation := toTail .own s.arb.rotation, crossing := [] } := by
  simp [endCrankCounted, requestMade, removeOwnClaim, moveToTail]
@[simp] theorem endCrankUncounted_prot (b : Byte) : (endCrankUncounted b s).prot = s.prot := by
  simp [endCrankUncounted, requestMade, removeOwnClaim]
@[simp] theorem endCrankUncounted_meas (b : Byte) : (endCrankUncounted b s).meas = s.meas := by
  simp [endCrankUncounted, requestMade, removeOwnClaim]
@[simp] theorem endCrankUncounted_seq (b : Byte) : (endCrankUncounted b s).seq = s.seq := by
  simp [endCrankUncounted, requestMade, removeOwnClaim]
@[simp] theorem endCrankUncounted_arb (b : Byte) :
    (endCrankUncounted b s).arb = { s.arb with
      claims := dropClaim .own s.arb.claims, claimTimer := none, overlapTimer := none } := by
  simp [endCrankUncounted, requestMade, removeOwnClaim]
@[simp] theorem discardKept_prot : (discardKept s).prot = s.prot := by
  unfold discardKept; split <;> simp [requestMade]
@[simp] theorem discardKept_meas : (discardKept s).meas = s.meas := by
  unfold discardKept; split <;> simp [requestMade]
@[simp] theorem discardKept_seq : (discardKept s).seq = { s.seq with keptSerial := none } := by
  unfold discardKept
  split
  · rename_i h; rw [← h]
  · simp [requestMade]
@[simp] theorem discardKept_arb : (discardKept s).arb = s.arb := by
  unfold discardKept; split <;> simp [requestMade]
@[simp] theorem endAttempt_prot (a : AttemptResult) : (endAttempt a s).prot = s.prot := rfl
@[simp] theorem endAttempt_meas (a : AttemptResult) : (endAttempt a s).meas = s.meas := rfl
@[simp] theorem endAttempt_arb (a : AttemptResult) : (endAttempt a s).arb = s.arb := rfl

/-- A change of engine state leaves the measurements and the arbiter. -/
@[simp] theorem enterState_meas (e : EngineState) : (enterState e s).meas = s.meas :=
  (enterState_kept e s).meas
@[simp] theorem enterState_crankCount (e : EngineState) :
    (enterState e s).seq.crankCount = s.seq.crankCount := (enterState_kept e s).crankCount

/-! ### Trips (R37, R54) -/

section Trips
variable (r : LockReason) (src : Option CutSource)

/-- The sequencer's part of a trip leaves the latch, the hold, the record and the compared speed. -/
theorem tripRequest_prot :
    (tripRequest r s).prot.tripLatch = s.prot.tripLatch
      ∧ (tripRequest r s).prot.holdTimer = s.prot.holdTimer
      ∧ (tripRequest r s).prot.record = s.prot.record
      ∧ (tripRequest r s).prot.lastSpeed = s.prot.lastSpeed := by
  have key (e : EngineState) (u : State) (h : u.prot = s.prot) :
      (enterState e u).prot.tripLatch = s.prot.tripLatch
        ∧ (enterState e u).prot.holdTimer = s.prot.holdTimer
        ∧ (enterState e u).prot.record = s.prot.record
        ∧ (enterState e u).prot.lastSpeed = s.prot.lastSpeed := by
    have k := enterState_kept e u
    exact ⟨k.tripLatch.trans (by rw [h]), k.holdTimer.trans (by rw [h]),
      k.tripRecord.trans (by rw [h]), k.lastSpeed.trans (by rw [h])⟩
  unfold tripRequest
  split
  · dsimp only
    apply key
    rw [endAttempt_prot]
    split <;> simp
  · exact key _ s rfl
  · exact key _ s rfl
  · exact key _ s rfl
  · exact key _ s rfl
  · split
    · exact ⟨rfl, rfl, rfl, rfl⟩
    · exact key _ _ discardKept_prot
    · exact key _ s rfl
    · exact key _ s rfl
    · exact key _ s rfl
  · exact ⟨rfl, rfl, rfl, rfl⟩
  · exact ⟨rfl, rfl, rfl, rfl⟩

theorem tripRequest_meas : (tripRequest r s).meas = s.meas := by
  unfold tripRequest
  split
  · dsimp only
    rw [enterState_meas, endAttempt_meas]
    split <;> simp
  all_goals first
    | rfl
    | exact enterState_meas _
    | (split <;> simp)

/-- The engine state a trip sets, before `settle` finds an engine at rest. -/
theorem tripRequest_engine :
    (tripRequest r s).seq.engine = match s.seq.engine with
      | .lockedOut k => .lockedOut k
      | .inhibited k => .inhibited k
      | .stopping (.lockedOut k) => .stopping (.lockedOut k)
      | _ => .stopping (.lockedOut r) := by
  unfold tripRequest
  split
  · rename_i h; rw [h]; simp
  · rename_i h; rw [h]; simp
  · rename_i h; rw [h]; simp
  · rename_i h; rw [h]; simp
  · rename_i h; rw [h]; simp
  · rename_i d h; rw [h]; cases d <;> simp [h]
  · rename_i h; rw [h]
  · rename_i h; rw [h]

theorem settle_tripRequest_engine :
    (settle p (tripRequest r s)).seq.engine = tripEngine p s r := by
  have h := tripRequest_engine (s := s) r
  have hm : atRest p (tripRequest r s) = atRest p s := by unfold atRest; rw [tripRequest_meas]
  unfold tripEngine
  cases he : s.seq.engine with
  | stopping d =>
    rw [he] at h
    cases d <;> simp only at h ⊢ <;> rw [settle_stopping_lockedOut h, hm]
  | lockedOut k =>
    rw [he] at h
    simp only at h ⊢
    rw [settle_engine_quiet, h]
    apply quiet_of <;> intros <;> rw [h] <;> simp
  | inhibited k =>
    rw [he] at h
    simp only at h ⊢
    rw [settle_engine_quiet, h]
    apply quiet_of <;> intros <;> rw [h] <;> simp
  | _ =>
    rw [he] at h
    simp only at h ⊢
    rw [settle_stopping_lockedOut h, hm]

/-- A trip counts the crank it ends. -/
theorem tripRequest_crankCount :
    (tripRequest r s).seq.crankCount = s.seq.crankCount + cranksEnded s := by
  unfold tripRequest cranksEnded
  split
  · rename_i ph h
    dsimp only
    rw [enterState_crankCount, (endAttempt_kept _ _).crankCount, h]
    cases ph <;> simp
  all_goals rename_i h
  case h_6 => rename_i d; rw [h]; cases d <;> simp
  all_goals rw [h]; simp

/-- What a trip writes, outside INHIBITED. -/
theorem trip_prot (h : isInhibited s = false) :
    (trip r src s).prot.tripLatch = true ∧ (trip r src s).prot.holdTimer = some 0
      ∧ (trip r src s).prot.record = some (tripRecordOf r src s)
      ∧ (trip r src s).prot.lastSpeed = s.prot.lastSpeed := by
  unfold trip
  rw [if_neg (by simp [h])]
  exact tripRequest_prot r

/-- A trip that has settled, outside INHIBITED. -/
theorem settle_trip_tripped (h : isInhibited s = false) :
    Tripped (tripRecordOf r src s) (settle p (trip r src s)) := by
  have k := settle_kept p (trip r src s)
  have t := trip_prot r src h
  exact ⟨k.tripRecord.trans t.2.2.1, k.tripLatch.trans t.1, k.holdTimer.trans t.2.1,
    settle_allOff_of_latch t.1⟩

/-- The engine state and the crank count after a trip that has settled, outside INHIBITED. -/
theorem settle_trip_engine (h : isInhibited s = false) :
    (settle p (trip r src s)).seq.engine = tripEngine p s r
      ∧ (settle p (trip r src s)).seq.crankCount = s.seq.crankCount + cranksEnded s := by
  have k := settle_kept p (trip r src s)
  rw [k.crankCount]
  unfold trip
  rw [if_neg (by simp [h])]
  exact ⟨settle_tripRequest_engine r, tripRequest_crankCount r⟩

end Trips

end Sys2Proof.Machine
end

