-- ==== Sys2Proof/WellFormed.lean ====
section
/-! DEFINITION. WellFormed.lean: which commands can come from outside as their rows describe them. exec gives every
command a meaning, the ill-formed ones too (a frame that fails a receive check is discarded, R160). -/

namespace Sys2Proof

/-- A received-frame row is a VALID frame (its row's summary; R160): its length and fields pass R170. -/
def frameWellFormed (c : Content) : Bool := Machine.contentValid c

/-- A peer's unit number is 1 to 31 (00_scope.md, "Unit numbers"). -/
def peerWellFormed (u : UnitNo) : Bool := u != 0

/-- The well-formed commands. A DISCARDED_FRAME row carries bits that fail a receive check (R160). -/
def Instr.wellFormed : Instr → Bool
  | .reset | .memoryAnswer _ | .memoryRequestTimeout | .pickupEdge | .stallTimeout
  | .gateCounterMaximum | .converterSlotEnd | .converterReply _ _ _ | .stalenessTimeout _
  | .inputRawChange _ _ | .debounceTimeout _ | .invalidCodeTimeout | .demandTimeout
  | .demandHoldExpiry | .recentSourceExpiry _ | .prelubeTimeExpiry | .prelubeLimitExpiry
  | .claimSettleExpiry | .joinTimeExpiry | .crankGrant | .rollTimeExpiry | .crankLimitExpiry
  | .fireLimitExpiry | .confirmTimeReached | .confirmLimitExpiry | .recrankIntervalExpiry
  | .turningWatchEnd | .lubeTripDelayExpiry | .hotStopDelayExpiry | .fuelCutHoldExpiry
  | .dwellTimeout | .settleLimitExpiry | .staggerIntervalExpiry | .staggerHoldExpiry
  | .lowIdleTimeExpiry | .overlapWindowExpiry | .layoverIdleTimeExpiry | .intentHoldExpiry
  | .senseRawChange _ _ | .senseDebounceTimeout _ | .mismatchTimeExpiry _ | .statusPeriodExpiry
  | .lineIdle | .arbitrationLost | .transmitError | .frameSentInFull => true
  | .silenceTimeout u | .peerCrankLimitExpiry u => peerWellFormed u
  | .fuelCut _ => frameWellFormed .fuelCut
  | .crankOn _ level serial => frameWellFormed (.crankOn level serial)
  | .crankOff _ result level serial count => frameWellFormed (.crankOff result level serial count)
  | .claim _ level serial => frameWellFormed (.claim level serial)
  | .withdraw _ serial => frameWellFormed (.withdraw serial)
  | .demand _ row reverser brake serial => frameWellFormed (.demand row reverser brake serial)
  | .step _ row => frameWellFormed (.step row)
  | .layoverIntent _ serial => frameWellFormed (.layoverIntent serial)
  | .layoverCancel _ serial => frameWellFormed (.layoverCancel serial)
  | .status _ c => frameWellFormed (.status c)
  | .query _ dest kind part => frameWellFormed (.query dest kind part)
  | .reply _ payload => frameWellFormed (.reply payload)
  | .discardedFrame bits => (Machine.receiveLine bits).isNone

end Sys2Proof
end

