-- ==== Sys2Proof/Tests/Slice0.lean ====
section
/-! SUPPORT. Slice0.lean: the model's own tests. Ill-formed commands that WellFormed refuses; steps checked against the
worked examples of the manual; and for every statement with hypotheses a state that meets them, clause by clause, at
the boundary values. -/

namespace Sys2Proof.Tests

open Sys2Proof.Machine

/-! ### Small states -/

/-- An applied set of the built-in defaults, for unit 5. -/
def setUp : Params :=
  { unit := 5, link := linkDefault, sense := senseDefault, startN := startNDefault, startC := startCDefault
    notch := notchDefault, notchAlt := notchDefault, crank := crankDefault, step := stepDefault
    layover := layoverDefault, protect := protectDefault, lines := linesDefault }

/-- A station with that set applied and its link UP, all else as after reset. -/
def base : State :=
  { State.reset with
    reader := { State.reset.reader with state := .applied, request := none, applied := some setUp }
    link := { State.reset.link with state := .up } }

/-- The base station with other parameters. -/
def withSet (p : Params) : State :=
  { base with reader := { base.reader with applied := some p } }

/-- The base station in an engine state. -/
def inState (e : EngineState) : State := { base with seq := { base.seq with engine := e } }

/-- The station in RUNNING at a row, settled, with a target. -/
def runningAt (current target : Row) : State :=
  { inState .running with step := { base.step with
      current := some current, target := some target, settled := true, dwell := some 0 } }

/-- The station in CRANK, its own claim CRANKING at level DEMAND with serial 7. -/
def cranking : State :=
  { inState (.starting .crank) with arb := { base.arb with
      claims := [{ who := .own, level := .demand, serial := 7, state := .cranking 0 }]
      overlapTimer := some 0 } }

/-- The station in PREP, its own claim WAITING at level DEMAND with serial 7. -/
def preparing : State :=
  { inState (.starting .prep) with arb := { base.arb with
      claims := [{ who := .own, level := .demand, serial := 7, state := .waiting }] } }

/-- A gate in progress, with the pulses counted and the counter. -/
def gateAt (count counter : Nat) (s : State) : State :=
  { s with meas := { s.meas with gate := { state := .timing, count, counter, stall := some 0 } } }

/-- A gate in progress whose stall timer stands at the default stall time. -/
def stallAt (s : State) : State :=
  { s with meas := { s.meas with gate := { state := .timing, count := 1, counter := 0, stall := some 500000 } } }

/-- The state at a speed. -/
def turning (v : Nat) (s : State) : State := { s with meas := { s.meas with speed := v } }

/-- The state with an input line's debounced level. -/
def lineAt (line : InputLine) (level : Bool) (s : State) : State :=
  updateInput line (fun _ => { raw := level, settled := some level, stable := 20000 }) s

/-- The state with an input line due to change to a level. -/
def lineDue (line : InputLine) (level : Bool) (s : State) : State :=
  updateInput line (fun _ => { raw := level, settled := some (!level), stable := 20000 }) s

/-- The state following a DEMAND for a row from unit 1. -/
def followed (row : Row) (s : State) : State :=
  { s with demand := { s.demand with
      source := .current
      remote := some { source := 1, row, centred := false, brake := false, serial := 0 } } }

/-- The state with a channel fresh at a value. -/
def channelAt (ch : Channel) (v : Int) (s : State) : State :=
  setChannel ch { window := [v], value := some v, stale := false, timer := some 0 } s

/-- The state with a converter slot open on a channel whose window holds the given samples. -/
def slotFor (ch : Channel) (window : List Int) (s : State) : State :=
  setChannel ch { window, value := window.getLast?, stale := false, timer := some 0 }
    { s with meas := { s.meas with request := some ch, slot := some 0, taken := false } }

/-- A STATUS content: a peer RUNNING at a row, with no claim and no intent. -/
def statusOf (engine : EngineCode) (current : Option Row) (rated avail headroom : Nat) : StatusContent :=
  { engine, phase := none, dest := none, lockReason := none, attempts := 0, crankCount := 0, current
    target := current, available := some 9, demandRow := some 1, claim := none, intent := none, rated, avail
    headroom, tempClass := .warm, settled := true, stalled := false, lubeStale := false, resvStale := false
    coolStale := false, battStale := false, cabActive := false, isolated := false, derated := false
    laboring := false, ground := false, fuelHold := false, handleFault := false, demandLost := false
    demandConflict := false, rosterFull := false, lineFault := false, configClamped := false }

/-- A roster entry, just heard. -/
def entryFor (unit : UnitNo) (status : Option StatusContent) : RosterEntry :=
  { unit, age := 0, status, lastCount := none, intent := none, lastStep := none }

/-- The state with a roster, and a rotation that holds the station and then its units. -/
def withRoster (entries : List RosterEntry) (s : State) : State :=
  { s with
    roster := { entries, full := false }
    arb := { s.arb with rotation := .own :: entries.map (fun e => .unit e.unit) } }

/-- The next state of a command. -/
def ran (c : Instr) (s : State) : State :=
  match exec c s with
  | .next t => t
  | .fault _ => s
  | .refused _ => s

/-! ### WellFormed: each check refuses an ill-formed command -/

/-- No peer has unit number 0. -/
theorem test_peer_zero_refused :
    (Instr.silenceTimeout 0).wellFormed = false ∧ (Instr.peerCrankLimitExpiry 0).wellFormed = false
      ∧ (Instr.silenceTimeout 1).wellFormed = true := by decide +kernel

/-- R170: levels above 3, results above 4, marks above 1, serials above 15, figures above 1000 and a REPLY of a
wrong length fail the receive checks. -/
theorem test_bad_frames_refused :
    (Instr.crankOn 2 4 0).wellFormed = false ∧ (Instr.crankOff 2 5 0 0 0).wellFormed = false
      ∧ (Instr.demand 2 1 2 0 0).wellFormed = false ∧ (Instr.demand 2 1 0 2 0).wellFormed = false
      ∧ (Instr.demand 2 1 0 0 16).wellFormed = false
      ∧ (Instr.status 2 (statusOf .running (some 1) 1001 0 0)).wellFormed = false
      ∧ (Instr.reply 2 [0, 9]).wellFormed = false ∧ (Instr.reply 2 []).wellFormed = false := by decide +kernel

/-- A DISCARDED_FRAME carries no bits that pass the receive checks. -/
theorem test_valid_bits_refused :
    (Instr.discardedFrame (frameLine (frameOfContent 3 (.withdraw 1)))).wellFormed = false
      ∧ (Instr.discardedFrame []).wellFormed = true := by decide +kernel

/-! ### Worked examples -/

/-- Chapter 1, the gates of 30 pulses with E = 16,667, 3000 and 3663 µs: 899, 4095 and 4095 rpm. (The value before
is 4095, so that no overspeed trip comes with them.) -/
theorem test_gate_examples :
    let s := withSet { setUp with sense := { senseDefault with gate := 30 } }
    let s := { s with prot := { s.prot with lastSpeed := 4095 } }
    (ran .pickupEdge (gateAt 29 16667 s)).meas.speed = 899
      ∧ (ran .pickupEdge (gateAt 29 3000 s)).meas.speed = 4095
      ∧ (ran .pickupEdge (gateAt 29 3663 s)).meas.speed = 4095 := by decide +kernel

/-- R8's examples: COOL 2048 gives 50 °C, RESV 2867 gives 840 kPa, BATT 2000 gives 732. -/
theorem test_scaling_examples :
    (ran (.converterReply .cool 2048 true) (slotFor .cool [] base)).meas.cool.value = some 50
      ∧ (ran (.converterReply .resv 2867 true) (slotFor .resv [] base)).meas.resv.value = some 840
      ∧ (ran (.converterReply .batt 2000 true) (slotFor .batt [] base)).meas.batt.value = some 732 := by
  decide +kernel

/-- Chapter 1, the outage: after the sample 700 the window is 836, 832, 828, 700 and the value 799. RESV's raw
2389 gives 700. -/
theorem test_window_mean :
    let t := ran (.converterReply .resv 2389 true) (slotFor .resv [840, 836, 832, 828] base)
    t.meas.resv.window = [836, 832, 828, 700] ∧ t.meas.resv.value = some 799 := by decide +kernel

/-- Chapter 1, the warming engine: 41 °C leaves COLD, 43 °C gives WARM, 76 °C takes HOT to WARM. -/
theorem test_class_examples :
    classAfter 40 80 .cold 41 = .cold ∧ classAfter 40 80 .cold 43 = .warm ∧ classAfter 40 80 .warm 39 = .cold
      ∧ classAfter 40 80 .warm 80 = .hot ∧ classAfter 40 80 .hot 78 = .hot
      ∧ classAfter 40 80 .hot 76 = .warm := by decide +kernel

/-- Chapter 3, the hot engine: at 95 °C derate-2 stays set and the cap is N3; at 93 °C it clears and the cap is
N6. COOL's raw 2969 gives 95 and 2929 gives 93. -/
theorem test_hot_cap_examples :
    let s := { runningAt 4 4 with
      prot := { base.prot with derate1 := true, derate2 := true, hotCap := some 4, available := 4 } }
    let a := ran (.converterReply .cool 2969 true) (slotFor .cool [] s)
    let b := ran (.converterReply .cool 2929 true) (slotFor .cool [] s)
    (a.meas.cool.value, a.prot.derate2, a.prot.hotCap) = (some 95, true, some 4)
      ∧ (b.meas.cool.value, b.prot.derate2, b.prot.hotCap) = (some 93, false, some 7) := by decide +kernel

/-- Chapter 4, the broken wire: code 0101 is N6; with HANDLE-4 shorted the code 1101 leaves N6 and starts the
timer. -/
theorem test_handle_example :
    let s := lineAt .handle3 true (lineAt .handle1 true base)
    let s := { s with demand := { s.demand with handle := 7 } }
    let t := ran (.debounceTimeout .handle4) (lineDue .handle4 true s)
    handleCode setUp s = some 7 ∧ (t.demand.handle, t.demand.invalidTimer) = (7, some 0) := by decide +kernel

/-- Section 2.12: START-PB at rest enters PREP, attempt 1, level DEMAND. -/
theorem test_start_button :
    let t := ran (.debounceTimeout .startPb) (lineDue .startPb true (lineAt .runIsolate true base))
    t.seq.engine = .starting .prep
      ∧ t.seq.record = some { level := .demand, number := 1, phases := [{ elapsed := 0, speed := none }]
                              result := none } := by decide +kernel

/-- Section 2.12: the crank limit fails the first attempt NO-FIRE at 141 rpm: STOPPING toward RETRY-WAIT, the crank
count from 6 to 7. -/
theorem test_no_fire :
    let s := { turning 141 cranking with seq := { cranking.seq with
      profile := some .cold, phaseTimer := some 25000000, rolling := true, crankCount := 6 } }
    let t := ran .crankLimitExpiry s
    (t.seq.engine, t.seq.crankCount, t.seq.attempts) = (.stopping .retryWait, 7, 1) := by decide +kernel

/-- Section 2.13: RESV at 447 kPa ends the crank FLOOR at 150 rpm, STOPPING toward PREP, uncounted. RESV's raw
1526 gives 447. -/
theorem test_floor :
    let t := ran (.converterReply .resv 1526 true) (slotFor .resv [] (turning 150 cranking))
    (t.meas.resv.value, t.seq.engine, t.seq.crankCount) = (some 447, .stopping .prep, 0) := by decide +kernel

/-- Chapter 3, the lube trip: at 145 kPa on N4 the delay's end trips LUBE; the record has N4 and 598 rpm. -/
theorem test_lube_trip :
    let s := { channelAt .lube 145 (turning 598 (runningAt 5 5)) with
      prot := { base.prot with lubeTimer := some 5000000 } }
    let t := ran .lubeTripDelayExpiry s
    t.seq.engine = .stopping (.lockedOut .lube)
      ∧ t.prot.record.map (fun r => (r.reason, r.row, r.speed)) = some (.lube, some 5, 598) := by decide +kernel

/-- Chapter 5, the duties of the default table: N7 with permit on 781 and 883, N5 632 and 604. -/
theorem test_duties :
    let s7 := { runningAt 8 8 with step := { (runningAt 8 8).step with loadRow := some 8 } }
    let s5 := { runningAt 6 6 with step := { (runningAt 6 6).step with loadRow := some 6 } }
    (speedSetOf setUp s7, loadRefOf setUp s7 true) = (781, 883)
      ∧ (speedSetOf setUp s5, loadRefOf setUp s5 true) = (632, 604)
      ∧ loadRefOf setUp s5 false = 0 := by decide +kernel

/-- Chapter 8, at unit A with the handle at N6 and M = 2: case (a) extra 90 and row N8, case (b) 55 and N7,
case (c) 30 and no row. -/
theorem test_make_up_cases :
    let p := { setUp with step := { stepDefault with makeUpLimit := 2 } }
    let run (b c d : StatusContent) : MakeUp :=
      makeUpRun p (withRoster [entryFor 6 (some b), entryFor 7 (some c), entryFor 8 (some d)]
        (lineAt .runIsolate true (followed 7 (runningAt 7 7))))
    let well := statusOf .running (some 7) 240 240 90
    let n4 := statusOf .running (some 5) 240 150 0
    let n2 := statusOf .running (some 3) 240 75 0
    let off := statusOf .lockedOut none 240 0 0
    ((run well n4 off).extra, (run well n4 off).row) = (90, some 9)
      ∧ ((run well n2 well).extra, (run well n2 well).row) = (55, some 8)
      ∧ ((run well n4 well).extra, (run well n4 well).row) = (30, none) := by decide +kernel

/-- Section 7.8 at unit 5, 6 ms: ranked ahead by its rotation 5, 2, it keeps cranking and unit 2 is crossed. -/
theorem test_crossing :
    let s := withRoster [entryFor 2 none] { cranking with arb := { cranking.arb with
      claims := [{ who := .own, level := .protect, serial := 7, state := .cranking 0 }] } }
    let t := ran (.crankOn 2 3 1) s
    (t.seq.engine, t.arb.crossing) = (.starting .crank, [2]) := by decide +kernel

/-- Section 10.6: CRANK-VALVE sensed on 300 ms after its command went off trips VALVE in FIRE. -/
theorem test_sticking_valve :
    let s := turning 200 (inState (.starting .fire))
    let s := { s with lines := { s.lines with
      crankValve := { s.lines.crankValve with
        sense := { raw := true, settled := some true, stable := 20000 }, mismatch := some 300000 } } }
    let t := ran (.mismatchTimeExpiry .crankValve) s
    (t.seq.engine, t.lines.crankValve.present, t.lines.faultLamp)
      = (.stopping (.lockedOut .valve), .sensedOn, true) := by decide +kernel

/-- R38: a frame with the own unit number in PREP, at 100 rpm, makes the station INHIBITED(DUPLICATE) at once. -/
theorem test_duplicate_in_prep :
    let t := ran (.claim 5 2 1) (turning 100 preparing)
    (t.seq.engine, t.link.state) = (.inhibited .duplicate, .silent) := by decide +kernel

/-- R47: with GROUND-RELAY off again the LOAD-PERMIT off command stands while the line is sensed on. -/
theorem test_ground_off_stands :
    let s : State := lineDue .groundRelay false (runningAt 4 4)
    let s : State := { s with
      prot := { s.prot with groundOff := true, groundCap := some 1 }
      lines := { s.lines with loadPermit := { s.lines.loadPermit with
        sense := { raw := true, settled := some true, stable := 20000 }, present := .sensedOn } } }
    let t := ran (.debounceTimeout .groundRelay) s
    (t.prot.groundOff, t.prot.groundCap) = (true, some 1) := by decide +kernel

/-- Chapter 12, the configuration clamped: N3's setpoint 450, s 3, claim settle 600, stagger 350, floor 600. -/
theorem test_clamp_example :
    let rows := [notchRowDefault 250 0 70, notchRowDefault 320 0 80, notchRowDefault 380 40 90,
      notchRowDefault 450 75 110, notchRowDefault 440 110 130]
    let p := crossClamp { setUp with
      link := { linkDefault with statusPeriod := 300, silenceExp := 2 }
      crank := { crankDefault with floor := 620 }
      step := { stepDefault with stagger := 300 }
      notch := { notchDefault with rows } }
    (rowOf p.notch 4).setpoint = 450 ∧ p.link.silenceExp = 3 ∧ p.crank.claimSettle = 600
      ∧ p.step.stagger = 350 ∧ p.crank.floor = 600 := by decide +kernel

/-- The CRC of R170 on the digits 1 to 9 is 29B1H, the check value published for this polynomial and start. -/
theorem test_crc_check_value :
    crcOfBits (bitsOfBytes [0x31, 0x32, 0x33, 0x34, 0x35, 0x36, 0x37, 0x38, 0x39]) = 0x29B1#16 := by
  decide +kernel

/-! ### Witnesses: what meets each statement's hypotheses -/

/-- A timer short of its limit and one at it, before handover and after. -/
theorem witness_StepRunsFrontCommand :
    ({ base with pending := [.pickupEdge] } : State).pending = [.pickupEdge] ∧ base.pending = []
      ∧ State.reset.pending = [] ∧ State.reset.reader.applied = none ∧ base.reader.applied = some setUp
      ∧ tickTo 20 19999 = 20000 ∧ tickTo 20 20000 = 20000 := by decide

/-- The header and CRC of an image with no record, and of one whose UNIT record says 5. -/
def emptyImage : List Byte := [0, 5, 2, 19, 43]

/-- The image whose one record sets the unit number 5. -/
def unitImage : List Byte := [0, 9, 2, 1, 1, 1, 5, 223, 191]

/-- The station READING, with the image's first bytes in. -/
def readingWith (image : List Byte) : State :=
  { State.reset with reader := { State.reset.reader with image } }

/-- A length byte short of 5, a wrong format, a wrong CRC and a record that overruns the image end the read; a length of
1025 fails as well. -/
theorem witness_ImageReadJoinsOrFails :
    base.reader.state ≠ .reading
      ∧ timerReached (some 10000) 10 = true ∧ (readingWith []).reader.state = .reading
      ∧ imageComplete ([0, 9] ++ [2]) = false
      ∧ (imageComplete ([0, 4, 2] ++ [0]) = true ∧ imageLength ([0, 4, 2] ++ [0]) = some 4)
      ∧ (imageLength [4, 1, 2] = some 1025)
      ∧ (imageComplete ([0, 5, 1, 0] ++ [0]) = true ∧ field1 ([0, 5, 1, 0] ++ [0]) 2 ≠ 2)
      ∧ (imageLength ([0, 5, 2, 19] ++ [44]) = some 5
          ∧ (crcOfBits (bitsOfBytes (([0, 5, 2, 19] ++ [44]).take 3))).toNat
              ≠ field2 ([0, 5, 2, 19] ++ [44]) 3)
      ∧ walkRecords [1, 2, 1, 5].length [1, 2, 1, 5] = none
      ∧ checkImage emptyImage = .badUnit linesDefault ∧ imageComplete emptyImage = true := by
  decide +kernel

theorem witness_AppliedSetObeysClamps : checkImage unitImage = .good setUp false := by decide +kernel

theorem witness_HandoverBringsStationUp :
    let s := readingWith unitImage.dropLast
    let t := lineAt .cabActive true s
    s.reader.state = .reading ∧ imageComplete (s.reader.image ++ [191]) = true
      ∧ checkImage (s.reader.image ++ [191]) = .good setUp false ∧ s.seq.engine = .stopped
      ∧ s.layover.watch = .inactive ∧ lineOn setUp s .estop = false ∧ lineOn setUp s .cabActive = false
      ∧ lineOn setUp t .cabActive = true ∧ t.reader = s.reader
      ∧ lineOn setUp (lineAt .estop true s) .estop = true ∧ (lineAt .estop true s).reader = s.reader
      ∧ (lineAt .estop true s).link.queue = [] := by decide +kernel

theorem witness_PickupEdgeTimesGates :
    base.reader.applied = some setUp ∧ base.meas.gate.state = .idle
      ∧ (gateAt 4 0 base).meas.gate.state = .timing ∧ (gateAt 4 0 base).meas.gate.count + 1 < setUp.sense.gate
      ∧ gateCompletes setUp (gateAt 5 2859 (inState .running)) 1049
      ∧ noOverspeed setUp (gateAt 5 2859 (inState .running)) 1049
      ∧ (gateAt 5 2859 (inState .running)).seq.engine = .running
      ∧ gateCompletes setUp (gateAt 5 0 preparing) 4095
      ∧ noOverspeed setUp { gateAt 5 0 preparing with prot := { base.prot with lastSpeed := 1050 } } 4095 :=
  ⟨rfl, rfl, rfl, by decide, ⟨rfl, by decide, by decide⟩, .inl (by decide), rfl,
    ⟨rfl, by decide, by decide⟩, .inr (by decide)⟩

/-- In RUNNING at N2, whose setpoint is 450 and whose band is 25, with a laboring cap at N2: unsettled at 425 and at
475 rpm, and at 424 and 476; and settled. -/
theorem witness_PickupEdgeTimesGates_running :
    let s (counter : Nat) (settled : Bool) : State :=
      let r := channelAt .lube 400 (lineAt .runIsolate true (followed 3 (runningAt 3 3)))
      gateAt 5 counter { r with
        step := { r.step with settled, settleTimer := if settled then none else some 0 }
        prot := { r.prot with laboringCap := some 3 } }
    let row := rowOf (tableInForce setUp (s 0 false)) 3
    let cleared (v : Nat) : State :=
      { atSpeed v (s 0 false) with prot := { (atSpeed v (s 0 false)).prot with laboringCap := none } }
    (s 0 false).seq.engine = .running ∧ (s 0 false).step.current = some 3 ∧ (s 0 true).step.settled = true
      ∧ (outputOf (s 0 false).lines .loadPermit).present ≠ .sensedOn
      ∧ (row.setpoint, (tableInForce setUp (s 0 false)).band) = (450, 25)
      ∧ (gateCompletes setUp (s 7058 false) 425 ∧ targetAfter setUp (cleared 425) = some 3)
      ∧ (gateCompletes setUp (s 6315 false) 475 ∧ targetAfter setUp (cleared 475) = some 3)
      ∧ (gateCompletes setUp (s 7075 false) 424 ∧ targetAfter setUp (atSpeed 424 (s 7075 false)) = some 3)
      ∧ (gateCompletes setUp (s 6302 false) 476 ∧ targetAfter setUp (atSpeed 476 (s 6302 false)) = some 3)
      ∧ (gateCompletes setUp (s 6315 true) 475 ∧ targetAfter setUp (atSpeed 475 (s 6315 true)) = some 3)
      ∧ noOverspeed setUp (s 0 false) 476 := by
  unfold gateCompletes noOverspeed; decide +kernel

theorem witness_StallAbandonsGate :
    gateFails setUp (stallAt base) .stallTimeout ∧ gateFails setUp (gateAt 1 16777215 base) .gateCounterMaximum
      ∧ gateFails setUp (stallAt (inState .running)) .stallTimeout ∧ (stallAt (inState .running)).seq.engine = .running
      ∧ (gateAt 1 0 base).meas.gate.stall = some 0 ∧ 499999 < setUp.sense.stallTime * 1000
      ∧ (gateAt 1 16777214 base).meas.gate.counter < 16777215 ∧ base.meas.gate.state = .idle :=
  ⟨⟨rfl, .inl ⟨rfl, _, rfl, by decide⟩⟩, ⟨rfl, .inr ⟨rfl, by decide⟩⟩, ⟨rfl, .inl ⟨rfl, _, rfl, by decide⟩⟩,
    rfl, rfl, by decide, by decide, rfl⟩

/-- The overspeed limit, 1050 rpm, reached after 1049; and 1049, or 1050 after 1050, which trip nothing. -/
theorem witness_OverspeedTripsOnce :
    let s : State := { gateAt 5 2857 (inState .running) with prot := { base.prot with lastSpeed := 1049 } }
    s.reader.applied = some setUp ∧ gateCompletes setUp s 1050 ∧ setUp.protect.overspeed ≤ 1050
      ∧ s.prot.lastSpeed < setUp.protect.overspeed ∧ isInhibited s = false
      ∧ setUp.sense.stoppedSpeed ≤ setUp.protect.overspeed
      ∧ gateCompletes setUp (gateAt 5 2859 s) 1049 ∧ noOverspeed setUp (gateAt 5 2859 s) 1049
      ∧ noOverspeed setUp { s with prot := { s.prot with lastSpeed := 1050 } } 1050 :=
  ⟨rfl, ⟨rfl, by decide, by decide⟩, by decide, by decide, by decide, by decide,
    ⟨rfl, by decide, by decide⟩, .inl (by decide), .inr (by decide)⟩

theorem witness_OverspeedCrankCountsOnce :
    let s := gateAt 5 2857 cranking
    s.reader.applied = some setUp ∧ gateCompletes setUp s 1050 ∧ s.seq.engine = .starting .crank
      ∧ (profileOf setUp s).releaseSpeed ≤ 1050 ∧ setUp.protect.overspeed ≤ 1050
      ∧ s.prot.lastSpeed < setUp.protect.overspeed
      ∧ setUp.sense.stoppedSpeed ≤ setUp.protect.overspeed :=
  ⟨rfl, ⟨rfl, by decide, by decide⟩, rfl, by decide, by decide, by decide, by decide⟩

/-- 179 rpm is below the release speed, 180 rpm is at it. -/
theorem witness_CrankSpeedReleases :
    speedComes setUp (gateAt 5 16667 cranking) .pickupEdge 179 ∧ 179 < (profileOf setUp cranking).releaseSpeed
      ∧ speedComes setUp (gateAt 5 16666 cranking) .pickupEdge 180 ∧ (profileOf setUp cranking).releaseSpeed ≤ 180
      ∧ noOverspeed setUp cranking 180 ∧ cranking.seq.engine = .starting .crank
      ∧ claimOf .own cranking.arb.claims
          = some { who := .own, level := .demand, serial := 7, state := .cranking 0 }
      ∧ openLink cranking
      ∧ speedComes setUp (stallAt cranking) .stallTimeout 0 ∧ 0 < (profileOf setUp cranking).releaseSpeed
      ∧ noOverspeed setUp (stallAt cranking) 0 :=
  ⟨.inl ⟨rfl, rfl, by decide, by decide⟩, by decide, .inl ⟨rfl, rfl, by decide, by decide⟩, by decide, .inl (by decide),
    rfl, by decide, ⟨rfl, rfl⟩, .inr ⟨rfl, rfl, .inl ⟨rfl, _, rfl, by decide⟩⟩, by decide, .inl (by decide)⟩

/-- A set whose ID setpoint stands below its roll speed: 75 rpm both reaches the FIRE threshold and is below
the roll speed. -/
def slowSet : Params :=
  { setUp with
    startN := { startNDefault with rollSpeed := 100 }
    notch := { notchDefault with rows := notchDefault.rows.map fun r => { r with setpoint := 100 } } }

/-- In FIRE 295 and 294 rpm, 19 rpm, and with the slow set 75 rpm; in CONFIRM 19 and 20 rpm. -/
theorem witness_SpeedEndsFireAndConfirm :
    let fire := inState (.starting .fire)
    let confirm := inState (.starting .confirm)
    let slow : State := { fire with reader := { fire.reader with applied := some slowSet } }
    speedComes setUp (gateAt 5 10169 fire) .pickupEdge 295 ∧ (rowOf (tableInForce setUp fire) 1).setpoint = 320
      ∧ (tableInForce setUp fire).band = 25 ∧ (profileOf setUp fire).rollSpeed = 20
      ∧ speedComes setUp (gateAt 5 10204 fire) .pickupEdge 294 ∧ speedComes setUp (gateAt 5 157894 fire) .pickupEdge 19
      ∧ speedComes slowSet (gateAt 5 40000 slow) .pickupEdge 75
      ∧ (rowOf (tableInForce slowSet slow) 1).setpoint ≤ 75 + (tableInForce slowSet slow).band
      ∧ 75 < (profileOf slowSet slow).rollSpeed
      ∧ speedComes setUp (gateAt 5 157894 confirm) .pickupEdge 19 ∧ speedComes setUp (gateAt 5 150000 confirm) .pickupEdge 20
      ∧ noOverspeed setUp fire 295 ∧ noOverspeed setUp confirm 20
      ∧ speedComes setUp (stallAt fire) .stallTimeout 0 ∧ speedComes setUp (stallAt confirm) .stallTimeout 0
      ∧ noOverspeed setUp fire 0 :=
  ⟨.inl ⟨rfl, rfl, by decide, by decide⟩, by decide, by decide, by decide, .inl ⟨rfl, rfl, by decide, by decide⟩,
    .inl ⟨rfl, rfl, by decide, by decide⟩, .inl ⟨rfl, rfl, by decide, by decide⟩, by decide, by decide,
    .inl ⟨rfl, rfl, by decide, by decide⟩, .inl ⟨rfl, rfl, by decide, by decide⟩, .inl (by decide), .inl (by decide),
    .inr ⟨rfl, rfl, .inl ⟨rfl, _, rfl, by decide⟩⟩, .inr ⟨rfl, rfl, .inl ⟨rfl, _, rfl, by decide⟩⟩,
    .inl (by decide)⟩

/-- 29 rpm is below the stopped speed, 30 rpm is not. -/
theorem witness_SpeedBelowStoppedEndsStopping (d : StopDest) :
    let s := inState (.stopping d)
    s.reader.applied = some setUp ∧ speedComes setUp (gateAt 5 103448 s) .pickupEdge 29 ∧ 29 < setUp.sense.stoppedSpeed
      ∧ speedComes setUp (gateAt 5 100000 s) .pickupEdge 30 ∧ setUp.sense.stoppedSpeed ≤ 30
      ∧ noOverspeed setUp s 30 ∧ s.seq.engine = .stopping d ∧ 0 < setUp.crank.claimSettle
      ∧ speedComes setUp (stallAt s) .stallTimeout 0 ∧ noOverspeed setUp s 0 :=
  have at29 : speedComes setUp (gateAt 5 103448 (inState .stopped)) .pickupEdge 29 :=
    .inl ⟨rfl, rfl, by decide, by decide⟩
  have at30 : speedComes setUp (gateAt 5 100000 (inState .stopped)) .pickupEdge 30 :=
    .inl ⟨rfl, rfl, by decide, by decide⟩
  ⟨rfl, at29, by decide, at30, by decide,
    .inl (by decide), rfl, by decide, .inr ⟨rfl, rfl, .inl ⟨rfl, _, rfl, by decide⟩⟩, .inl (by decide)⟩

theorem witness_SpeedJudgesStillEngine :
    let s (us : Nat) : State := { base with seq := { base.seq with turningWatch := some us } }
    let w : State := { lineAt .runIsolate true (inState .layover) with
      layover := { base.layover with watch := .active (some .quota) } }
    gateCompletes setUp (gateAt 5 96774 (s 0)) 31 ∧ setUp.sense.stoppedSpeed < 31
      ∧ noOverspeed setUp (s 0) 31 ∧ (s 999999).seq.turningWatch = some 999999
      ∧ (s 1000000).seq.turningWatch = some 1000000
      ∧ speedComes setUp (gateAt 5 103448 w) .pickupEdge 29 ∧ noOverspeed setUp w 29 ∧ w.seq.engine = .layover
      ∧ w.layover.watch = .active (some .quota) ∧ 29 < setUp.sense.stoppedSpeed
      ∧ lineOn setUp w .runIsolate = true ∧ linkSilent w = false ∧ 0 < setUp.crank.claimSettle :=
  ⟨⟨rfl, by decide, by decide⟩, by decide, .inl (by decide), rfl, rfl,
    .inl ⟨rfl, rfl, by decide, by decide⟩, .inl (by decide), rfl, rfl, by decide, by decide, by decide, by decide⟩

/-- A station in LAYOVER at rest, COOL, BATT and RESV just above their restart thresholds, its watch at a level. -/
def watching (level : Option Level) : State :=
  withRoster [entryFor 3 (some (statusOf .running (some 1) 0 0 0))]
    (channelAt .cool 36 (channelAt .batt 701 (channelAt .resv 701 { lineAt .runIsolate true (inState .layover) with
      layover := { base.layover with watch := .active level } })))

/-- RUN-ISOLATE goes on while QUOTA stands; and COOL goes stale, a RESV of 700 kPa comes and the only running peer's
STATUS shows it STOPPED, while no level stands and while PROTECT stands. -/
theorem witness_SpeedJudgesStillEngine_watch :
    let iso : State := lineDue .runIsolate true (watching (some .quota))
    let cool (level : Option Level) : State :=
      setChannel .cool { (watching level).meas.cool with timer := some 2000000 } (watching level)
    let resv (level : Option Level) : State := slotFor .resv [] (watching level)
    let gone := statusOf .stopped none 0 0 0
    goesOn setUp iso .runIsolate ∧ atRest setUp iso = true ∧ linkSilent iso = false
      ∧ (iso.seq.engine = .layover ∧ iso.layover.watch = .active (some .quota))
      ∧ (channelOf (cool none).meas .cool).timer = some 2000000
      ∧ ((resv none).meas.request = some .resv ∧ (resv none).meas.taken = false)
      ∧ (heard setUp 3 (watching none) ∧ statusValid gone = true)
      ∧ acceptsStart setUp (watching none) ∧ ¬ acceptsStart setUp (turning 30 (watching none))
      ∧ LevelStands setUp (watching none) none
      ∧ (ran (.stalenessTimeout .cool) (cool none)).seq.startLevel = some .protect
      ∧ (ran (.converterReply .resv 2390 true) (resv none)).seq.startLevel = some .protect
      ∧ (ran (.status 3 gone) (watching none)).seq.startLevel = some .quota
      ∧ (ran (.status 3 gone) (watching (some .protect))).layover.watch = .active (some .quota) := by
  refine ⟨by unfold goesOn; decide, by decide, by decide, by decide, by decide, by decide, ?_, ?_, ?_, ?_,
    by decide +kernel, by decide +kernel, by decide +kernel, by decide +kernel⟩
  · unfold heard; decide
  · unfold acceptsStart; decide
  · unfold acceptsStart; decide
  · have safe : (36 : Int) > setUp.layover.restartTemp ∧ (701 : Int) > setUp.layover.restartVolt
        ∧ (701 : Int) > setUp.layover.restartPress := by decide
    exact ⟨fun h => absurd ⟨36, 701, 701, rfl, safe.1, rfl, safe.2.1, rfl, safe.2.2⟩ h,
      fun _ h => absurd ⟨by decide, by decide, by decide⟩ h, fun _ _ h => absurd h (by decide), fun _ _ _ => rfl⟩

theorem witness_ConverterSlots :
    let s (us : Nat) (taken : Bool) : State :=
      { base with meas := { base.meas with request := some .cool, slot := some us, taken } }
    (s 20000 false).reader.applied = some setUp ∧ (s 20000 false).meas.request = some .cool
      ∧ (s 20000 false).meas.slot = some 20000 ∧ (s 19999 false).meas.slot = some 19999
      ∧ (s 0 true).meas.taken = true ∧ (s 0 false).meas.taken = false ∧ Channel.batt ≠ .cool := by decide

theorem witness_ValidReplyGivesMean :
    let s := slotFor .cool [1, 2, 3, 4] base
    let r := slotFor .lube [] base
    s.reader.applied = some setUp ∧ s.meas.request = some .cool ∧ s.meas.taken = false
      ∧ r.meas.request = some .lube ∧ r.meas.taken = false := by decide

/-- In PREP in PRESSURE mode LUBE's raw 123 gives 30 kPa, the prelube pressure, and 122 gives 29; and TIMED mode. -/
theorem witness_ValidReplyGivesMean_prelube :
    let s : State := slotFor .lube [] preparing
    let v (raw : BitVec 12) := (ran (.converterReply .lube raw true) s).meas.lube.value
    let timed : Params := { setUp with startN := { startNDefault with mode := .timed } }
    s.reader.applied = some setUp ∧ s.meas.request = some .lube ∧ s.meas.taken = false
      ∧ s.seq.engine = .starting .prep ∧ timerReached s.arb.claimTimer setUp.crank.claimSettle = false
      ∧ (profileOf setUp s).mode = .pressure ∧ (profileOf setUp s).prelubePressure = 30
      ∧ v 123 = some 30 ∧ v 122 = some 29 ∧ (profileOf timed s).mode = .timed := by decide +kernel

theorem witness_SamplesStayInRange :
    let s := slotFor .cool [-50, 150] base
    s.meas.request = some .cool ∧ s.meas.taken = false ∧ (-50 : Int) ≤ (scaleOf setUp .cool).low
      ∧ (scaleOf setUp .cool).low < (scaleOf setUp .cool).high ∧ (scaleOf setUp .cool).high ≤ 150
      ∧ ∀ x ∈ (channelOf s.meas .cool).window, (-50 : Int) ≤ x ∧ x ≤ 150 := by decide

/-- 43, 40, 80 and 77 °C, and one degree below each, are read by a raw value each. -/
theorem witness_CoolSampleMovesClass :
    let s := slotFor .cool [] base
    let v (raw : BitVec 12) := (ran (.converterReply .cool raw true) s).meas.cool.value
    s.meas.request = some .cool ∧ s.meas.taken = false
      ∧ v 1905 = some 43 ∧ v 1904 = some 42 ∧ v 1843 = some 40 ∧ v 1842 = some 39
      ∧ v 2662 = some 80 ∧ v 2661 = some 79 ∧ v 2601 = some 77 ∧ v 2600 = some 76 := by decide +kernel

/-- The hot latches' limits 92, 97 and 102 °C, and 3 below each, are read by a raw value each. -/
theorem witness_CoolSampleMovesLatches :
    let s := slotFor .cool [] base
    let v (raw : BitVec 12) := (ran (.converterReply .cool raw true) s).meas.cool.value
    v 2908 = some 92 ∧ v 2907 = some 91 ∧ v 2847 = some 89 ∧ v 2846 = some 88
      ∧ v 3010 = some 97 ∧ v 2949 = some 94 ∧ v 2948 = some 93
      ∧ v 3113 = some 102 ∧ v 3051 = some 99 ∧ v 3050 = some 98 := by decide +kernel

theorem witness_ReservoirFloorEndsCrank :
    let s := slotFor .resv [] cranking
    let v (raw : BitVec 12) := (ran (.converterReply .resv raw true) s).meas.resv.value
    s.meas.request = some .resv ∧ s.meas.taken = false ∧ s.seq.engine = .starting .crank
      ∧ claimOf .own s.arb.claims
          = some { who := .own, level := .demand, serial := 7, state := .cranking 0 }
      ∧ v 1535 = some 449 ∧ v 1536 = some 450 ∧ setUp.crank.floor = 450 ∧ s.meas.speed < setUp.sense.stoppedSpeed
      ∧ setUp.sense.stoppedSpeed ≤ (turning 30 s).meas.speed := by decide +kernel

theorem witness_StaleChannelHoldsValue :
    let s (us : Nat) : State := setChannel .cool { window := [50], value := some 50, stale := false, timer := some us } base
    let r : State := channelAt .lube 400 (runningAt 4 4)
    (channelOf (s 2000000).meas .cool).timer = some 2000000
      ∧ (channelOf (s 1999999).meas .cool).timer = some 1999999
      ∧ r.seq.engine = .running
      ∧ (channelOf (setChannel .lube { channelOf r.meas .lube with timer := some 2000000 } r).meas .lube).timer
          = some 2000000 := by decide

theorem witness_InputsAreDebounced :
    let d := inputOf (lineDue .startPb true base).demand.inputs .startPb
    let e := inputOf (lineAt .startPb true base).demand.inputs .startPb
    20000 ≤ d.stable ∧ d.settled ≠ some d.raw ∧ e.settled = some e.raw
      ∧ (inputOf base.demand.inputs .startPb).stable < 20000
      ∧ (lineDue .startPb true State.reset).reader.applied = none := by decide

/-- GROUND-RELAY goes on; it goes off with the LOAD-PERMIT line in agreement, and sensed on while commanded off. -/
theorem witness_InputsAreDebounced_ground :
    let s : State := lineDue .groundRelay false (runningAt 4 4)
    let f : State := { s with
      prot := { s.prot with groundOff := true }
      lines := { s.lines with loadPermit := { s.lines.loadPermit with
        sense := { raw := true, settled := some true, stable := 20000 }, present := .sensedOn } } }
    s.reader.applied = some setUp ∧ goesOn setUp (lineDue .groundRelay true (runningAt 4 4)) .groundRelay
      ∧ goesOff setUp s .groundRelay ∧ (outputOf s.lines .loadPermit).present ≠ .sensedOn
      ∧ goesOff setUp f .groundRelay ∧ (outputOf f.lines .loadPermit).present = .sensedOn
      ∧ (outputOf f.lines .loadPermit).command = false ∧ sensedOn f .loadPermit = true
      ∧ f.prot.groundOff = true := by
  unfold goesOn goesOff; decide

/-- A set whose other notch table has another setpoint at N3 and the same at N2. -/
def twoTables : Params :=
  { setUp with notchAlt := { notchDefault with
      rows := notchDefault.rows.map fun r => if r.setpoint = 520 then { r with setpoint := 560 } else r } }

/-- DERATE-SELECT goes on at N3, whose setpoint moves from 520 to 560, at 520 rpm and at 560 rpm, and at N2, whose
setpoint stays; it goes off from the other table. -/
theorem witness_InputsAreDebounced_derate :
    let s (v : Nat) (r : Row) : State := lineDue .derateSelect true (turning v (channelAt .lube 400
      (lineAt .runIsolate true (followed r { runningAt r r with reader := (withSet twoTables).reader }))))
    (s 520 4).reader.applied = some twoTables ∧ goesOn twoTables (s 520 4) .derateSelect
      ∧ goesOff twoTables (lineDue .derateSelect false (s 520 4)) .derateSelect
      ∧ (s 520 4).seq.engine = .running ∧ (s 520 4).step.current = some 4
      ∧ targetAfter twoTables (updateInput .derateSelect debounceTaken (s 520 4)) = some 4
      ∧ (outputOf (s 520 4).lines .loadPermit).present ≠ .sensedOn ∧ (s 520 4).prot.laboringCap = none
      ∧ (rowOf (tableInForce twoTables (s 520 4)) 4).setpoint ≠ (rowOf twoTables.notchAlt 4).setpoint
      ∧ inBandOf twoTables.notchAlt 4 520 = false ∧ inBandOf twoTables.notchAlt 4 560 = true
      ∧ targetAfter twoTables (updateInput .derateSelect debounceTaken (s 450 3)) = some 3
      ∧ (rowOf (tableInForce twoTables (s 450 3)) 3).setpoint = (rowOf twoTables.notchAlt 3).setpoint := by
  unfold goesOn goesOff; decide +kernel

theorem witness_HandleCodeGivesPosition :
    let s (us : Nat) : State := { base with demand := { base.demand with invalidTimer := some us } }
    goesOn setUp (lineDue .handle1 true base) .handle1 ∧ goesOff setUp (lineDue .handle4 false base) .handle4
      ∧ handleCode setUp (ran (.debounceTimeout .handle1) (lineDue .handle1 true base)) = some 2
      ∧ handleCode setUp (ran (.debounceTimeout .handle4) (lineDue .handle4 true base)) = none
      ∧ (s 500000).demand.invalidTimer = some 500000 ∧ (s 499999).demand.invalidTimer = some 499999 := by
  unfold goesOn goesOff; decide +kernel

theorem witness_CabActiveSettlesSource :
    let r : RemoteRecord := { source := 2, row := 3, centred := true, brake := true, serial := 0 }
    let s (us : Nat) : State := { lineDue .cabActive false base with demand :=
      { (lineDue .cabActive false base).demand with source := .own, remote := some r, demandTimer := some us } }
    goesOn setUp (lineDue .cabActive true base) .cabActive ∧ goesOff setUp (s 399999) .cabActive
      ∧ (s 399999).demand.remote = some r ∧ (s 399999).demand.demandTimer = some 399999
      ∧ 399999 < setUp.link.demandTimeout * 1000 ∧ goesOff setUp (s 400000) .cabActive
      ∧ setUp.link.demandTimeout * 1000 ≤ 400000 ∧ openLink (lineDue .cabActive true base) := by
  unfold goesOn goesOff openLink; decide

theorem quiet_base : Quiet setUp (lineDue .startPb true base) where
  moving := by intro d h; cases h
  ungranted := by intro h; cases h
  unwatched := fun _ => rfl

theorem witness_StartButtonStartsEngine :
    let s := turning 29 (lineDue .startPb true (lineAt .runIsolate true base))
    goesOn setUp s .startPb ∧ acceptsStart setUp s ∧ 0 < setUp.crank.claimSettle ∧ openLink s
      ∧ goesOn setUp (lineDue .startPb true base) .startPb ∧ ¬ acceptsStart setUp (lineDue .startPb true base)
      ∧ Quiet setUp (lineDue .startPb true base) := by
  refine ⟨?_, ?_, by decide, ⟨rfl, rfl⟩, ?_, ?_, quiet_base⟩ <;> (first | unfold goesOn | unfold acceptsStart) <;> decide

theorem witness_StopButtonByState :
    let press (s : State) : State := lineDue .stopPb true s
    let hold (e : EngineState) : State := { inState e with prot := { base.prot with holdTimer := some 0 } }
    goesOn setUp (press preparing) .stopPb ∧ (press preparing).seq.engine = .starting .prep
      ∧ claimOf .own (press preparing).arb.claims
          = some { who := .own, level := .demand, serial := 7, state := .waiting }
      ∧ goesOn setUp (press cranking) .stopPb ∧ (press cranking).seq.engine = .starting .crank
      ∧ claimOf .own (press cranking).arb.claims
          = some { who := .own, level := .demand, serial := 7, state := .cranking 0 }
      ∧ (∀ e, goesOn setUp (press (inState e)) .stopPb ∧ (press (inState e)).seq.engine = e)
      ∧ (∀ d, StopDest.retryWait ≠ .lockedOut d)
      ∧ (press { inState (.stopping .prep) with seq :=
          { (inState (.stopping .prep)).seq with keptSerial := some 9 } }).seq.keptSerial = some 9
      ∧ atRest setUp (press (turning 30 (inState (.stopping (.lockedOut .hot))))) = false
      ∧ atRest setUp (press (turning 29 (inState (.lockedOut .hot)))) = true
      ∧ fuelHold (press (inState (.lockedOut .hot))) = false ∧ fuelHold (press (hold (.lockedOut .hot))) = true
      ∧ Quiet setUp (press base) ∧ openLink (press preparing) :=
  ⟨by unfold goesOn; decide, rfl, by decide, by unfold goesOn; decide, rfl, by decide,
    fun _ => ⟨⟨rfl, rfl, rfl⟩, rfl⟩, nofun, rfl, by decide, by decide, by decide, by decide,
    ⟨(by intro d h; cases h), (by intro h; cases h), fun _ => rfl⟩, rfl, rfl⟩

theorem witness_DemandTimersPass :
    let s (source : DemandSource) : State := { base with demand := { base.demand with
      source, demandTimer := some 400000, holdTimer := some 5000000, recent := [{ who := .unit 2, age := 400000 }] } }
    (s .current).demand.demandTimer = some 400000 ∧ setUp.link.demandTimeout * 1000 ≤ 400000
      ∧ (s .current).demand.source = .current ∧ (s .waiting).demand.source = .waiting
      ∧ (s .own).demand.source = .own ∧ (s .holding).demand.source = .holding
      ∧ (s .holding).demand.holdTimer = some 5000000 ∧ setUp.link.demandHold * 1000 ≤ 5000000
      ∧ sourceAge (.unit 2) (s .own).demand.recent = some 400000 := by decide

theorem witness_DemandFrameIsFollowed :
    let old : RemoteRecord := { source := 2, row := 3, centred := true, brake := true, serial := 0 }
    let s : State := { lineAt .runIsolate true base with demand :=
      { (lineAt .runIsolate true base).demand with source := .holding, remote := some old } }
    heard setUp 2 s ∧ (1 : Byte).toNat ≤ 1 ∧ (15 : Byte).toNat ≤ 15 ∧ (1 : Byte).toNat = (1 : Row).val
      ∧ (9 : Byte).toNat = (9 : Row).val ∧ s.demand.remote = some old ∧ old.serial ≠ 15
      ∧ s.demand.source = .holding ∧ (refreshSource (.unit 2) s.demand.recent).length < 2 ∧ acceptsStart setUp s
      ∧ 0 < setUp.crank.claimSettle ∧ base.demand.remote = none ∧ (0 : Byte).toNat = 0 ∧ 10 ≤ (10 : Byte).toNat := by
  unfold heard acceptsStart; decide

theorem witness_PrelubeTimeSetsDone :
    let p : Params := { setUp with startN := { startNDefault with mode := .timed } }
    let s (us : Nat) : State := { withSet p with seq := { base.seq with
      engine := .starting .prep, phaseTimer := some us } }
    (s 30000000).reader.applied = some p ∧ (s 30000000).seq.engine = .starting .prep
      ∧ (profileOf p (s 30000000)).mode = .timed ∧ (s 30000000).seq.prelubeDone = false
      ∧ (profileOf p (s 0)).prelubeTime * 1000000 ≤ 30000000
      ∧ 29999999 < (profileOf p (s 0)).prelubeTime * 1000000
      ∧ timerReached (s 30000000).arb.claimTimer p.crank.claimSettle = false := by decide

theorem witness_GrantEntersCrank :
    let s : State := channelAt .resv 650 (turning 29 { preparing with
      seq := { preparing.seq with prelubeDone := true }
      arb := { preparing.arb with claimTimer := some 300000, joinTimer := some 200000 } })
    s.reader.applied = some setUp ∧ s.seq.engine = .starting .prep ∧ s.seq.prelubeDone = true
      ∧ s.arb.claimTimer = some 300000 ∧ setUp.crank.claimSettle * 1000 ≤ 300000
      ∧ s.arb.joinTimer = some 200000 ∧ 2 * setUp.link.statusPeriod * 1000 ≤ 200000
      ∧ claimOf .own s.arb.claims = some { who := .own, level := .demand, serial := 7, state := .waiting }
      ∧ (∀ d ∈ s.arb.claims, d.who ≠ .own → d.state = .waiting →
          claimAhead setUp.unit s.arb { who := .own, level := .demand, serial := 7, state := .waiting } d = true)
      ∧ (s.arb.claims.filter isCranking).length < setUp.crank.maxCranking ∧ s.meas.resv.stale = false
      ∧ s.meas.resv.value = some 650 ∧ (setUp.crank.startPressure : Int) ≤ 650
      ∧ s.meas.speed < setUp.sense.stoppedSpeed ∧ openLink s := by unfold openLink; decide

/-- Each failing expiry at its limit, and one microsecond short of it. -/
theorem witness_CountedFailureEndsAttempt :
    let s (phase : Phase) (us : Nat) : State := { inState (.starting phase) with seq :=
      { base.seq with engine := .starting phase, phaseTimer := some us } }
    failureDue setUp (s .prep 60000000) .prelubeLimitExpiry = true
      ∧ failureDue setUp (s .prep 59999999) .prelubeLimitExpiry = false
      ∧ failureDue setUp (s .crank 3000000) .rollTimeExpiry = true
      ∧ failureDue setUp (s .crank 2999999) .rollTimeExpiry = false
      ∧ failureDue setUp (s .crank 15000000) .crankLimitExpiry = true
      ∧ failureDue setUp (s .crank 14999999) .crankLimitExpiry = false
      ∧ failureDue setUp (s .fire 10000000) .fireLimitExpiry = true
      ∧ failureDue setUp (s .fire 9999999) .fireLimitExpiry = false
      ∧ failureDue setUp (s .confirm 20000000) .confirmLimitExpiry = true
      ∧ failureDue setUp (s .confirm 19999999) .confirmLimitExpiry = false
      ∧ failureOf .prelubeLimitExpiry = some (.prep, .noPrelube) ∧ failureOf .rollTimeExpiry = some (.crank, .noRoll)
      ∧ failureOf .crankLimitExpiry = some (.crank, .noFire) ∧ failureOf .fireLimitExpiry = some (.fire, .noRun)
      ∧ failureOf .confirmLimitExpiry = some (.confirm, .noConfirm)
      ∧ claimOf .own preparing.arb.claims
          = some { who := .own, level := .demand, serial := 7, state := .waiting } ∧ openLink preparing := by
  unfold openLink; decide

theorem witness_ConfirmTimeEntersRunning :
    let s (us : Nat) : State := { base with seq := { base.seq with
      engine := .starting .confirm, confirmTimer := some us } }
    (s 3000000).reader.applied = some setUp ∧ (s 3000000).seq.engine = .starting .confirm
      ∧ (s 3000000).seq.confirmTimer = some 3000000
      ∧ (profileOf setUp (s 0)).confirmTime * 1000000 ≤ 3000000
      ∧ 2999999 < (profileOf setUp (s 0)).confirmTime * 1000000
      ∧ 0 < upDwell (tableInForce setUp (s 0)) 1 (s 0).meas.tempClass
      ∧ 0 < (tableInForce setUp (s 0)).downDwell := by decide

theorem witness_RecrankLevelFallsByHalves :
    let s (us : Nat) : State := { base with seq := { base.seq with
      engine := .retryWait, recrankTimer := some us, origLevel := some .demand, attempts := 1 } }
    (s 20000000).reader.applied = some setUp ∧ (s 20000000).seq.engine = .retryWait
      ∧ (s 20000000).seq.recrankTimer = some 20000000 ∧ (s 0).seq.origLevel = some .demand ∧ 1 ≤ (s 0).seq.attempts
      ∧ 0 < setUp.crank.claimSettle ∧ setUp.crank.recrank * 1000000 ≤ 20000000
      ∧ 19999999 < setUp.crank.recrank * 1000000 := by decide

theorem witness_ProtectionTimersAct :
    let s : State := { channelAt .cool 103 (channelAt .lube 149 (runningAt 5 5)) with prot := { base.prot with
      lubeTimer := some 5000000, hotTimer := some 60000000, hotStop := true, holdTimer := some 10000000 } }
    s.reader.applied = some setUp ∧ lubeTripHolds setUp s = true ∧ setUp.protect.lubeDelay * 1000000 ≤ 5000000
      ∧ 4999999 < setUp.protect.lubeDelay * 1000000 ∧ hotStopHolds s = true
      ∧ setUp.protect.hotDelay * 1000000 ≤ 60000000 ∧ 59999999 < setUp.protect.hotDelay * 1000000
      ∧ s.prot.holdTimer = some 10000000 ∧ setUp.protect.fuelCutHold * 1000000 ≤ 10000000
      ∧ 9999999 < setUp.protect.fuelCutHold * 1000000 := by decide

theorem witness_FuelCutTrips :
    goesOn setUp (lineDue .estop true (inState .running)) .estop ∧ heard setUp 0 (inState .running)
      ∧ heard setUp 31 (inState .running) ∧ isInhibited (inState .running) = false
      ∧ isInhibited (inState (.inhibited .duplicate)) = true ∧ heard setUp 2 (inState (.inhibited .duplicate))
      ∧ (inState .running).link.state = .up ∧ queueSound (inState .running).link := by
  unfold goesOn heard queueSound; decide

/-- N1 to N2 after 6000 ms of COLD up-dwell, with no STEP heard and none ahead; and with a peer ahead after the
stagger hold of 1500 ms, 500 ms after the last STEP. -/
theorem witness_StepUpIsTaken :
    let s : State := { turning 380 (runningAt 2 3) with
      step := { (runningAt 2 3).step with dwell := some 6000000 } }
    let s := channelAt .lube 400 (lineAt .runIsolate true (followed 3 s))
    let t := withRoster [entryFor 3 (some { statusOf .running (some 2) 0 0 0 with target := some 3 })]
      { s with step := { s.step with stagger := some 500000, staggerHold := some 1500000 } }
    (s.seq.engine = .running ∧ targetAfter setUp s = some 3 ∧ s.step.settled = true
        ∧ upDwell (tableInForce setUp s) 2 s.meas.tempClass * 1000 ≤ 6000000 ∧ s.step.stagger = none
        ∧ peerAhead setUp s 2 = false)
      ∧ (targetAfter setUp t = some 3 ∧ t.step.dwell = some 6000000
        ∧ setUp.step.stagger * 1000 ≤ 500000 ∧ peerAhead setUp t 2 = true
        ∧ 3 * setUp.step.stagger * 1000 ≤ 1500000 ∧ t.step.stagger ≠ none)
      ∧ 0 < upDwell (tableInForce setUp s) (rowUp 2) s.meas.tempClass ∧ rowUp 8 = 9
      ∧ 0 < (tableInForce setUp s).downDwell ∧ openLink s := by unfold openLink; decide +kernel

/-- N1 with the target N2 and unit 3 ahead: at the end of the dwell, and at the end of the stagger interval. -/
theorem witness_StepUpIsTaken_held :
    let ahead := { statusOf .running (some 2) 0 0 0 with target := some 3 }
    let s (stagger : Timer) : State := withRoster [entryFor 3 (some ahead)] (channelAt .lube 400 (lineAt .runIsolate true
      (followed 3 { turning 380 (runningAt 2 3) with
        step := { (runningAt 2 3).step with dwell := some 6000000, stagger } })))
    (∀ g, (s g).seq.engine = .running ∧ (s g).step.current = some 2 ∧ (s g).step.target = some 3
        ∧ (s g).step.settled = true ∧ (s g).step.dwell = some 6000000 ∧ (s g).step.staggerHold = none
        ∧ (s g).step.stagger = g)
      ∧ targetAfter setUp (s none) = some 3 ∧ targetAfter setUp (s (some 500000)) = some 3
      ∧ upDwell (tableInForce setUp (s none)) 2 (s none).meas.tempClass * 1000 ≤ 6000000
      ∧ setUp.step.stagger * 1000 ≤ 500000 ∧ 0 < setUp.step.stagger
      ∧ peerAhead setUp (s none) 2 = true ∧ peerAhead setUp (s (some 500000)) 2 = true
      ∧ (outputOf (s none).lines .loadPermit).present ≠ .sensedOn
      ∧ dwellReached setUp (s none) = true
      ∧ heldBack setUp (ran .staggerIntervalExpiry (s (some 500000)))
      ∧ (heard setUp 3 (s none) ∧ contentValid (.status ahead) = true ∧ contentValid (.step 2) = true) := by
  intro ahead s
  refine ⟨fun _ => ⟨rfl, rfl, rfl, rfl, rfl, rfl, rfl⟩, by decide +kernel, by decide +kernel, by decide +kernel,
    by decide, by decide, by decide +kernel, by decide +kernel, by decide, by decide +kernel, ?_, ?_⟩
  · exact ⟨2, 3, by decide +kernel, by decide +kernel, by decide, by decide +kernel,
      ⟨6000000, by decide +kernel, by decide +kernel⟩, .inr ⟨500000, by decide +kernel, by decide⟩,
      entryFor 3 (some ahead), by decide +kernel, ahead, rfl, rfl, rfl, rfl, ⟨3, rfl, by decide⟩, by decide⟩
  · exact ⟨⟨by decide +kernel, by decide +kernel, by decide⟩, by decide, by decide⟩

theorem witness_StepDownIsTaken :
    let s (us : Nat) : State := { channelAt .lube 400 (runningAt 3 1) with
      step := { (runningAt 3 1).step with dwell := some us } }
    let l : State := channelAt .lube 400 (lineAt .reverserCentre true { runningAt 1 0 with
      step := { (runningAt 1 0).step with dwell := some 1000000, lowIdleReached := true }
      demand := { base.demand with
        source := .own, ownRecord := { row := 1, centred := true, brake := false, serial := 0 } }
      meas := { base.meas with tempClass := .warm } })
    (s 1000000).seq.engine = .running ∧ targetAfter setUp (s 1000000) = some 1
      ∧ (tableInForce setUp (s 0)).downDwell * 1000 ≤ 1000000
      ∧ 0 < upDwell (tableInForce setUp (s 0)) (rowDown 3) (s 0).meas.tempClass
      ∧ 999999 < (tableInForce setUp (s 0)).downDwell * 1000
      ∧ targetAfter setUp l = some 0 ∧ lowIdleHolds setUp l = true ∧ l.demand.ownRecord = ownRecordNow setUp l := by
  decide +kernel

theorem witness_SettleLimitReportsLaboring :
    let s : State := { turning 300 (runningAt 3 4) with
      step := { (runningAt 3 4).step with settled := false, settleTimer := some 15000000 } }
    let s := channelAt .lube 400 (lineAt .runIsolate true (followed 4 s))
    s.seq.engine = .running ∧ s.step.settled = false ∧ s.step.settleTimer = some 15000000
      ∧ setUp.step.settleLimit * 1000000 ≤ 15000000 ∧ 14999999 < setUp.step.settleLimit * 1000000
      ∧ inBandOf (tableInForce setUp s) 3 s.meas.speed = false
      ∧ targetAfter setUp { s with prot := { s.prot with laboringCap := some 3 } } = some 3 := by decide +kernel

theorem witness_LowIdleReachesLo :
    let s : State := lineAt .reverserCentre true { runningAt 1 1 with
      step := { (runningAt 1 1).step with lowIdleTimer := some 120000000 }
      demand := { base.demand with
        source := .own, ownRecord := { row := 1, centred := true, brake := false, serial := 0 } }
      meas := { base.meas with tempClass := .warm } }
    s.step.lowIdleTimer = some 120000000 ∧ lowIdleHolds setUp s = true
      ∧ s.demand.ownRecord = ownRecordNow setUp s ∧ setUp.step.lowIdleTime * 1000000 ≤ 120000000
      ∧ 119999999 < setUp.step.lowIdleTime * 1000000 := by decide

theorem witness_SilenceRemovesPeer :
    let s (age : Nat) : State := withRoster [{ entryFor 3 none with age }] base
    entryOf 3 (s 1000000).roster.entries = some { entryFor 3 none with age := 1000000 }
      ∧ silenceMs setUp * 1000 ≤ 1000000 ∧ 999999 < silenceMs setUp * 1000 := by decide

/-- A unit with an entry, one without where there is room for it, and an eighth unit. -/
theorem witness_StepAndIntentAreRecorded :
    let six := [1, 2, 3, 6, 7, 8].map fun u => entryFor u none
    let s := withRoster [{ entryFor 3 none with intent := some { serial := 9, age := 4 } }] base
    heard setUp 3 s ∧ (3 : UnitNo) ≠ 0 ∧ (entryOf 3 s.roster.entries).isSome = true
      ∧ entryOf 31 (withRoster six base).roster.entries = none
      ∧ (withRoster six base).roster.entries.length < 7
      ∧ entryOf 31 (withRoster (six ++ [entryFor 9 none]) base).roster.entries = none
      ∧ 7 ≤ (withRoster (six ++ [entryFor 9 none]) base).roster.entries.length
      ∧ admitted 3 s ∧ admitted 31 (withRoster six base)
      ∧ ¬ admitted 31 (withRoster (six ++ [entryFor 9 none]) base)
      ∧ s.roster.entries.Pairwise (fun d e => d.unit.val < e.unit.val) := by unfold heard admitted; decide

/-- Unit 3, RUNNING and without an intent, is the one running peer that a quota of 1 counts. -/
theorem witness_StepAndIntentAreRecorded_cancel :
    let e := entryFor 3 (some (statusOf .running (some 1) 0 0 0))
    let s : State := withRoster [e] { base with
      layover := { base.layover with phase := .announced, ownIntent := some 4 } }
    heard setUp 3 s ∧ entryOf 3 s.roster.entries = some e ∧ (statusOf .running (some 1) 0 0 0).engine = .running
      ∧ e.intent = none ∧ (3 : UnitNo) < setUp.unit ∧ s.layover.phase = .announced
      ∧ s.layover.ownIntent = some 4 ∧ runningPeers setUp s = setUp.layover.quota ∧ openLink s := by
  unfold heard openLink; decide

theorem witness_StatusRepairsRecords :
    let shown : StatusContent := { statusOf .starting none 0 0 0 with
      phase := some .crank, claim := some (.protect, 4), intent := some 2 }
    let s := withRoster [{ entryFor 3 none with lastCount := some 5 }] base
    heard setUp 3 s ∧ admitted 3 s ∧ statusValid (statusOf .running (some 1) 1000 1000 1000) = true
      ∧ statusValid shown = true ∧ shown.intent = some 2 ∧ (statusOf .running none 0 0 0).intent = none
      ∧ (statusOf .running none 0 0 0).engine ≠ .layover ∧ (statusOf .running none 0 0 0).engine ≠ .stopping
      ∧ ({ statusOf .stopping none 0 0 0 with dest := some .prep } : StatusContent).claim = none
      ∧ claimOf (.unit 3) { base.arb with claims :=
          [{ who := .unit 3, level := .demand, serial := 4, state := .waiting }] }.claims
          = some { who := .unit 3, level := .demand, serial := 4, state := .waiting }
      ∧ (statusOf .running none 0 0 0).claim = none
      ∧ entryOf 3 s.roster.entries = some { entryFor 3 none with lastCount := some 5 } ∧ (5 : Byte) ≠ shown.crankCount
      ∧ (5 : Byte) = ({ shown with crankCount := 5 } : StatusContent).crankCount ∧ shown.claim = some (.protect, 4)
      ∧ claimOf (.unit 3) s.arb.claims = none
      ∧ (∀ x ∈ s.arb.expired, x.unit = 3 → x.serial ≠ 4) ∧ showsCrank shown = true := by
  unfold heard admitted; decide

/-- Unit 3 CRANKING with serial 6 while its pair of serial 4 stands expired, and a STATUS that shows serial 4. -/
theorem witness_StatusRepairsRecords_expired :
    let s : State := withRoster [entryFor 3 none] base
    let s : State := { s with arb := { s.arb with
      claims := [{ who := .unit 3, level := .demand, serial := 6, state := .cranking 5 }]
      expired := [{ unit := 3, serial := 4 }] } }
    heard setUp 3 s ∧ admitted 3 s
      ∧ claimOf (.unit 3) s.arb.claims
          = some { who := .unit 3, level := .demand, serial := 6, state := .cranking 5 }
      ∧ (4 : Byte) ≠ 6 ∧ { unit := 3, serial := 4 } ∈ s.arb.expired := by
  unfold heard admitted; decide

/-- Unit 3 WAITING with serial 6, its STATUS showing serial 4 in CRANK; and CRANKING with serial 6, its STATUS showing
serial 4 out of CRANK, and no claim at all. -/
theorem witness_StatusRepairsRecords_replaced :
    let s (st : ClaimState) : State :=
      { withRoster [entryFor 3 none] base with arb := { (withRoster [entryFor 3 none] base).arb with
        claims := [{ who := .unit 3, level := .demand, serial := 6, state := st }] } }
    let shown : StatusContent :=
      { statusOf .starting none 0 0 0 with phase := some .crank, claim := some (.protect, 4) }
    let prep : StatusContent := { shown with phase := some .prep }
    (∀ st, heard setUp 3 (s st) ∧ claimOf (.unit 3) (s st).arb.claims
        = some { who := .unit 3, level := .demand, serial := 6, state := st } ∧ (s st).arb.expired = [])
      ∧ admitted 3 (s .waiting) ∧ admitted 3 (s (.cranking 5))
      ∧ statusValid shown = true ∧ showsCrank shown = true
      ∧ statusValid prep = true ∧ showsCrank prep = false ∧ prep.claim = some (.protect, 4)
      ∧ (statusOf .stopped none 0 0 0).claim = none ∧ statusValid (statusOf .stopped none 0 0 0) = true :=
  ⟨fun _ => ⟨⟨rfl, nofun, by decide⟩, rfl, rfl⟩, by unfold admitted; decide, by unfold admitted; decide, by decide,
    by decide, by decide, by decide, rfl, rfl, by decide⟩

/-- A crossing brought by a STATUS: within the overlap window, unit 3 shown in CRANK at PROTECT is ahead of the own
DEMAND, at ROUTINE it is not; with C = 2 nothing is exceeded. -/
theorem witness_StatusRepairsRecords_crossing :
    let s := withRoster [entryFor 3 none] cranking
    let own : Claim := { who := .own, level := .demand, serial := 7, state := .cranking 0 }
    let shown (l : Level) : StatusContent :=
      { statusOf .starting none 0 0 0 with phase := some .crank, claim := some (l, 4) }
    let peer (l : Level) : Claim := { who := .unit 3, level := l, serial := 4, state := .cranking 0 }
    let judged (l : Level) : Arbiter := { s.arb with
      claims := putClaim (peer l) s.arb.claims, rotation := (joinOrRefresh 3 s).arb.rotation }
    heard setUp 3 s ∧ admitted 3 s ∧ (∀ l, statusValid (shown l) = true ∧ showsCrank (shown l) = true)
      ∧ (∀ x ∈ s.arb.expired, x.unit = 3 → x.serial ≠ 4) ∧ claimOf (.unit 3) s.arb.claims = none
      ∧ entryOf 3 s.roster.entries = some (entryFor 3 none) ∧ (entryFor 3 none).lastCount = none
      ∧ s.seq.engine = .starting .crank ∧ s.arb.overlapTimer = some 0 ∧ claimOf .own s.arb.claims = some own
      ∧ setUp.crank.maxCranking < ((putClaim (peer .protect) s.arb.claims).filter isCranking).length
      ∧ ((putClaim (peer .protect) s.arb.claims).filter isCranking).length ≤ 2
      ∧ claimAhead setUp.unit (judged .protect) (peer .protect) own = true
      ∧ claimAhead setUp.unit (judged .routine) (peer .routine) own = false
      ∧ setUp.sense.stoppedSpeed ≤ (turning 30 s).meas.speed ∧ openLink s :=
  ⟨by unfold heard; decide, by unfold admitted; decide, (by rintro (_ | _ | _ | _) <;> decide), by decide, by decide,
    by decide, rfl, rfl, rfl, by decide, by decide, by decide, by decide, by decide, by decide, rfl, rfl⟩

/-- A station with unit 3's claim in a state. -/
def peerClaiming (st : ClaimState) : State :=
  let s := withRoster [entryFor 3 none] base
  { s with arb := { s.arb with claims := [{ who := .unit 3, level := .demand, serial := 4, state := st }] } }

theorem witness_CrankLimitsOfPeers :
    let s (us : Nat) : State := { peerClaiming (.cranking us) with arb :=
      { (peerClaiming (.cranking us)).arb with overlapTimer := some 500000 } }
    claimOf (.unit 3) (s 60000000).arb.claims
        = some { who := .unit 3, level := .demand, serial := 4, state := .cranking 60000000 }
      ∧ setUp.crank.peerCrankLimit * 1000000 ≤ 60000000 ∧ 59999999 < setUp.crank.peerCrankLimit * 1000000
      ∧ (s 0).arb.overlapTimer = some 500000 ∧ setUp.crank.overlapWindow * 1000 ≤ 500000
      ∧ 499999 < setUp.crank.overlapWindow * 1000 := by decide

theorem witness_ClaimAndWithdraw :
    let s := peerClaiming (.cranking 5)
    let x : State := { withRoster [entryFor 3 none] base with arb :=
      { (withRoster [entryFor 3 none] base).arb with expired := [{ unit := 3, serial := 4 }] } }
    heard setUp 3 s ∧ admitted 3 s ∧ (∀ e ∈ s.arb.expired, e.unit = 3 → e.serial ≠ 4)
      ∧ claimOf (.unit 3) s.arb.claims
          = some { who := .unit 3, level := .demand, serial := 4, state := .cranking 5 }
      ∧ claimOf (.unit 3) x.arb.claims = none ∧ { unit := 3, serial := 4 } ∈ x.arb.expired
      ∧ 3 < (4 : Byte).toNat := by
  unfold heard admitted; decide

/-- Within the overlap window, with C = 1: unit 3 at PROTECT stands ahead of the own DEMAND, at ROUTINE it does
not; with C = 2 nothing is exceeded. And unit 3 already CRANKING with the serial it sends. -/
theorem witness_CrankOnMayYield :
    let s := withRoster [entryFor 3 none] cranking
    let own : Claim := { who := .own, level := .demand, serial := 7, state := .cranking 0 }
    let peer (l : Level) : Claim := { who := .unit 3, level := l, serial := 4, state := .cranking 0 }
    let judged (l : Level) : Arbiter := { s.arb with
      claims := putClaim (peer l) s.arb.claims, rotation := (joinOrRefresh 3 s).arb.rotation }
    heard setUp 3 s ∧ admitted 3 s ∧ (∀ x ∈ s.arb.expired, x.unit = 3 → x.serial ≠ 4)
      ∧ claimOf (.unit 3) s.arb.claims = none ∧ s.seq.engine = .starting .crank ∧ s.arb.overlapTimer = some 0
      ∧ claimOf .own s.arb.claims = some own ∧ base.arb.overlapTimer = none
      ∧ setUp.crank.maxCranking < ((putClaim (peer .protect) s.arb.claims).filter isCranking).length
      ∧ ((putClaim (peer .protect) s.arb.claims).filter isCranking).length ≤ 2
      ∧ claimAhead setUp.unit (judged .protect) (peer .protect) own = true
      ∧ claimAhead setUp.unit (judged .routine) (peer .routine) own = false
      ∧ setUp.sense.stoppedSpeed ≤ (turning 30 s).meas.speed
      ∧ (turning 29 s).meas.speed < setUp.sense.stoppedSpeed ∧ 0 < setUp.crank.claimSettle ∧ openLink s
      ∧ heard setUp 3 (peerClaiming (.cranking 5)) ∧ admitted 3 (peerClaiming (.cranking 5))
      ∧ claimOf (.unit 3) (peerClaiming (.cranking 5)).arb.claims
          = some { who := .unit 3, level := .demand, serial := 4, state := .cranking 5 } := by
  unfold heard admitted openLink; decide

theorem witness_CrankOffEndsPeerCrank :
    let s := peerClaiming (.cranking 5)
    heard setUp 3 s ∧ admitted 3 s ∧ (4 : Byte).toNat ≤ 4 ∧ (0 : Byte) ≠ 4
      ∧ entryOf 3 s.roster.entries = some (entryFor 3 none) := by unfold heard admitted; decide

/-- A station at N6 with unit 3 capped: a make-up row is found. -/
theorem witness_MakeUpStaysWithinLimits :
    let s := withRoster [entryFor 3 (some (statusOf .running (some 3) 1000 0 0))]
      (lineAt .runIsolate true (followed 7 (runningAt 7 7)))
    (makeUpRun setUp s).row = some 8 ∧ s.roster.entries.length ≤ 7
      ∧ ∀ e ∈ s.roster.entries, e.status.all (fun c => c.rated ≤ 1000 && c.headroom ≤ 1000) = true := by
  decide

/-- An eligible station at ID, alone but for the running units of its roster. -/
def eligibleWith (entries : List RosterEntry) : State :=
  withRoster entries (lineAt .reverserCentre true (lineAt .brakeSet true
    (channelAt .cool 45 (channelAt .batt 740 (channelAt .resv 800 { runningAt 1 1 with
      demand := { base.demand with
        source := .own, ownRecord := { row := 1, centred := true, brake := true, serial := 0 } } })))))

theorem witness_IdleTimeAnnouncesIntent :
    let s (entries : List RosterEntry) : State := { eligibleWith entries with
      layover := { base.layover with eligible := true, idle := .running 600000000 } }
    let peer := entryFor 3 (some (statusOf .running (some 1) 0 0 0))
    (s []).layover.idle = .running 600000000 ∧ setUp.layover.idleTime * 60000000 ≤ 600000000
      ∧ 599999999 < setUp.layover.idleTime * 60000000 ∧ eligibleNow setUp (s [peer]) = true
      ∧ eligibleNow setUp (s []) = true ∧ (s []).demand.ownRecord = ownRecordNow setUp (s [])
      ∧ (s []).layover.phase = .none ∧ targetAfter setUp (s []) = (s []).step.current
      ∧ targetAfter setUp (s [peer]) = (s [peer]).step.current
      ∧ setUp.layover.quota ≤ runningPeers setUp (s [peer]) ∧ runningPeers setUp (s []) < setUp.layover.quota
      ∧ openLink (s [peer]) := by unfold openLink; decide

theorem witness_IntentHoldCommitsOrCancels :
    let s (entries : List RosterEntry) : State := { turning 30 (eligibleWith entries) with
      layover := { base.layover with
        eligible := true, phase := .announced, ownIntent := some 4, holdTimer := some 1500000 } }
    let peer := entryFor 3 (some (statusOf .running (some 1) 0 0 0))
    (s []).layover.phase = .announced ∧ (s []).layover.ownIntent = some 4
      ∧ (s []).layover.holdTimer = some 1500000 ∧ setUp.layover.intentHold * 1000 ≤ 1500000
      ∧ 1499999 < setUp.layover.intentHold * 1000 ∧ eligibleNow setUp (s [peer]) = true
      ∧ setUp.layover.quota ≤ runningPeers setUp (s [peer])
      ∧ setUp.sense.stoppedSpeed ≤ (s [peer]).meas.speed
      ∧ Quiet setUp (s []) ∧ runningPeers setUp (s []) < setUp.layover.quota
      ∧ eligibleNow setUp (channelAt .cool 44 (s [peer])) = false ∧ openLink (s []) :=
  ⟨by decide, by decide, by decide, by decide, by decide, by decide, by decide, by decide,
    ⟨(by intro d h; cases h), (by intro h; cases h), (by intro h; cases h <;> contradiction)⟩, by decide, by decide, rfl, rfl⟩

theorem witness_SenseIsDebounced :
    let s (stable : Nat) : State := { base with lines := { base.lines with
      prelube := { base.lines.prelube with sense := { raw := true, settled := some false, stable } } } }
    let f : State := { s 20000 with reader := { State.reset.reader with state := .failed } }
    20000 ≤ (outputOf (s 20000).lines .prelube).sense.stable
      ∧ (outputOf (s 20000).lines .prelube).sense.settled ≠ some (outputOf (s 20000).lines .prelube).sense.raw
      ∧ (s 20000).reader.applied = some setUp ∧ f.reader.applied = none
      ∧ (outputOf (s 19999).lines .prelube).sense.stable < 20000 := by decide

/-- A mismatch timer at 300 ms on each side, in CRANK and in RUNNING, and one microsecond short. -/
theorem witness_MismatchRaisesFault :
    let s (command : Bool) (us : Nat) : State := { cranking with lines := { base.lines with
      crankValve := { base.lines.crankValve with command, mismatch := some us }
      rackEnable := { base.lines.rackEnable with command, mismatch := some us }
      loadPermit := { base.lines.loadPermit with command, mismatch := some us } } }
    (outputOf (s true 300000).lines .crankValve).mismatch = some 300000
      ∧ (outputParams setUp.lines .crankValve).mismatch * 1000 ≤ 300000
      ∧ 299999 < (outputParams setUp.lines .crankValve).mismatch * 1000
      ∧ (outputOf (s false 300000).lines .crankValve).command = false ∧ isInhibited (s false 0) = false
      ∧ (outputOf (s true 300000).lines .crankValve).command = true ∧ (s true 0).seq.engine = .starting .crank
      ∧ (outputOf (s true 300000).lines .rackEnable).command = true
      ∧ (outputOf (s false 300000).lines .rackEnable).command = false
      ∧ Quiet setUp { s true 300000 with seq := { base.seq with engine := .running } } :=
  ⟨by decide, by decide, by decide, by decide, by decide, by decide, by decide, by decide, by decide,
    ⟨(by intro d h; cases h), (by intro h; cases h), (by intro h; cases h <;> contradiction)⟩⟩

/-- RACK-ENABLE commanded on and sensed off in RUNNING, CRANK-VALVE and LOAD-PERMIT commanded off and sensed on. -/
theorem witness_MismatchRaisesFault_present :
    let s : State := { inState .running with lines := { base.lines with
      crankValve := { base.lines.crankValve with
        sense := { raw := true, settled := some true, stable := 20000 }, mismatch := some 300000 }
      rackEnable := { base.lines.rackEnable with command := true, mismatch := some 300000 }
      loadPermit := { base.lines.loadPermit with
        sense := { raw := true, settled := some true, stable := 20000 }, mismatch := some 300000 } } }
    Quiet setUp s ∧ (∀ out, out = .crankValve ∨ out = .rackEnable ∨ out = .loadPermit →
        (outputOf s.lines out).mismatch = some 300000
        ∧ (outputOf s.lines out).command = resolvedCommand s out
        ∧ sensedOn s out ≠ (outputOf s.lines out).command)
      ∧ (outputOf s.lines .crankValve).command = false ∧ (outputOf s.lines .loadPermit).command = false
      ∧ isolated s = true :=
  ⟨⟨(by intro d h; cases h), (by intro h; cases h), (by intro h; cases h <;> contradiction)⟩,
    (by rintro out (rfl | rfl | rfl) <;> decide), rfl, rfl, by decide⟩

theorem witness_StatusIsQueuedAndFramesBegin :
    let s (us : Nat) : State := { base with link := { base.link with statusTimer := some us } }
    let q : State := { base with link := { base.link with queue := [.status] } }
    let kept : TxBuffer := { frame := .made .fuelCut, content := .fuelCut, tries := 2, onLine := false }
    let b : State := { base with link := { base.link with buffer := some kept } }
    (s 100000).link.statusTimer = some 100000 ∧ setUp.link.statusPeriod * 1000 ≤ 100000
      ∧ 99999 < setUp.link.statusPeriod * 1000 ∧ openLink (s 100000)
      ∧ q.link.state = .up ∧ q.link.buffer = none ∧ q.link.queue = [.status]
      ∧ b.link.state = .up
      ∧ b.link.buffer = some kept ∧ kept.onLine = false
      ∧ base.link.buffer = none ∧ base.link.queue = [] ∧ base.link.state = .up := by unfold openLink; decide

/-- At the status period two frames wait; and the sets and records a valid content rests on are met. -/
theorem witness_StatusIsQueuedAndFramesBegin_waiting :
    let s : State := { base with link := { base.link with
      statusTimer := some 100000, queue := [.made (.claim 2 7), .status] } }
    s.link.statusTimer = some 100000 ∧ setUp.link.statusPeriod * 1000 ≤ 100000 ∧ s.link.state = .up
      ∧ queueSound s.link ∧ s.link.queue.length < 7 ∧ (∀ r, powerOf (tableInForce setUp s) r ≤ 1000)
      ∧ rosterSound s ∧ attemptSound s ∧ contentValid (.claim 2 7) = true := by
  refine ⟨by decide, by decide, rfl, by unfold queueSound; decide, by decide, by decide, ?_, ?_, by decide⟩
  · refine ⟨by decide, by decide, by decide, (fun _ _ _ he => by cases he), (by intro h; cases h), by decide, ?_⟩
    intro w
    constructor
    · intro h
      cases h with
      | head => exact .inl rfl
      | tail _ h => cases h
    · rintro (rfl | ⟨e, he, -⟩)
      · exact .head _
      · cases he
  · exact ⟨(fun _ h => by cases h), fun _ _ h => by cases h⟩

/-- A frame on the line in its second and in its third try. -/
theorem witness_TransmitOutcomes :
    let b (tries : Nat) : TxBuffer := { frame := .status, content := .fuelCut, tries, onLine := true }
    let s (tries : Nat) : State := { base with link := { base.link with buffer := some (b tries) } }
    (s 2).reader.applied = some setUp ∧ (s 2).link.buffer = some (b 2) ∧ (b 2).onLine = true ∧ (b 2).tries < 3
      ∧ (s 3).link.buffer = some (b 3) ∧ 3 ≤ (b 3).tries := by decide

theorem witness_AddressedFrames :
    heard setUp 0 base ∧ (5 : Byte).toNat = setUp.unit.val ∧ openLink base ∧ (6 : Byte).toNat ≠ setUp.unit.val
      ∧ contentValid (.reply [0, 0, 2]) = true ∧ contentValid (.reply [0, 9]) = false
      ∧ receiveLine [] = none := by unfold heard openLink; decide

theorem witness_DuplicateSilencesStation :
    base.reader.applied = some setUp ∧ contentValid .fuelCut = true ∧ contentValid (.query 5 0 0) = true
      ∧ (∀ e, (inState e).reader.applied = some setUp ∧ (inState e).link.state = .up ∧ (inState e).seq.engine = e)
      ∧ ({ base with link := { base.link with state := .silent } } : State).link.state = .silent
      ∧ atRest setUp (turning 30 (inState (.stopping .prep))) = false
      ∧ atRest setUp (turning 29 (inState (.stopping .prep))) = true :=
  ⟨rfl, by decide, by decide, fun _ => ⟨rfl, rfl, rfl⟩, rfl, by decide, by decide⟩

/-- Each kind of frame, at bounds of its fields. -/
theorem witness_FrameReadsBack :
    contentValid (.crankOn 3 255) = true ∧ contentValid (.crankOff 4 3 0 255) = true
      ∧ contentValid (.demand 255 1 1 15) = true ∧ contentValid (.status (statusOf .layover none 1000 1000 1000)) = true
      ∧ contentValid (.reply [0, 0, 2]) = true ∧ contentValid .fuelCut = true := by decide

theorem witness_QueueKeepsItsOrder :
    let q : List TxFrame := [.made .fuelCut, .made (.claim 2 1), .status]
    let full (last : TxFrame) : List TxFrame :=
      [.made .fuelCut, .made (.crankOn 0 0), .made (.crankOff 0 0 0 0), .made (.claim 0 0), .made (.demand 1 1 1 1),
        .made (.step 1), .made (.layoverIntent 0), last]
    let kinds (q : List TxFrame) := q.map txKind
    (q.length ≤ 8 ∧ q.Pairwise (fun a b => txKind a < txKind b) ∧ ∀ g ∈ q, txKind (.made .fuelCut) ≤ txKind g)
      ∧ (∃ g ∈ q, (txKind (.made (.withdraw 1)), txKind g) = (4, 3))
      ∧ ((full .status).length = 8 ∧ (full .status).Pairwise (fun a b => txKind a < txKind b)
        ∧ (full (.reply 0 1 0)).Pairwise (fun a b => txKind a < txKind b))
      ∧ ((full .status).getLast? = some .status ∧ txKind .status < txKind (.reply 0 1 0))
      ∧ ((full (.reply 0 1 0)).getLast? = some (.reply 0 1 0) ∧ ∀ g ∈ full (.reply 0 1 0), txKind g ≠ txKind .status)
      ∧ kinds (enqueue (.made (.withdraw 1)) (full .status)) = [0, 1, 2, 4, 5, 6, 7, 9]
      ∧ enqueue (.reply 0 1 0) (full .status) = full .status
      ∧ enqueue .status (full (.reply 0 1 0)) = full .status := by
  refine ⟨by decide, ⟨_, .tail _ (.head _), by decide⟩, by decide, by decide, by decide, by decide, by decide, by decide⟩

/-- A station in PREP with a peer in its roster, a frame in its queue and a command waiting. -/
def soundState : State :=
  { settleOutputs setUp (withRoster [entryFor 3 none] { preparing with
      seq := { preparing.seq with
        record := some { level := .demand, number := 1, phases := [{ elapsed := 0, speed := none }], result := none } }
      link := { base.link with queue := [.made (.claim 2 7)] } }) with
    pending := [.pickupEdge] }

/-- What OutputsFollowEveryStep, ListsStaySound and OwnClaimStaysSound ask holds of the sound state, and it takes a
step. -/
theorem witness_invariants :
    readerSound soundState ∧ rosterSound soundState ∧ queueSound soundState.link ∧ framesSound soundState.link
      ∧ ownClaimSound soundState ∧ arbiterSound soundState ∧ attemptSound soundState ∧ layoverSound soundState
      ∧ outputsFollow soundState ∧ linesSound soundState ∧ ∃ t, step soundState = .next t := by
  refine ⟨?_, ?_, ?_, ?_, ?_, ?_, ?_, ?_, ?_, ?_, _, rfl⟩
  · unfold readerSound; decide
  · refine ⟨by decide, by decide, by decide, ?_, (by intro h; cases h), by decide, ?_⟩
    · intro p h e he
      cases h
      revert e
      decide
    · intro w
      constructor
      · intro h
        cases h with
        | head => exact .inl rfl
        | tail _ h =>
          cases h with
          | head => exact .inr ⟨_, .head _, rfl⟩
          | tail _ h => cases h
      · rintro (rfl | ⟨e, he, rfl⟩)
        · exact .head _
        · cases he with
          | head => exact .tail _ (.head _)
          | tail _ h => cases h
  · unfold queueSound; decide
  · refine ⟨fun c h => ?_, fun b h => by cases h⟩
    cases h with
    | head => decide
    | tail _ h => cases h
  · refine ⟨by decide, ⟨fun _ => ⟨_, rfl, rfl⟩, fun _ => rfl⟩, ⟨(fun h => by cases h), ?_⟩⟩
    rintro ⟨c, h, k⟩
    cases h
    cases k
  · refine ⟨fun c h u hu => ?_, (fun _ h => by cases h), fun _ h => by cases h⟩
    cases h with
    | head => cases hu
    | tail _ h => cases h
  · refine ⟨fun phase h => ?_, fun h => absurd rfl (h .prep)⟩
    cases h
    exact ⟨_, rfl, rfl, rfl⟩
  · exact ⟨by decide, by decide, (fun h => by cases h), (fun h => by cases h), (fun h => by cases h), fun _ => nofun⟩
  · intro p h
    cases h
    refine ⟨?_, by decide, by decide, by decide, by decide, by decide⟩
    intro out
    cases out <;> decide
  · intro out
    cases out <;> decide

/-- What the blocks have judged stands in the sound state. -/
theorem witness_invariants_standing : ∀ p, soundState.reader.applied = some p → Standing p soundState := by
  intro p h
  cases h
  exact
    { lubeTrip := ⟨(fun h => by cases h), fun h => by cases h.1⟩
      hotStop := ⟨(fun h => by cases h), fun h => by cases h.1⟩
      confirm := ⟨(fun h => by cases h), fun h => by cases h.1⟩
      lowIdle := ⟨(fun h => by cases h), fun h => by cases h.2.1⟩
      lowIdleReached := fun h => by cases h
      makeUp := by decide
      noTarget := fun _ => rfl
      target := fun h => by cases h
      targetInLimits := fun _ h => by cases h
      staggerHold := fun h => by cases h
      loadPermit := ⟨(fun h => by cases h), fun h => by cases h.1⟩
      quota := fun _ => by decide
      eligible := ⟨(fun h => by cases h), fun h => by cases h.2.1⟩
      watch := fun _ h => by cases h }

end Sys2Proof.Tests
end

/-! What a valid converter reply leaves of the measurements, and from it the temperature class a valid COOL sample
leads to (R13). -/

namespace Sys2Proof.Machine

variable {s : State} {p : Params} {c : Channel}

/-! ### A valid reply -/

/-- R7: the first reply of a slot, naming the requested channel and valid, is that channel's sample. -/
theorem exec_converterReply_valid (raw : BitVec 12) (hp : s.reader.applied = some p)
    (hreq : s.meas.request = some c) (hfirst : s.meas.taken = false) :
    exec (.converterReply c raw true) s = .next (validSample p c raw (takeReply s)) := by
  have arm : exec (.converterReply c raw true) s = execConverterReply c raw true s := rfl
  rw [arm, execConverterReply, withParams_some s _ hp]
  simp [hreq, hfirst]

/-- The judgements after a valid sample leave the measurements as the new channel value has made them. -/
theorem validSample_meas (p : Params) (c : Channel) (raw : BitVec 12) (s : State) :
    (validSample p c raw s).meas =
      (channelValue p c
        (windowMean (joinWindow (channelOf s.meas c).window (scaleSample (scaleOf p c) raw)))
        (setChannel c
          (sampleChannel (scaleSample (scaleOf p c) raw) (channelOf s.meas c)) s)).meas :=
  (settle_kept p _).meas

/-! ### A valid COOL sample -/

/-- R9, R10: the COOL channel joins the scaled reading, and its value becomes the mean of the window. -/
theorem validSample_cool (p : Params) (raw : BitVec 12) (s : State) :
    (validSample p .cool raw s).meas.cool
      = sampleChannel (scaleSample p.sense.cool raw) s.meas.cool := by
  rw [validSample_meas]
  rfl

/-- R13: the class is judged from the class held and the COOL value the sample leaves. -/
theorem validSample_cool_tempClass {v : Int} {raw : BitVec 12}
    (hv : (validSample p .cool raw s).meas.cool.value = some v) :
    (validSample p .cool raw s).meas.tempClass
      = classAfter p.sense.coldLimit p.sense.hotLimit s.meas.tempClass v := by
  rw [validSample_cool] at hv
  obtain rfl : windowMean (joinWindow s.meas.cool.window (scaleSample p.sense.cool raw)) = v :=
    Option.some.inj hv
  rw [validSample_meas]
  rfl

/-- Settles O17: the reply runs the COOL sample, which leaves the channel's mean as its value and the class R13's table
has for that value; the table is then read off row by row, by the class held. -/
theorem coolSampleMovesClass : Obligations.CoolSampleMovesClass := by
  intro p s raw hp hreq hfirst
  have hrun := exec_converterReply_valid raw hp hreq hfirst
  have hvalue := congrArg ChannelState.value (validSample_cool p raw (takeReply s))
  refine ⟨_, _, hrun, hvalue, ?_⟩
  rw [validSample_cool_tempClass hvalue]
  change classAfter _ _ s.meas.tempClass _ = _
  cases s.meas.tempClass with
  | cold => rfl
  | warm => rfl
  | hot => rfl

end Sys2Proof.Machine

/-! The hot latches a valid COOL sample leads to, and the hot cap those latches give (R44). -/

namespace Sys2Proof.Machine

variable {s : State} {p : Params} {v : Int} {raw : BitVec 12}

/-! ### One hot latch -/

section Latch

variable {threshold : Int} {held : Bool}

/-- R44: from its setting point up a latch is set. -/
theorem latchAfter_set (h : threshold ≤ v) : latchAfter threshold held v = true := if_pos h

/-- R44: below its clearing point a latch is clear. -/
theorem latchAfter_clear (h : v < threshold - 3) : latchAfter threshold held v = false := by
  rw [latchAfter, if_neg (by omega), if_pos h]

/-- R44: from its clearing point to below its setting point a latch stands. -/
theorem latchAfter_hold (hlow : threshold - 3 ≤ v) (hhigh : v < threshold) :
    latchAfter threshold held v = held := by
  rw [latchAfter, if_neg (by omega), if_neg (by omega)]

end Latch

/-! ### The hot cap of three latches -/

section HotCap

variable {d1 d2 hot : Bool}

theorem rowMin_eq_min (a b : Row) : rowMin a b = min a b := by
  simp only [rowMin, min_def, Fin.le_def]

/-- R44: no latch set, no hot cap. -/
theorem hotCapOf_clear (h1 : d1 = false) (h2 : d2 = false) (h3 : hot = false) :
    hotCapOf p d1 d2 hot = none := by
  rw [h1, h2, h3]
  rfl

/-- R44: the row a latch holds the hot cap to; a clear one holds it to no row, as row 9 does. -/
def latchRow (set : Bool) (cap : Row) : Row := if set then cap else 9

theorem latchRow_set {set : Bool} {cap : Row} (h : set = true) : latchRow set cap = cap := if_pos h

theorem eq_cap_or_top_of_eq_latchRow {set : Bool} {r cap : Row} (e : r = latchRow set cap) :
    set = true ∧ r = cap ∨ r = 9 := by
  cases set with
  | true => exact .inl ⟨rfl, e⟩
  | false => exact .inr e

/-- R44: where a latch is set the hot cap is the least of the latches' rows. -/
theorem hotCapOf_eq_min (h : d1 = true ∨ d2 = true ∨ hot = true) :
    hotCapOf p d1 d2 hot
      = some (min (latchRow d1 p.protect.derate1Cap)
          (min (latchRow d2 p.protect.derate2Cap) (latchRow hot 1))) := by
  rw [hotCapOf, if_pos (by simpa [or_assoc] using h), rowMin_eq_min, rowMin_eq_min]
  rfl

/-- A minimum of the latches' rows is the cap of a latch that is set: were it a clear latch's row 9, the set latch's
cap, no less and no more than row 9, would be that row too. -/
theorem least_latchRow_attained {r c1 c2 c3 : Row}
    (hr : r = min (latchRow d1 c1) (min (latchRow d2 c2) (latchRow hot c3)))
    (le1 : d1 = true → r ≤ c1) (le2 : d2 = true → r ≤ c2) (le3 : hot = true → r ≤ c3)
    (h : d1 = true ∨ d2 = true ∨ hot = true) :
    d1 = true ∧ r = c1 ∨ d2 = true ∧ r = c2 ∨ hot = true ∧ r = c3 := by
  have ofTop (top : r = 9) : d1 = true ∧ r = c1 ∨ d2 = true ∧ r = c2 ∨ hot = true ∧ r = c3 := by
    have meets {c : Row} (le : r ≤ c) : r = c := le_antisymm le (top ▸ Fin.le_last c)
    exact h.imp (fun d => ⟨d, meets (le1 d)⟩)
      (.imp (fun d => ⟨d, meets (le2 d)⟩) fun d => ⟨d, meets (le3 d)⟩)
  have choice : r = latchRow d1 c1 ∨ r = latchRow d2 c2 ∨ r = latchRow hot c3 := by
    rw [hr]
    exact (min_choice _ _).imp_right fun e => by rw [e]; exact min_choice _ _
  rcases choice with e | e | e
  · exact (eq_cap_or_top_of_eq_latchRow e).elim .inl ofTop
  · exact (eq_cap_or_top_of_eq_latchRow e).elim (.inr ∘ .inl) ofTop
  · exact (eq_cap_or_top_of_eq_latchRow e).elim (.inr ∘ .inr) ofTop

/-- R44: the hot cap is the least of the set latches' caps: above none of them, and one of them. -/
theorem hotCapOf_least (h : d1 = true ∨ d2 = true ∨ hot = true) :
    ∃ cap, hotCapOf p d1 d2 hot = some cap
      ∧ (d1 = true → cap ≤ p.protect.derate1Cap)
      ∧ (d2 = true → cap ≤ p.protect.derate2Cap)
      ∧ (hot = true → cap ≤ 1)
      ∧ (d1 = true ∧ cap = p.protect.derate1Cap ∨ d2 = true ∧ cap = p.protect.derate2Cap
          ∨ hot = true ∧ cap = 1) := by
  refine ⟨_, hotCapOf_eq_min h, ?_⟩
  generalize hr : min (latchRow d1 p.protect.derate1Cap)
    (min (latchRow d2 p.protect.derate2Cap) (latchRow hot 1)) = r
  have below : r ≤ latchRow d1 p.protect.derate1Cap ∧ r ≤ latchRow d2 p.protect.derate2Cap
      ∧ r ≤ latchRow hot 1 := by
    rw [← le_min_iff, ← le_min_iff, hr]
  obtain ⟨below1, below2, below3⟩ := below
  have le1 (d : d1 = true) : r ≤ p.protect.derate1Cap := below1.trans_eq (latchRow_set d)
  have le2 (d : d2 = true) : r ≤ p.protect.derate2Cap := below2.trans_eq (latchRow_set d)
  have le3 (d : hot = true) : r ≤ 1 := below3.trans_eq (latchRow_set d)
  exact ⟨le1, le2, le3, least_latchRow_attained hr.symm le1 le2 le3 h⟩

end HotCap

/-! ### A valid COOL sample -/

/-- The judgements after a valid COOL sample keep what its value has made of the class and the latches. -/
theorem validSample_cool_kept (p : Params) (raw : BitVec 12) (s : State) :
    Kept
      (coolValue p (windowMean (joinWindow s.meas.cool.window (scaleSample p.sense.cool raw)))
        (setChannel .cool (sampleChannel (scaleSample p.sense.cool raw) s.meas.cool) s))
      (validSample p .cool raw s) :=
  settle_kept p _

/-- R44: each latch is judged from its state before and the COOL value the sample leaves. -/
theorem validSample_cool_latches
    (hv : (validSample p .cool raw s).meas.cool.value = some v) :
    (validSample p .cool raw s).prot.derate1 = latchAfter p.protect.derate1Temp s.prot.derate1 v
      ∧ (validSample p .cool raw s).prot.derate2
          = latchAfter p.protect.derate2Temp s.prot.derate2 v
      ∧ (validSample p .cool raw s).prot.hotStop
          = latchAfter p.protect.hotTemp s.prot.hotStop v := by
  rw [validSample_cool] at hv
  obtain rfl : windowMean (joinWindow s.meas.cool.window (scaleSample p.sense.cool raw)) = v :=
    Option.some.inj hv
  have kept := validSample_cool_kept p raw s
  exact ⟨kept.derate1, kept.derate2, kept.hotStop⟩

/-- R44: the hot cap after a valid sample is that of the latches after it. -/
theorem validSample_hotCap (p : Params) (c : Channel) (raw : BitVec 12) (s : State) :
    (validSample p c raw s).prot.hotCap
      = hotCapOf p (validSample p c raw s).prot.derate1 (validSample p c raw s).prot.derate2
          (validSample p c raw s).prot.hotStop := by
  unfold validSample
  dsimp only
  generalize channelValue p c _ _ = u
  rw [settle_hotCap, (settle_kept p u).derate1, (settle_kept p u).derate2,
    (settle_kept p u).hotStop]

/-- Settles O18: the reply runs the COOL sample, which judges each latch by the value it leaves, in three zones, and
the hot cap is then the least of the caps of the latches set. -/
theorem coolSampleMovesLatches : Obligations.CoolSampleMovesLatches := by
  refine ⟨rfl, rfl, rfl, fun p s raw hp hreq hfirst => ?_⟩
  have hrun := exec_converterReply_valid raw hp hreq hfirst
  have hvalue := congrArg ChannelState.value (validSample_cool p raw (takeReply s))
  obtain ⟨hd1, hd2, hhot⟩ := validSample_cool_latches hvalue
  have hcap := validSample_hotCap p .cool raw (takeReply s)
  refine ⟨_, _, hrun, hvalue,
    hd1.trans ∘ latchAfter_set, hd1.trans ∘ latchAfter_clear,
    fun low high => hd1.trans (latchAfter_hold low high),
    hd2.trans ∘ latchAfter_set, hd2.trans ∘ latchAfter_clear,
    fun low high => hd2.trans (latchAfter_hold low high),
    hhot.trans ∘ latchAfter_set, hhot.trans ∘ latchAfter_clear,
    fun low high => hhot.trans (latchAfter_hold low high), ?_, ?_⟩
  · intro clear1 clear2 clearHot
    exact hcap.trans (hotCapOf_clear clear1 clear2 clearHot)
  · intro hset
    obtain ⟨cap, heq, hleast⟩ := hotCapOf_least (p := p) hset
    exact ⟨cap, hcap.trans heq, hleast⟩

end Sys2Proof.Machine

/-! What a step can do to the lists, the claims, the attempt record and the intent, as a chain of moves: each move is one
shared operation with the condition in which the model runs it. Every invariant of these items is then one check for
each move. -/

namespace Sys2Proof.Machine

variable {s t u : State} {p : Params}

/-! ### The kinds of move -/

/-- A unit has a roster entry. -/
def hasEntry (u : UnitNo) (s : State) : Prop := ∃ e ∈ s.roster.entries, e.unit = u

/-- R150: an output has no mismatch timer or no present fault. -/
def lineApart (l : OutputLine) : Prop := l.mismatch = none ∨ l.present = .none

/-- R133: two idle timers at the same stage, whatever time a running one shows. -/
def sameStage : IdleTimer → IdleTimer → Prop
  | .running _, .running _ => True
  | a, b => a = b

/-- What a frame asked for with its content must pass (R170). -/
def frameSound (f : TxFrame) : Prop := ∀ c, f = .made c → contentValid c = true

/-- A change of none of the items the invariants speak of: timers may run, entries keep their units, claims their
owners and states. -/
structure Framed (s t : State) : Prop where
  applied : t.reader.applied = s.reader.applied
  readerState : t.reader.state = s.reader.state
  units : t.roster.entries.map (·.unit) = s.roster.entries.map (·.unit)
  claims : t.arb.claims.map (fun c => (c.who, isCranking c)) = s.arb.claims.map (fun c => (c.who, isCranking c))
  rotation : t.arb.rotation = s.arb.rotation
  crossing : t.arb.crossing = s.arb.crossing
  expired : t.arb.expired = s.arb.expired
  engine : t.seq.engine = s.seq.engine
  record : t.seq.record = s.seq.record
  linkState : t.link.state = s.link.state
  queue : t.link.queue = s.link.queue
  buffer : t.link.buffer = s.link.buffer
  intent : t.layover.ownIntent = s.layover.ownIntent ∧ t.layover.phase = s.layover.phase
    ∧ t.layover.eligible = s.layover.eligible
  holdTimer : t.layover.holdTimer.isSome = s.layover.holdTimer.isSome
  idle : sameStage s.layover.idle t.layover.idle
  lines : ∀ out, lineApart (outputOf s.lines out) → lineApart (outputOf t.lines out)

/-- What the arbiter takes of the peers, whose roster entries stand behind it: the own claim stands, each unit keeps at
most one entry, and the rotation is only permuted. -/
structure PeersMoved (s : State) (b : Arbiter) : Prop where
  own : claimOf .own b.claims = claimOf .own s.arb.claims
  nodup : (s.arb.claims.map (·.who)).Nodup → (b.claims.map (·.who)).Nodup
  claims : ∀ c ∈ b.claims, ∀ u, c.who = .unit u → (∃ d ∈ s.arb.claims, d.who = .unit u) ∨ hasEntry u s
  crossing : ∀ u ∈ b.crossing, u ∈ s.arb.crossing ∨ hasEntry u s
  expired : ∀ x ∈ b.expired, (∃ y ∈ s.arb.expired, y.unit = x.unit)
    ∨ (∃ d ∈ s.arb.claims, d.who = .unit x.unit) ∨ hasEntry x.unit s
  rotation : s.arb.rotation.Nodup → b.rotation.Perm s.arb.rotation

/-- How an attempt, a claim or a stay in a state is closed before the engine state changes: the own claim is removed, or
there is none to remove outside PREP and CRANK; the record takes its result, or has none to take outside STARTING. -/
structure Ended (s t : State) : Prop where
  reader : t.reader = s.reader
  roster : t.roster = s.roster
  layover : t.layover = s.layover
  lines : t.lines = s.lines
  engine : t.seq.engine = s.seq.engine
  claims : t.arb.claims = dropClaim .own s.arb.claims
    ∨ t.arb.claims = s.arb.claims ∧ s.seq.engine ≠ .starting .prep ∧ s.seq.engine ≠ .starting .crank
  rotation : s.arb.rotation.Nodup → t.arb.rotation.Perm s.arb.rotation
  crossing : t.arb.crossing ⊆ s.arb.crossing
  expired : t.arb.expired = s.arb.expired
  record : (∃ result, t.seq.record = (endAttempt result s).seq.record)
    ∨ t.seq.record = s.seq.record ∧ ∀ phase, s.seq.engine ≠ .starting phase
  link : t.link = s.link ∨ ∃ f, frameSound f ∧ t.link = (requestFrame f s).link

/-- What sending does to the link: frames leave the queue for the buffer, and the buffer is emptied. -/
structure Sent (a b : Link) : Prop where
  state : b.state = a.state
  queue : b.queue.Sublist a.queue
  buffer : ∀ x, b.buffer = some x →
    (a.state = .up ∨ ∃ y, a.buffer = some y) ∧ (x.frame ∈ a.queue ∨ ∃ y, a.buffer = some y ∧ x.frame = y.frame)

/-- One move of an APPLIED station. -/
inductive Move (p : Params) : State → State → Prop where
  | frame {s t : State} (h : Framed s t) : Move p s t
  | request {s : State} (f : TxFrame) (h : frameSound f) : Move p s (requestFrame f s)
  | send {s : State} {l : Link} (h : Sent s.link l) : Move p s { s with link := l }
  | silence {s : State} (h : s.link.state = .up) (l : Link) (hl : l.state = .silent ∧ l.queue = [] ∧ l.buffer = none) :
    Move p s { s with link := l }
  | peers {s : State} {b : Arbiter} (h : PeersMoved s b) : Move p s { s with arb := b }
  | join {s : State} (u : UnitNo) (h0 : u ≠ 0) (hu : u ≠ p.unit) : Move p s (joinOrRefresh u s)
  | leave {s : State} (u : UnitNo) : Move p s (leaveRoster u s)
  | prep {s : State} : Move p s (enterPrep s)
  | crank {s : State} (h : s.seq.engine = .starting .prep) : Move p s (enterCrank s)
  | release {s : State} (h : s.seq.engine = .starting .crank) : Move p s (releaseCrank s)
  | confirm {s : State} (h : s.seq.engine = .starting .fire) : Move p s (enterPhase .confirm s)
  | ended {s t : State} (e : EngineState) (he : isStarting e = false) (h : Ended s t) : Move p s (enterState e t)
  | eligible {s : State} : Move p s (settleEligible p s)
  | cancel {s : State} : Move p s (cancelIntent s)
  | idle {s : State} {us : Nat} (h : s.layover.idle = .running us) :
    Move p s { s with layover := { s.layover with idle := .reached } }
  | commit {s : State} (h : s.layover.phase = .announced) : Move p s (commitLayover s)
  | quiet {s : State} : Move p s (silenceLayover s)

/-- A chain of moves. -/
def Moves (p : Params) : State → State → Prop := Relation.ReflTransGen (Move p)

theorem Move.one (h : Move p s t) : Moves p s t := Relation.ReflTransGen.single h

theorem Moves.refl (s : State) : Moves p s s := Relation.ReflTransGen.refl

theorem Moves.trans (h : Moves p s t) (k : Moves p t u) : Moves p s u := Relation.ReflTransGen.trans h k

theorem Moves.ite {c : Prop} [Decidable c] (h : c → Moves p s t) (k : ¬c → Moves p s u) :
    Moves p s (if c then t else u) := by
  split
  · exact h ‹_›
  · exact k ‹_›

/-! ### Frames -/

theorem sameStage_refl (i : IdleTimer) : sameStage i i := by cases i <;> trivial

/-- A change outside the reader, roster, arbiter, layover unit, lines, link, engine state and record. -/
theorem Framed.of_blocks (hr : t.reader = s.reader := by rfl) (ho : t.roster = s.roster := by rfl)
    (ha : t.arb = s.arb := by rfl) (he : t.seq.engine = s.seq.engine := by rfl) (hc : t.seq.record = s.seq.record := by rfl)
    (hk : t.link = s.link := by rfl) (hl : t.layover = s.layover := by rfl) (hd : t.lines = s.lines := by rfl) : Framed s t := by
  constructor <;> simp only [hr, ho, ha, he, hc, hk, hl, hd, and_self, sameStage_refl, imp_self, implies_true]

theorem Moves.of_blocks (hr : t.reader = s.reader := by rfl) (ho : t.roster = s.roster := by rfl)
    (ha : t.arb = s.arb := by rfl) (he : t.seq.engine = s.seq.engine := by rfl) (hc : t.seq.record = s.seq.record := by rfl)
    (hk : t.link = s.link := by rfl) (hl : t.layover = s.layover := by rfl) (hd : t.lines = s.lines := by rfl) : Moves p s t :=
  (Move.frame (Framed.of_blocks hr ho ha he hc hk hl hd)).one

theorem Moves.request {f : TxFrame} (hf : frameSound f) : Moves p s (requestFrame f s) := (Move.request f hf).one

theorem Moves.made {c : Content} (h : contentValid c = true) : Moves p s (requestMade c s) :=
  Moves.request fun _ e => by cases e; exact h

/-! ### The judgements that follow a command -/

theorem levelByte_valid (l : Level) : (levelByte l).toNat ≤ 3 := by cases l <;> decide

theorem markByte_valid (b : Bool) : (markByte b).toNat ≤ 1 := by cases b <;> decide

theorem demandContent_valid (r : OwnRecord) : contentValid (demandContent r) = true := by
  have hs : (BitVec.ofNat 8 r.serial.val).toNat ≤ 15 := by
    have := r.serial.isLt
    rw [BitVec.toNat_ofNat]
    omega
  simp only [demandContent, contentValid, markByte_valid, hs, decide_true, Bool.and_self]

theorem settleOwnRecord_moves (p : Params) (s : State) : Moves p s (settleOwnRecord p s) := by
  unfold settleOwnRecord
  refine Moves.ite (fun _ => .refl s) fun _ => ?_
  have h : Moves p s { s with demand := { s.demand with ownRecord := ownRecordNow p s } } :=
    .of_blocks
  exact Moves.ite (fun _ => h.trans (.made (demandContent_valid _))) fun _ => h

theorem settleReport_moves (s : State) : Moves p s (settleReport s) := by
  unfold settleReport
  exact Moves.ite (fun _ => .of_blocks) fun _ => .refl s

theorem settleRow_moves (p : Params) (s : State) : Moves p s (settleRow p s) := by
  unfold settleRow
  split
  · exact .refl s
  · exact Moves.ite (fun _ => .of_blocks) fun _ => .refl s

theorem afterStep_moves (p : Params) (s : State) : Moves p s (afterStep p s) :=
  (Moves.of_blocks (t := settleLubeTimer p s)).trans (settleRow_moves p _)

theorem stepUp_moves (r : Row) (s : State) : Moves p s (stepUp r s) :=
  (Moves.of_blocks (t := moveRow (rowUp r) s.step.loadRow s)).trans (.made rfl)

theorem settleSteps_moves (p : Params) : ∀ (n : Nat) (s : State), Moves p s (settleSteps p n s)
  | 0, s => .refl s
  | n + 1, s => by
    unfold settleSteps
    split
    · exact .refl s
    · rename_i r _
      refine Moves.ite (fun _ => ?_) fun _ => Moves.ite (fun _ => ?_) fun _ => .refl s
      · exact ((stepUp_moves r s).trans (afterStep_moves p _)).trans (settleSteps_moves p n _)
      · have h : Moves p s (stepDown r s) := .of_blocks
        exact (h.trans (afterStep_moves p _)).trans (settleSteps_moves p n _)

theorem settleStepper_moves (p : Params) (s : State) : Moves p s (settleStepper p s) := by
  have h : Moves p s (settleTarget (settleLowIdle p s)) := .of_blocks
  have k := (h.trans (settleReport_moves _)).trans (settleSteps_moves p 9 _)
  exact k.trans (.of_blocks)

theorem settlePrelube_moves (p : Params) (s : State) : Moves p s (settlePrelube p s) := by
  unfold settlePrelube
  exact Moves.ite (fun _ => .of_blocks) fun _ => .refl s

theorem startRequest_moves (p : Params) (l : Level) (s : State) : Moves p s (startRequest p l s) := by
  unfold startRequest
  refine Moves.ite (fun _ => ?_) fun _ => .refl s
  exact (Moves.of_blocks).trans Move.prep.one

theorem watch_moves (w : RestartWatch) (s : State) :
    Moves p s { s with layover := { s.layover with watch := w } } := by
  refine (Move.frame ?_).one
  constructor <;> simp [sameStage_refl]

theorem settleWatch_moves (p : Params) (s : State) : Moves p s (settleWatch p s) := by
  unfold settleWatch
  split
  · exact .refl s
  · dsimp only
    split
    · exact watch_moves _ s
    · exact Moves.ite (fun _ => (watch_moves _ s).trans (startRequest_moves p _ _)) fun _ => watch_moves _ s

theorem grantHolds_prep (h : grantHolds p s = true) : s.seq.engine = .starting .prep := by
  unfold grantHolds at h
  simp only [Bool.and_eq_true, beq_iff_eq] at h
  obtain ⟨⟨⟨⟨⟨⟨⟨prep, -⟩, -⟩, -⟩, -⟩, -⟩, -⟩, -⟩ := h
  exact prep

theorem settleGrant_moves (p : Params) (s : State) : Moves p s (settleGrant p s) := by
  unfold settleGrant
  exact Moves.ite (fun h => (Move.crank (grantHolds_prep h)).one) fun _ => .refl s

theorem judgeLine_apart (c v : Bool) {l : OutputLine} (h : lineApart l) : lineApart (judgeLine c v l) := by
  unfold judgeLine
  split
  · exact .inl rfl
  · split
    · exact .inr rfl
    · exact h

/-- A change of the outputs alone that keeps every line's mismatch timer and present fault apart. -/
theorem Moves.lines (d : LineDriver)
    (h : ∀ out, lineApart (outputOf s.lines out) → lineApart (outputOf d out)) : Moves p s { s with lines := d } := by
  refine (Move.frame ?_).one
  constructor <;> simp [sameStage_refl]
  exact h

theorem settleOutputs_moves (p : Params) (s : State) : Moves p s (settleOutputs p s) :=
  Moves.lines _ fun out h => by cases out <;> exact judgeLine_apart _ _ h

theorem settleLamps_moves (s : State) : Moves p s (settleLamps s) :=
  Moves.lines _ fun out h => by cases out <;> exact h

/-- Outside STARTING a change of engine state closes nothing. -/
theorem Ended.of_blocks (hs : ∀ phase, s.seq.engine ≠ .starting phase)
    (hr : t.reader = s.reader := by rfl) (ho : t.roster = s.roster := by rfl) (ha : t.arb = s.arb := by rfl)
    (he : t.seq.engine = s.seq.engine := by rfl) (hc : t.seq.record = s.seq.record := by rfl)
    (hl : t.layover = s.layover := by rfl) (hd : t.lines = s.lines := by rfl)
    (hk : t.link = s.link ∨ ∃ f, frameSound f ∧ t.link = (requestFrame f s).link := by exact .inl rfl) :
    Ended s t :=
  ⟨hr, ho, hl, hd, he, .inr ⟨by rw [ha], hs _, hs _⟩, fun _ => by rw [ha], by rw [ha]; exact List.Subset.refl _, by rw [ha],
    .inr ⟨hc, hs⟩, hk⟩

theorem Ended.refl (hs : ∀ phase, s.seq.engine ≠ .starting phase) : Ended s s :=
  .of_blocks hs

theorem Moves.enter {e : EngineState} (he : isStarting e = false) (hs : ∀ phase, s.seq.engine ≠ .starting phase) :
    Moves p s (enterState e s) :=
  (Move.ended e he (.refl hs)).one

theorem arriveAt_moves (d : StopDest) (hs : ∀ phase, s.seq.engine ≠ .starting phase) :
    Moves p s (arriveAt d s) := by
  cases d with
  | stopped => exact (Move.ended .stopped rfl (Ended.of_blocks (s := s) hs)).one
  | retryWait => exact .enter rfl hs
  | lockedOut r => exact .enter rfl hs
  | layover => exact .enter rfl hs
  | prep => exact Move.prep.one

theorem settleArrival_moves (p : Params) (s : State) : Moves p s (settleArrival p s) := by
  unfold settleArrival
  split
  · rename_i d hd
    refine Moves.ite (fun _ => (settleOutputs_moves p s).trans (arriveAt_moves _ ?_)) fun _ => .refl s
    intro phase
    rw [settleOutputs_seq, hd]
    simp
  · exact .refl s

theorem settleRound_moves (p : Params) (s : State) : Moves p s (settleRound p s) := by
  unfold settleRound
  dsimp only
  have h1 := (settleArrival_moves p s).trans (settleOwnRecord_moves p _)
  generalize settleOwnRecord p (settleArrival p s) = a at *
  have h2 : Moves p s (settleMakeUp p (settleCaps p a)) := h1.trans (.of_blocks)
  have h3 := (h2.trans (settleStepper_moves p _)).trans (settlePrelube_moves p _)
  generalize settlePrelube p (settleStepper p (settleMakeUp p (settleCaps p a))) = b at *
  have h4 : Moves p s (settleHotTimer (settleLubeTimer p (settleConfirm p b))) :=
    h3.trans (.of_blocks)
  have h5 := ((h4.trans Move.eligible.one).trans (settleWatch_moves p _)).trans (settleGrant_moves p _)
  exact (h5.trans (settleOutputs_moves p _)).trans (settleLamps_moves _)

theorem settle_moves (p : Params) (s : State) : Moves p s (settle p s) :=
  ((settleRound_moves p s).trans (settleRound_moves p _)).trans (settleRound_moves p _)

/-! ### The ends of claims and attempts -/

/-- How a claim or a crank of an attempt in the given phase ends: WITHDRAW in PREP, CRANK-OFF with the given result in
CRANK, nothing later (R31, R36, R37). -/
def closeClaim (phase : Phase) (result : Byte) (s : State) : State :=
  match phase with
  | .prep => withdrawClaim s
  | .crank => endCrankCounted result s
  | .fire | .confirm => s

theorem Ended.then (h : Ended s t) (hr : u.reader = t.reader := by rfl) (ho : u.roster = t.roster := by rfl)
    (hl : u.layover = t.layover := by rfl) (hd : u.lines = t.lines := by rfl) (ha : u.arb = t.arb := by rfl)
    (he : u.seq.engine = t.seq.engine := by rfl) (hc : u.seq.record = t.seq.record := by rfl)
    (hk : u.link = t.link := by rfl) : Ended s u where
  reader := hr.trans h.reader
  roster := ho.trans h.roster
  layover := hl.trans h.layover
  lines := hd.trans h.lines
  engine := he.trans h.engine
  claims := ha ▸ h.claims
  rotation := ha ▸ h.rotation
  crossing := ha ▸ h.crossing
  expired := ha ▸ h.expired
  record := hc ▸ h.record
  link := hk ▸ h.link

theorem toTail_perm (w : Who) {l : List Who} (h : l.Nodup) : (toTail w l).Perm l := by
  unfold toTail
  split
  · rename_i hm
    have hw : (l.filter fun v => v != w) = l.erase w := (h.erase_eq_filter w).symm
    rw [hw]
    exact (List.perm_append_singleton w _).trans (List.perm_cons_erase hm).symm
  · exact .refl l

theorem withdraw_sound (k : Byte) : frameSound (.made (.withdraw k)) := fun c h => by cases h; rfl

theorem crankOff_sound {b : Byte} (hb : b.toNat ≤ 4) (l : Level) (k n : Byte) :
    frameSound (.made (.crankOff b (levelByte l) k n)) := fun c h => by
  cases h
  simp [contentValid, levelByte_valid, hb]

/-- R157: what a request leaves of the transmit queue. -/
def queueAfter (f : TxFrame) (s : State) : List TxFrame :=
  if s.link.state = .up then enqueue f s.link.queue else s.link.queue

theorem requestFrame_eq (f : TxFrame) (s : State) :
    requestFrame f s = { s with link := { s.link with queue := queueAfter f s } } := by
  unfold requestFrame queueAfter
  split <;> rfl

/-- R31, R36, R37: a claim withdrawn leaves the own entry gone, its timers stopped and a request made. -/
theorem withdrawClaim_eq (s : State) :
    withdrawClaim s = { s with
      arb := { s.arb with claims := dropClaim .own s.arb.claims, claimTimer := none, overlapTimer := none }
      link := { s.link with queue := queueAfter (.made (.withdraw (ownClaim s).serial)) s } } := by
  unfold withdrawClaim requestMade
  rw [requestFrame_eq]
  rfl

/-- R25, R31, R36, R37: a counted end of a crank. -/
theorem endCrankCounted_eq (b : Byte) (s : State) :
    endCrankCounted b s = { s with
      seq := { s.seq with crankCount := s.seq.crankCount + 1 }
      arb := { s.arb with
        claims := dropClaim .own s.arb.claims, claimTimer := none, overlapTimer := none
        rotation := toTail .own s.arb.rotation, crossing := [] }
      link := { s.link with queue := queueAfter (.made (.crankOff b (levelByte (ownClaim s).level)
        (ownClaim s).serial (s.seq.crankCount + 1))) s } } := by
  unfold endCrankCounted requestMade
  rw [requestFrame_eq]
  rfl

/-- R27, R28: an uncounted end of a crank. -/
theorem endCrankUncounted_eq (b : Byte) (s : State) :
    endCrankUncounted b s = { s with
      arb := { s.arb with claims := dropClaim .own s.arb.claims, claimTimer := none, overlapTimer := none }
      link := { s.link with queue := queueAfter (.made (.crankOff b (levelByte (ownClaim s).level)
        (ownClaim s).serial s.seq.crankCount)) s } } := by
  unfold endCrankUncounted requestMade
  rw [requestFrame_eq]
  rfl

/-- The attempt of a STARTING station ends with a result, its claim or crank with it. -/
theorem closeClaim_ended {phase : Phase} {b : Byte} (hb : b.toNat ≤ 4) (result : AttemptResult)
    (h : s.seq.engine = .starting phase) : Ended s (endAttempt result (closeClaim phase b s)) := by
  cases phase with
  | prep =>
    unfold closeClaim
    rw [withdrawClaim_eq]
    exact ⟨rfl, rfl, rfl, rfl, rfl, .inl rfl, fun _ => .refl _, List.Subset.refl _, rfl, .inl ⟨result, rfl⟩,
      .inr ⟨_, withdraw_sound _, by rw [requestFrame_eq]; rfl⟩⟩
  | crank =>
    unfold closeClaim
    rw [endCrankCounted_eq]
    exact ⟨rfl, rfl, rfl, rfl, rfl, .inl rfl, toTail_perm _, List.nil_subset _, rfl, .inl ⟨result, rfl⟩,
      .inr ⟨_, crankOff_sound hb _ _ _, by rw [requestFrame_eq]; rfl⟩⟩
  | fire =>
    exact ⟨rfl, rfl, rfl, rfl, rfl, .inr ⟨rfl, by simp [h]⟩, fun _ => .refl _, List.Subset.refl _, rfl,
      .inl ⟨result, rfl⟩, .inl rfl⟩
  | confirm =>
    exact ⟨rfl, rfl, rfl, rfl, rfl, .inr ⟨rfl, by simp [h]⟩, fun _ => .refl _, List.Subset.refl _, rfl,
      .inl ⟨result, rfl⟩, .inl rfl⟩

/-- A crank that ends uncounted (R27, R28). -/
theorem endCrankUncounted_ended {b : Byte} (hb : b.toNat ≤ 4) (result : AttemptResult) (s : State) :
    Ended s (endAttempt result (endCrankUncounted b s)) := by
  rw [endCrankUncounted_eq]
  exact ⟨rfl, rfl, rfl, rfl, rfl, .inl rfl, fun _ => .refl _, List.Subset.refl _, rfl, .inl ⟨result, rfl⟩,
    .inr ⟨_, crankOff_sound hb _ _ _, by rw [requestFrame_eq]; rfl⟩⟩

/-- R31: a counted failure, in terms of the claim it closes. -/
theorem failAttempt_starting {phase : Phase} (result : AttemptResult) (h : s.seq.engine = .starting phase) :
    failAttempt p result s =
      enterState (.stopping (if p.crank.maxAttempts ≤ s.seq.attempts + 1 then .lockedOut .attempts else .retryWait))
        { endAttempt result (closeClaim phase failedByte s) with
          seq := { (endAttempt result (closeClaim phase failedByte s)).seq with
            attempts := s.seq.attempts + 1 } } := by
  unfold failAttempt
  rw [h]
  cases phase with
  | prep => simp only [closeClaim, withdrawClaim_eq]; rfl
  | crank => simp only [closeClaim, endCrankCounted_eq]; rfl
  | fire => rfl
  | confirm => rfl

theorem failAttempt_idle (result : AttemptResult) (h : ∀ phase, s.seq.engine ≠ .starting phase) :
    failAttempt p result s = s := by
  unfold failAttempt
  split
  · rename_i phase hp
    exact absurd hp (h phase)
  · rfl

theorem failAttempt_moves (p : Params) (result : AttemptResult) (s : State) :
    Moves p s (failAttempt p result s) := by
  by_cases h : ∃ phase, s.seq.engine = .starting phase
  · obtain ⟨phase, h⟩ := h
    rw [failAttempt_starting result h]
    exact (Move.ended _ rfl (closeClaim_ended (b := failedByte) (by decide) result h).then).one
  · rw [failAttempt_idle result (by simpa using h)]
    exact .refl s

/-! ### Trips and stops -/

theorem discardKept_ended (h : ∀ phase, s.seq.engine ≠ .starting phase) : Ended s (discardKept s) := by
  unfold discardKept
  split
  · exact .refl h
  · rename_i k _
    unfold requestMade
    rw [requestFrame_eq]
    exact .of_blocks h (hk := .inr ⟨.made (.withdraw k), withdraw_sound k, by rw [requestFrame_eq]; rfl⟩)

/-- R37: the sequencer's part of a trip in STARTING. -/
theorem tripRequest_starting {phase : Phase} (r : LockReason) (h : s.seq.engine = .starting phase) :
    tripRequest r s
      = enterState (.stopping (.lockedOut r)) (endAttempt .tripped (closeClaim phase failedByte s)) := by
  unfold tripRequest
  rw [h]
  cases phase <;> rfl

theorem tripRequest_moves (r : LockReason) (s : State) : Moves p s (tripRequest r s) := by
  by_cases hp : ∃ phase, s.seq.engine = .starting phase
  · obtain ⟨phase, h⟩ := hp
    rw [tripRequest_starting r h]
    exact (Move.ended _ rfl (closeClaim_ended (b := failedByte) (by decide) .tripped h)).one
  unfold tripRequest
  split
  · rename_i phase h
    exact absurd ⟨phase, h⟩ hp
  · rename_i h; exact .enter rfl (by simp [h])
  · rename_i h; exact .enter rfl (by simp [h])
  · rename_i h; exact .enter rfl (by simp [h])
  · rename_i h; exact .enter rfl (by simp [h])
  · rename_i d h
    have hs : ∀ phase, s.seq.engine ≠ .starting phase := by simp [h]
    cases d with
    | lockedOut k => exact .refl s
    | prep => exact (Move.ended _ rfl (discardKept_ended hs)).one
    | stopped => exact .enter rfl hs
    | retryWait => exact .enter rfl hs
    | layover => exact .enter rfl hs
  · exact .refl s
  · exact .refl s

theorem trip_moves (r : LockReason) (src : Option CutSource) (s : State) : Moves p s (trip r src s) := by
  unfold trip
  exact Moves.ite (fun _ => .refl s) fun _ => (Moves.of_blocks).trans (tripRequest_moves r _)

theorem stopPress_moves (p : Params) (s : State) : Moves p s (stopPress p s) := by
  unfold stopPress
  split
  · rename_i phase h
    cases phase with
    | prep => exact (Move.ended _ rfl (closeClaim_ended (b := 0) (by decide) .stopped h).then).one
    | crank => exact (Move.ended _ rfl (closeClaim_ended (b := stoppedByte) (by decide) .stopped h).then).one
    | fire => exact (Move.ended _ rfl (closeClaim_ended (b := 0) (by decide) .stopped h).then).one
    | confirm => exact (Move.ended _ rfl (closeClaim_ended (b := 0) (by decide) .stopped h).then).one
  · rename_i h; exact .enter rfl (by simp [h])
  · rename_i d h
    have hs : ∀ phase, s.seq.engine ≠ .starting phase := by simp [h]
    cases d with
    | lockedOut k => exact .refl s
    | prep => exact (Move.ended _ rfl (discardKept_ended hs)).one
    | stopped => exact .enter rfl hs
    | retryWait => exact .enter rfl hs
    | layover => exact .enter rfl hs
  · rename_i h; exact .enter rfl (by simp [h])
  · rename_i h; exact .enter rfl (by simp [h])
  · rename_i h
    exact Moves.ite (fun _ => (Move.ended .stopped rfl (Ended.of_blocks (s := s) (by simp [h]))).one)
      fun _ => .refl s
  · exact .refl s
  · exact .refl s

theorem silenceSequencer_moves (s : State) : Moves p s (silenceSequencer s) := by
  unfold silenceSequencer
  split
  · rename_i phase h
    have hE : Ended s (endAttempt .stopped (removeOwnClaim s)) :=
      ⟨rfl, rfl, rfl, rfl, rfl, .inl rfl, fun _ => .refl _, List.Subset.refl _, rfl, .inl ⟨.stopped, rfl⟩, .inl rfl⟩
    refine (Move.ended _ ?_ hE.then).one
    split <;> rfl
  · rename_i d h
    have hs : ∀ phase, s.seq.engine ≠ .starting phase := by simp [h]
    have hE : Ended s { s with seq := { s.seq with keptSerial := none } } := .of_blocks hs
    have hM : Moves p s { s with seq := { s.seq with keptSerial := none } } := .of_blocks
    cases d with
    | stopped => exact hM
    | lockedOut r => exact hM
    | prep => exact (Move.ended _ rfl hE).one
    | retryWait => exact (Move.ended _ rfl hE).one
    | layover => exact (Move.ended _ rfl hE).one
  · rename_i h; exact .enter rfl (by simp [h])
  · rename_i h; exact .enter rfl (by simp [h])
  · rename_i h; exact .enter rfl (by simp [h])
  · exact .refl s
  · exact .refl s
  · exact .refl s

theorem floorCrank_moves (s : State) : Moves p s (floorCrank s) :=
  (Move.ended _ rfl (endCrankUncounted_ended (b := floorByte) (by decide) .floor s)).one

theorem yieldCrank_moves (s : State) : Moves p s (yieldCrank s) :=
  (Move.ended _ rfl (endCrankUncounted_ended (b := yieldedByte) (by decide) .yielded s).then).one

/-! ### A new speed value -/

theorem askAgain_moves (p : Params) (s : State) : Moves p s (askAgain p s) := by
  unfold askAgain
  split
  · exact startRequest_moves p _ s
  · exact .refl s
  · exact .refl s

theorem speedInCrank_moves (p : Params) (h : s.seq.engine = .starting .crank) : Moves p s (speedInCrank p s) := by
  unfold speedInCrank
  refine Moves.ite (fun _ => ?_) fun _ => .of_blocks
  exact (Moves.of_blocks).trans (Move.release (by exact h)).one

theorem enterConfirm_moves (p : Params) (h : s.seq.engine = .starting .fire) : Moves p s (enterConfirm p s) :=
  (Move.confirm h).one.trans .of_blocks

theorem useChoice_moves (s : State) : Moves p s (useChoice s) := .of_blocks

theorem speedInFire_moves (p : Params) (h : s.seq.engine = .starting .fire) : Moves p s (speedInFire p s) := by
  unfold speedInFire
  refine Moves.ite (fun _ => Moves.ite (fun _ => ?_) fun _ => ?_) fun _ => Moves.ite (fun _ => ?_) fun _ =>
    Moves.ite (fun _ => ?_) fun _ => .refl s
  · exact (useChoice_moves s).trans (enterConfirm_moves p h)
  · exact (useChoice_moves s).trans (failAttempt_moves p _ _)
  · exact enterConfirm_moves p h
  · exact failAttempt_moves p _ s

theorem speedSequencer_moves (p : Params) (s : State) : Moves p s (speedSequencer p s) := by
  unfold speedSequencer
  split
  · rename_i phase h
    cases phase with
    | prep => exact .refl s
    | crank => exact speedInCrank_moves p h
    | fire => exact speedInFire_moves p h
    | confirm =>
      unfold speedInConfirm
      exact Moves.ite (fun _ => failAttempt_moves p _ s) fun _ => .of_blocks
  · rename_i h
    unfold speedInStopped
    exact Moves.ite (fun _ => .enter rfl (by simp [h])) fun _ => .refl s
  · exact Moves.ite (fun _ => askAgain_moves p s) fun _ => .refl s
  · exact settleRow_moves p s
  all_goals exact .refl s

theorem offerSpeed_moves (p : Params) (s : State) : Moves p s (offerSpeed p s) := by
  unfold offerSpeed
  have hc : Moves p s (compareSpeed (useChoice s)) := .of_blocks
  have hb : Moves p s (compareSpeed s) := .of_blocks
  refine Moves.ite (fun _ => Moves.ite (fun _ => ?_) fun _ => ?_) fun _ => ?_
  · exact (((hc.trans (speedSequencer_moves p _)).trans (settle_moves p _)).trans (trip_moves _ _ _)).trans
      (settle_moves p _)
  · exact (((hc.trans (trip_moves _ _ _)).trans (settle_moves p _)).trans (speedSequencer_moves p _)).trans
      (settle_moves p _)
  · exact (hb.trans (speedSequencer_moves p _)).trans (settle_moves p _)

end Sys2Proof.Machine

/-! Every command's own effect as a chain of moves, and with it what one step can do: `Ran`. -/

namespace Sys2Proof.Machine

variable {s t u : State} {p : Params}

/-! ### The peers' claims -/

theorem mem_putClaim {c d : Claim} {l : List Claim} (h : d ∈ putClaim c l) : d = c ∨ d ∈ l := by
  unfold putClaim at h
  split at h
  · obtain ⟨e, he, rfl⟩ := List.mem_map.mp h
    split
    · exact .inl rfl
    · exact .inr he
  · simpa [or_comm] using h

theorem mem_dropClaim {w : Who} {d : Claim} {l : List Claim} (h : d ∈ dropClaim w l) : d ∈ l :=
  (List.mem_filter.mp h).1

theorem nodup_dropClaim (w : Who) {l : List Claim} (h : (l.map (·.who)).Nodup) :
    ((dropClaim w l).map (·.who)).Nodup :=
  h.sublist (List.Sublist.map _ List.filter_sublist)

theorem nodup_putClaim (c : Claim) {l : List Claim} (h : (l.map (·.who)).Nodup) :
    ((putClaim c l).map (·.who)).Nodup := by
  unfold putClaim
  split
  · have : (l.map fun d => if d.who = c.who then c else d).map (·.who) = l.map (·.who) := by
      rw [List.map_map]
      refine List.map_congr_left fun d _ => ?_
      by_cases hd : d.who = c.who <;> simp [hd]
    rw [this]
    exact h
  · rename_i ha
    rw [List.map_append]
    refine List.Nodup.append h (by simp) ?_
    simpa [List.Disjoint] using ha

/-- What leaves the claims, the lists and the rotation as they are moves nothing of the peers. -/
theorem PeersMoved.of_lists {b : Arbiter} (hc : b.claims = s.arb.claims := by rfl)
    (hx : b.crossing ⊆ s.arb.crossing := by exact List.Subset.refl _)
    (he : b.expired ⊆ s.arb.expired := by exact List.Subset.refl _)
    (hr : s.arb.rotation.Nodup → b.rotation.Perm s.arb.rotation := by exact fun _ => .refl _) : PeersMoved s b where
  own := by rw [hc]
  nodup := by rw [hc]; exact id
  claims := by rw [hc]; exact fun c h u hu => .inl ⟨c, h, hu⟩
  crossing := fun u h => .inl (hx h)
  expired := fun x h => .inl ⟨x, he h, rfl⟩
  rotation := hr

theorem Moves.peers {b : Arbiter} (h : PeersMoved s b) : Moves p s { s with arb := b } := (Move.peers h).one

theorem putPeer_moves {c : Claim} {v : UnitNo} (hv : c.who = .unit v) (h : hasEntry v s) :
    Moves p s { s with arb := { s.arb with claims := putClaim c s.arb.claims } } := by
  refine Moves.peers ⟨?_, nodup_putClaim c, fun d hd u hu => ?_, fun u h => .inl h, fun x h => .inl ⟨x, h, rfl⟩,
    fun _ => .refl _⟩
  · rw [claimOf_putClaim, if_neg (by simp [hv])]
  · rcases mem_putClaim hd with rfl | hd
    · rw [hv] at hu
      cases hu
      exact .inr h
    · exact .inl ⟨d, hd, hu⟩

theorem dropPeer_moves (v : UnitNo) (s : State) : Moves p s (removeClaim v s) := by
  refine Moves.peers ⟨?_, nodup_dropClaim _, fun d hd u hu => .inl ⟨d, mem_dropClaim hd, hu⟩, fun u h => .inl h,
    fun x h => .inl ⟨x, h, rfl⟩, fun _ => .refl _⟩
  rw [claimOf_dropClaim_other (by simp)]

theorem dropExpired_moves (v : UnitNo) (k : Byte) (s : State) : Moves p s (dropExpired v k s) :=
  .peers (.of_lists (he := List.filter_subset_self _))

theorem dropExpiredAll_moves (v : UnitNo) (s : State) : Moves p s (dropExpiredAll v s) :=
  .peers (.of_lists (he := List.filter_subset_self _))

theorem moveToTail_moves (w : Who) (s : State) : Moves p s (moveToTail w s) := by
  refine .peers (.of_lists (hx := ?_) (hr := toTail_perm w))
  cases w with
  | own => exact List.nil_subset _
  | unit v => exact List.filter_subset_self _

theorem makeClaim_moves {v : UnitNo} (l : Level) (k : Byte) (st : ClaimState) (h : hasEntry v s) :
    Moves p s (makeClaim v l k st s) := by
  unfold makeClaim
  exact Moves.ite (fun _ => .refl s) fun _ => putPeer_moves rfl h

theorem takeClaim_moves {v : UnitNo} (level k : Byte) (h : hasEntry v s) : Moves p s (takeClaim v level k s) := by
  unfold takeClaim
  split
  · exact .refl s
  · refine (dropExpired_moves v k s).trans ?_
    have h' : hasEntry v (dropExpired v k s) := h
    dsimp only
    split
    · exact Moves.ite (fun _ => makeClaim_moves _ _ _ h') fun _ => makeClaim_moves _ _ _ h'
    · exact makeClaim_moves _ _ _ h'

theorem takeWithdraw_moves (v : UnitNo) (k : Byte) (s : State) : Moves p s (takeWithdraw v k s) := by
  unfold takeWithdraw
  split
  · exact Moves.ite (fun _ => dropPeer_moves v s) fun _ => .refl s
  · exact .refl s

theorem judgeCrossing_moves {v : UnitNo} (p : Params) (h : hasEntry v s) : Moves p s (judgeCrossing p v s) := by
  unfold judgeCrossing
  refine Moves.ite (fun _ => ?_) fun _ => .refl s
  split
  · exact .refl s
  · have hx : Moves p s { s with arb := { s.arb with
        crossing := if v ∈ s.arb.crossing then s.arb.crossing else s.arb.crossing ++ [v] } } := by
      refine Moves.peers ⟨rfl, id, fun c hc u hu => .inl ⟨c, hc, hu⟩, fun u hu => ?_,
        fun x hx => .inl ⟨x, hx, rfl⟩, fun _ => .refl _⟩
      dsimp only at hu
      split at hu
      · exact .inl hu
      · rcases List.mem_append.mp hu with hu | hu
        · exact .inl hu
        · rw [List.mem_singleton.mp hu]
          exact .inr h
    exact Moves.ite (fun _ => hx.trans (yieldCrank_moves _)) fun _ => hx

theorem takeCrankOn_moves {v : UnitNo} (p : Params) (level k : Byte) (h : hasEntry v s) :
    Moves p s (takeCrankOn p v level k s) := by
  unfold takeCrankOn
  split
  · exact .refl s
  · rename_i l _
    have h1 := dropExpired_moves (p := p) v k s
    have hm (st : ClaimState) : Moves p s (makeClaim v l k st (dropExpired v k s)) :=
      h1.trans (makeClaim_moves _ _ _ (by exact h))
    have hj (st : ClaimState) : Moves p s (judgeCrossing p v (makeClaim v l k st (dropExpired v k s))) := by
      refine (hm st).trans (judgeCrossing_moves p ?_)
      unfold makeClaim
      split <;> exact h
    refine Moves.ite (fun _ => h1) fun _ => ?_
    split
    · exact Moves.ite (fun _ => hm _) fun _ => hj _
    · exact hj _

/-! ### Roster entries -/

/-- A change of an entry's other items leaves the roster's units. -/
theorem mapEntry_units (v : UnitNo) {f : RosterEntry → RosterEntry} (hf : ∀ e, (f e).unit = e.unit)
    (l : List RosterEntry) : (mapEntry v f l).map (·.unit) = l.map (·.unit) := by
  unfold mapEntry
  rw [List.map_map]
  refine List.map_congr_left fun e _ => ?_
  by_cases h : e.unit = v <;> simp [h, hf]

theorem hasEntry_iff_mem (v : UnitNo) (s : State) : hasEntry v s ↔ v ∈ s.roster.entries.map (·.unit) := by
  simp [hasEntry]

theorem hasEntry_updateEntry (v w : UnitNo) {f : RosterEntry → RosterEntry} (hf : ∀ e, (f e).unit = e.unit)
    (s : State) : hasEntry w (updateEntry v f s) ↔ hasEntry w s := by
  rw [hasEntry_iff_mem, hasEntry_iff_mem]
  exact iff_of_eq (congrArg (w ∈ ·) (mapEntry_units v hf _))

theorem hasEntry_of_entryOf {v : UnitNo} {e : RosterEntry} (h : entryOf v s.roster.entries = some e) :
    hasEntry v s :=
  ⟨e, List.mem_of_find?_eq_some h, by simpa using List.find?_some h⟩

theorem updateEntry_moves (v : UnitNo) {f : RosterEntry → RosterEntry} (hf : ∀ e, (f e).unit = e.unit) (s : State) :
    Moves p s (updateEntry v f s) := by
  refine (Move.frame ?_).one
  constructor <;> simp [updateEntry, sameStage_refl, mapEntry_units v hf]

theorem takeCount_moves (v : UnitNo) (n : Byte) (joins : Bool) (s : State) :
    Moves p s (takeCount v n joins s) := by
  unfold takeCount
  split
  · exact .refl s
  · have h := updateEntry_moves (p := p) v (f := fun e => { e with lastCount := some n }) (fun _ => rfl) s
    exact Moves.ite (fun _ => h.trans (moveToTail_moves _ _)) fun _ => h

theorem hasEntry_takeCount {v w : UnitNo} (n : Byte) (joins : Bool) (h : hasEntry w s) :
    hasEntry w (takeCount v n joins s) := by
  unfold takeCount
  split
  · exact h
  · have h' := (hasEntry_updateEntry v w (f := fun e => { e with lastCount := some n }) (fun _ => rfl) s).mpr h
    dsimp only
    split_ifs <;> exact h'

theorem takeCrankOff_moves {v : UnitNo} (result level k n : Byte) (h : hasEntry v s) :
    Moves p s (takeCrankOff v result level k n s) := by
  unfold takeCrankOff
  have h1 := takeCount_moves (p := p) v n true s
  refine Moves.ite (fun _ => ?_) fun _ => h1.trans (dropPeer_moves _ _)
  split
  · exact h1
  · exact h1.trans (putPeer_moves rfl (hasEntry_takeCount n true h))

theorem recordIntent_moves (p : Params) (v : UnitNo) (k : Byte) (s : State) : Moves p s (recordIntent p v k s) := by
  unfold recordIntent
  split
  · exact .refl s
  · refine Moves.ite (fun _ => .refl s) fun _ => ?_
    have h := updateEntry_moves (p := p) v (f := fun e => { e with intent := some { serial := k, age := 0 } })
      (fun _ => rfl) s
    exact Moves.ite (fun _ => h.trans Move.cancel.one) fun _ => h

theorem cancelPeerIntent_moves (v : UnitNo) (k : Byte) (s : State) : Moves p s (cancelPeerIntent v k s) :=
  updateEntry_moves v (fun e => by split <;> rfl) s

theorem takeStep_moves (v : UnitNo) (s : State) : Moves p s (takeStep v s) :=
  (updateEntry_moves v (f := fun e => { e with lastStep := some 0 }) (fun _ => rfl) s).trans .of_blocks

/-! ### A STATUS -/

theorem makeClaim_roster (v : UnitNo) (l : Level) (k : Byte) (st : ClaimState) (s : State) :
    (makeClaim v l k st s).roster = s.roster := by
  unfold makeClaim
  split <;> rfl

theorem repairClaim_moves {v : UnitNo} (c : StatusContent) (h : hasEntry v s) : Moves p s (repairClaim v c s) := by
  unfold repairClaim
  split
  · have h1 := dropExpiredAll_moves (p := p) v s
    dsimp only
    split
    · exact h1
    · exact Moves.ite (fun _ => h1) fun _ => h1.trans (dropPeer_moves _ _)
  · rename_i l k _
    have h1 := dropExpired_moves (p := p) v k s
    have hm : Moves p s (makeClaim v l k .waiting (dropExpired v k s)) := h1.trans (makeClaim_moves _ _ _ (by exact h))
    dsimp only
    split
    · exact hm
    · exact Moves.ite (fun _ => h1) fun _ => hm

theorem repairClaim_roster (v : UnitNo) (c : StatusContent) (s : State) : (repairClaim v c s).roster = s.roster := by
  unfold repairClaim
  split
  · dsimp only
    split
    · rfl
    · split <;> rfl
  · dsimp only
    split
    · exact makeClaim_roster _ _ _ _ _
    · split
      · rfl
      · exact makeClaim_roster _ _ _ _ _

theorem repairCrank_moves {v : UnitNo} (p : Params) (c : StatusContent) (h : hasEntry v s) :
    Moves p s (repairCrank p v c s) := by
  unfold repairCrank
  split
  · exact .refl s
  · rename_i e he
    split
    · refine Moves.ite (fun _ => ?_) fun _ => .refl s
      refine Moves.trans ?_ (judgeCrossing_moves p (by exact h))
      exact putPeer_moves (c := { e with state := .cranking 0 }) (show e.who = _ from claimOf_who he) h
    · refine Moves.ite (fun _ => ?_) fun _ => ?_
      · split
        · exact .refl s
        · exact makeClaim_moves _ _ _ h
      · split
        · exact dropPeer_moves v s
        · exact (dropPeer_moves v s).trans (makeClaim_moves _ _ _ (by exact h))

theorem repairIntent_moves (p : Params) (v : UnitNo) (c : StatusContent) (s : State) :
    Moves p s (repairIntent p v c s) := by
  unfold repairIntent
  split
  · exact recordIntent_moves p v _ s
  · exact Moves.ite (fun _ => .refl s) fun _ =>
      updateEntry_moves v (f := fun e => { e with intent := none }) (fun _ => rfl) s

theorem takeStatus_moves {v : UnitNo} (p : Params) (c : StatusContent) (h : hasEntry v s) :
    Moves p s (takeStatus p v c s) := by
  unfold takeStatus
  have h1 := updateEntry_moves (p := p) v (f := fun e => { e with status := some c }) (fun _ => rfl) s
  have e1 := (hasEntry_updateEntry v v (f := fun e => { e with status := some c }) (fun _ => rfl) s).mpr h
  generalize updateEntry v (fun e => { e with status := some c }) s = a at *
  have h2 := h1.trans (repairClaim_moves c e1)
  have e2 : hasEntry v (repairClaim v c a) := by
    unfold hasEntry
    rw [repairClaim_roster]
    exact e1
  exact ((h2.trans (repairCrank_moves p c e2)).trans (takeCount_moves _ _ _ _)).trans (repairIntent_moves _ _ _ _)

/-! ### Frames heard -/

theorem actOnKind_moves {v : UnitNo} (p : Params) (c : Content) (h : hasEntry v s) :
    Moves p s (actOnKind p v c s) := by
  cases c with
  | crankOn level k => exact takeCrankOn_moves p level k h
  | crankOff result level k n => exact takeCrankOff_moves result level k n h
  | claim level k => exact takeClaim_moves level k h
  | withdraw k => exact takeWithdraw_moves v k s
  | step row => exact takeStep_moves v s
  | layoverIntent k => exact recordIntent_moves p v k s
  | layoverCancel k => exact cancelPeerIntent_moves v k s
  | status st => exact takeStatus_moves p st h
  | fuelCut | demand _ _ _ _ | query _ _ _ | reply _ => exact .refl s

theorem rosterTake_moves {v : UnitNo} (c : Content) (hv : v ≠ p.unit) (s : State) :
    Moves p s (rosterTake p v c s) := by
  unfold rosterTake
  split
  · exact .refl s
  · rename_i h0
    have h1 := (Move.join (s := s) v h0 hv).one
    refine Moves.ite (fun h => h1.trans (actOnKind_moves p c ?_)) fun _ => h1
    obtain ⟨e, he⟩ := Option.isSome_iff_exists.mp h
    exact hasEntry_of_entryOf he

theorem takeDemand_moves (p : Params) (src : UnitNo) (row reverser brake serial : Byte) (s : State) :
    Moves p s (takeDemand p src row reverser brake serial s) := by
  unfold takeDemand
  split
  · rename_i h
    dsimp only
    have hf (a : State) : Moves p a (followDemand a) := .of_blocks
    refine Moves.trans ?_ (hf _)
    exact Moves.ite (fun _ => (Moves.of_blocks).trans (startRequest_moves p _ _)) fun _ => .of_blocks
  · exact .refl s

theorem takeValid_moves {v : UnitNo} (c : Content) (hv : v ≠ p.unit) (s : State) :
    Moves p s (takeValid p v c s) := by
  have h (c : Content) := rosterTake_moves c hv s
  cases c with
  | query dest kind part =>
    exact Moves.ite (fun _ => .request fun c h => by cases h) fun _ => .refl s
  | reply _ => exact .refl s
  | demand row reverser brake serial => exact (h _).trans (takeDemand_moves p v row reverser brake serial _)
  | fuelCut => exact (h _).trans (trip_moves _ _ _)
  | crankOn _ _ | crankOff _ _ _ _ | claim _ _ | withdraw _ | step _ | layoverIntent _ | layoverCancel _
  | status _ => exact h _

theorem takeDuplicate_moves (p : Params) (s : State) : Moves p s (takeDuplicate s) := by
  unfold takeDuplicate
  refine Moves.ite (fun h => ?_) fun _ => .refl s
  exact ((Move.silence h _ ⟨rfl, rfl, rfl⟩).one.trans Move.quiet.one).trans (silenceSequencer_moves _)

/-- A change of the receive state or the status timer alone. -/
theorem Moves.link {l : Link} (hs : l.state = s.link.state := by rfl) (hq : l.queue = s.link.queue := by rfl)
    (hb : l.buffer = s.link.buffer := by rfl) : Moves p s { s with link := l } := by
  refine (Move.frame ?_).one
  constructor <;> simp [sameStage_refl, hs, hq, hb]

/-! ### What a step can do -/

/-- One step of the station: RESET; before handover a change outside every list, the read's failure or handover; from
handover on a chain of moves. -/
inductive Ran (s : State) : State → Prop where
  | reset {t : State} (h : exec .reset s = .next t) : Ran s t
  | early {t : State} (h : s.reader.applied = none) (hf : Framed s t) : Ran s t
  | failed {u : State} (h : s.reader.state = .reading) (hf : Framed s u) (reason : InhibitReason)
      (l : Config.LinesParams) : Ran s (failRead reason l u)
  | handed {u t : State} (h : s.reader.state = .reading) (hf : Framed s u) (p : Params) (clamped : Bool)
      (hm : Moves p (startBlocks p clamped u) t) : Ran s t
  | moved {t : State} (p : Params) (h : s.reader.applied = some p) (hm : Moves p s t) : Ran s t

theorem Framed.refl (s : State) : Framed s s := .of_blocks

theorem Ran.of_params {f : Params → State} (h : ∀ p, s.reader.applied = some p → Moves p s (f p)) :
    Ran s (withParams s f) := by
  unfold withParams
  split
  · rename_i hp
    exact .early hp (.refl s)
  · rename_i p hp
    exact .moved p hp (h p hp)

/-- A change that keeps every item of the invariants, whatever the reader's state. -/
theorem Ran.of_frame (h : Framed s t) : Ran s t := by
  cases hp : s.reader.applied with
  | none => exact .early hp h
  | some p => exact .moved p hp (Move.frame h).one

theorem takeByte_framed (b : Byte) (s : State) : Framed s (takeByte b s) := by
  constructor <;> simp [takeByte, sameStage_refl]

theorem offerInputs_moves (p : Params) (s : State) : Moves p s (offerInputs p s) := by
  have hc : Moves p s (takeCode p s) := by
    unfold takeCode
    split
    · exact .of_blocks
    · exact Moves.ite (fun _ => .of_blocks) fun _ => .refl s
  have hb (a : State) : Moves p a (cabOn p a) :=
    (Moves.of_blocks).trans (.made (demandContent_valid (ownRecordNow p a)))
  have he (a : State) : Moves p a (estopOn a) := (trip_moves _ _ a).trans (.made rfl)
  unfold offerInputs
  dsimp only
  have h2 : Moves p s (if lineOn p (takeCode p s) .cabActive then cabOn p (takeCode p s) else takeCode p s) :=
    Moves.ite (fun _ => hc.trans (hb _)) fun _ => hc
  generalize (if lineOn p (takeCode p s) .cabActive then cabOn p (takeCode p s) else takeCode p s) = a at *
  exact Moves.ite (fun _ => h2.trans (he a)) fun _ => h2

theorem memoryAnswer_ran (b : Byte) (h : s.reader.state = .reading) : Ran s (endRead (takeByte b s)) := by
  unfold endRead
  split
  · exact .failed h (takeByte_framed b s) _ _
  · exact .failed h (takeByte_framed b s) _ _
  · exact .handed h (takeByte_framed b s) _ _ ((offerInputs_moves _ _).trans (settle_moves _ _))

theorem tableChanged_moves (p : Params) (old new : Config.NotchTable) (s : State) :
    Moves p s (tableChanged p old new s) := by
  unfold tableChanged
  split
  · exact .refl s
  · exact Moves.ite (fun _ => .refl s) fun _ => (Moves.of_blocks).trans (settleRow_moves p _)

theorem handOn_moves (p : Params) (before : State) (line : InputLine) (on : Bool) (s : State) :
    Moves p s (handOn p before line on s) := by
  have hc : Moves p s (takeCode p s) := by
    unfold takeCode
    split
    · exact .of_blocks
    · exact Moves.ite (fun _ => .of_blocks) fun _ => .refl s
  cases line with
  | handle1 | handle2 | handle3 | handle4 => exact hc
  | cabActive =>
    exact Moves.ite (fun _ => (Moves.of_blocks).trans (.made (demandContent_valid (ownRecordNow p s))))
      fun _ => .of_blocks
  | runIsolate => exact Moves.ite (fun _ => askAgain_moves p s) fun _ => .refl s
  | startPb =>
    refine Moves.ite (fun _ => Moves.trans ?_ (startRequest_moves p _ _)) fun _ => .refl s
    exact Moves.ite (fun _ => .of_blocks) fun _ => .refl s
  | stopPb => exact Moves.ite (fun _ => stopPress_moves p s) fun _ => .refl s
  | estop => exact Moves.ite (fun _ => (trip_moves _ _ s).trans (.made rfl)) fun _ => .refl s
  | derateSelect => exact tableChanged_moves p _ _ s
  | reverserCentre | brakeSet | groundRelay => exact .refl s

theorem takeLevel_moves (p : Params) (line : InputLine) (s : State) : Moves p s (takeLevel p line s) := by
  have h : Moves p s (updateInput line debounceTaken s) := .of_blocks
  unfold takeLevel
  exact Moves.ite (fun _ => h.trans (settle_moves p _))
    fun _ => (h.trans (handOn_moves p s line _ _)).trans (settle_moves p _)

/-- A change of one output that keeps its mismatch timer and its present fault apart. -/
theorem updateOutput_framed (out : Output) (f : OutputLine → OutputLine)
    (hf : ∀ l, lineApart l → lineApart (f l)) (s : State) : Framed s (updateOutput out f s) := by
  constructor <;> simp only [updateOutput, sameStage_refl, and_self]
  intro o h
  by_cases ho : o = out
  · subst ho
    have := outputOf_updateOutput_self s o f
    unfold updateOutput at this
    rw [this]
    exact hf _ h
  · have := outputOf_updateOutput_other s f ho
    unfold updateOutput at this
    rw [this]
    exact h

theorem handFault_moves (p : Params) (out : Output) (fault : LineFault) (s : State) :
    Moves p s (handFault p out fault s) := by
  unfold handFault
  split
  · exact trip_moves _ _ s
  · exact Moves.ite (fun _ => failAttempt_moves p _ s) fun _ => .refl s
  · exact trip_moves _ _ s
  · exact .refl s

theorem placeStation_moves (s : State) : Moves p s (placeStation s) := by
  unfold placeStation
  refine Moves.ite (fun _ => .refl s) fun _ => (moveToTail_moves .own s).trans ?_
  exact .peers .of_lists

theorem expireClaim_moves (v : UnitNo) (s : State) : Moves p s (expireClaim v s) := by
  unfold expireClaim
  split
  · exact .refl s
  · rename_i c hc
    refine Moves.peers ⟨?_, nodup_dropClaim _, fun d hd u hu => .inl ⟨d, mem_dropClaim hd, hu⟩, fun u h => .inl h,
      fun x hx => ?_, fun _ => .refl _⟩
    · rw [claimOf_dropClaim_other (by simp)]
    · rcases List.mem_append.mp hx with hx | hx
      · exact .inl ⟨x, (List.mem_filter.mp hx).1, rfl⟩
      · rw [List.mem_singleton.mp hx]
        exact .inr (.inl ⟨c, List.mem_of_find?_eq_some hc, claimOf_who hc⟩)

theorem confirmEngine_moves (h : s.seq.engine = .starting .confirm) : Moves p s (confirmEngine s) :=
  (Move.ended .running rfl (closeClaim_ended (b := 0) (by decide) .running h).then).one

theorem receiveContent_ran (src : UnitNo) (c : Content) (s : State) : Ran s (receiveContent src c s) := by
  refine .of_params fun p _ => ?_
  have h : Moves p s (frameEnded s) := .link
  refine Moves.ite (fun _ => .refl s) fun _ => Moves.ite (fun _ => h) fun _ => Moves.ite (fun _ => ?_) fun hs => ?_
  · exact (h.trans (takeDuplicate_moves p _)).trans (settle_moves p _)
  · exact (h.trans (takeValid_moves c hs _)).trans (settle_moves p _)

theorem Moves.send {l : Link} (h : Sent s.link l) : Moves p s { s with link := l } := (Move.send h).one

theorem beginSending_moves (h : s.link.state = .up) (p : Params) : Moves p s (beginSending p s) := by
  unfold beginSending
  split
  · rename_i b hb
    refine Moves.send ⟨rfl, .refl _, fun x hx => ?_⟩
    cases hx
    exact ⟨.inl h, .inr ⟨b, hb, rfl⟩⟩
  · split
    · exact .refl s
    · rename_i f rest hq
      refine Moves.send (l := { s.link with queue := rest, buffer := _ }) ⟨rfl, ?_, fun x hx => ?_⟩
      · rw [hq]
        exact List.sublist_cons_self f rest
      · cases hx
        exact ⟨.inl h, .inl (by rw [hq]; exact List.mem_cons_self)⟩

theorem statusPeriod_moves (p : Params) (s : State) : Moves p s (
    let s1 := requestFrame .status { s with link := { s.link with statusTimer := some 0 } }
    if s.demand.source = .own then requestMade (demandContent s.demand.ownRecord) s1 else s1) := by
  have h : Moves p s (requestFrame .status { s with link := { s.link with statusTimer := some 0 } }) :=
    (Moves.link).trans (.request fun c h => by cases h)
  exact Moves.ite (fun _ => h.trans (.made (demandContent_valid _))) fun _ => h

theorem resvValue_moves (p : Params) (v : Int) (s : State) : Moves p s (resvValue p v s) := by
  unfold resvValue
  exact Moves.ite (fun _ => floorCrank_moves s) fun _ => .refl s

/-- A command does one of these. -/
theorem exec_ran (c : Instr) (h : exec c s = .next t) : Ran s t := by
  have next {a b : State} (e : (Host.Outcome.next a : Host.Outcome State Fault Refusal) = .next b) : a = b := by
    injection e
  cases c with
  | reset => exact .reset h
  | memoryAnswer b =>
    obtain rfl := next h
    split
    · rename_i hr
      split
      · exact memoryAnswer_ran b hr
      · exact .of_frame (takeByte_framed b s)
    · exact .of_frame (.refl s)
  | memoryRequestTimeout =>
    obtain rfl := next h
    split
    · rename_i hr
      exact .failed hr.1 (.refl s) _ _
    · exact .of_frame (.refl s)
  | pickupEdge =>
    obtain rfl := next h
    refine .of_params fun p _ => ?_
    split
    · exact .of_blocks
    · exact Moves.ite (fun _ => (Moves.of_blocks).trans (offerSpeed_moves p _)) fun _ => .of_blocks
  | stallTimeout | gateCounterMaximum =>
    obtain rfl := next h
    exact .of_params fun p _ => Moves.ite (fun _ => (Moves.of_blocks).trans (offerSpeed_moves p _)) fun _ => .refl s
  | converterSlotEnd =>
    obtain rfl := next h
    refine .of_params fun p _ => ?_
    split
    · exact .refl s
    · exact Moves.ite (fun _ => .of_blocks) fun _ => .refl s
  | converterReply named raw valid =>
    obtain rfl := next h
    refine .of_params fun p _ => ?_
    have ht : Moves p s (takeReply s) := .of_blocks
    split
    · exact .refl s
    · rename_i ch _
      refine Moves.ite (fun _ => .refl s) fun _ => Moves.ite (fun _ => ht.trans ?_) fun _ => ht
      unfold validSample
      refine Moves.trans ?_ (settle_moves p _)
      cases ch with
      | lube => exact .of_blocks
      | batt => exact .of_blocks
      | cool => exact .of_blocks
      | resv =>
        refine Moves.trans ?_ (resvValue_moves p _ _)
        exact .of_blocks
  | stalenessTimeout ch =>
    obtain rfl := next h
    refine .of_params fun p _ => Moves.ite (fun _ => Moves.trans ?_ (settle_moves p _)) fun _ => .refl s
    cases ch <;> exact .of_blocks
  | inputRawChange line level =>
    obtain rfl := next h
    exact .of_frame .of_blocks
  | debounceTimeout line =>
    obtain rfl := next h
    split
    · split
      · exact .of_frame .of_blocks
      · rename_i p hp
        exact .moved p hp (takeLevel_moves p line s)
    · exact .of_frame (.refl s)
  | demandTimeout =>
    obtain rfl := next h
    refine .of_params fun p _ => Moves.ite (fun _ => ?_) fun _ => .refl s
    have hd : Moves p s (holdDemand p s) := by
      unfold holdDemand
      exact Moves.ite (fun _ => .of_blocks) fun _ => .of_blocks
    split
    · exact hd.trans (settle_moves p _)
    · exact (Moves.of_blocks).trans (settle_moves p _)
    · exact (Moves.of_blocks).trans (settle_moves p _)
    · exact .refl s
    · exact .refl s
  | invalidCodeTimeout | demandHoldExpiry | recentSourceExpiry _ | prelubeTimeExpiry | settleLimitExpiry
  | lowIdleTimeExpiry | fuelCutHoldExpiry | claimSettleExpiry | joinTimeExpiry | dwellTimeout
  | staggerIntervalExpiry | staggerHoldExpiry =>
    obtain rfl := next h
    exact .of_params fun p _ => Moves.ite (fun _ => (Moves.of_blocks).trans (settle_moves p _)) fun _ => .refl s
  | prelubeLimitExpiry | rollTimeExpiry | crankLimitExpiry | fireLimitExpiry | confirmLimitExpiry =>
    obtain rfl := next h
    exact .of_params fun p _ =>
      Moves.ite (fun _ => (failAttempt_moves p _ s).trans (settle_moves p _)) fun _ => .refl s
  | crankGrant =>
    obtain rfl := next h
    exact .of_params fun p _ =>
      Moves.ite (fun hg => (Move.crank (grantHolds_prep hg)).one.trans (settle_moves p _)) fun _ => .refl s
  | confirmTimeReached =>
    obtain rfl := next h
    exact .of_params fun p _ =>
      Moves.ite (fun hc => (confirmEngine_moves hc.1).trans (settle_moves p _)) fun _ => .refl s
  | recrankIntervalExpiry =>
    obtain rfl := next h
    exact .of_params fun p _ =>
      Moves.ite (fun _ => ((Moves.of_blocks).trans Move.prep.one).trans (settle_moves p _)) fun _ => .refl s
  | turningWatchEnd =>
    obtain rfl := next h
    exact .of_params fun p _ => Moves.ite (fun _ => .of_blocks) fun _ => .refl s
  | lubeTripDelayExpiry | hotStopDelayExpiry =>
    obtain rfl := next h
    exact .of_params fun p _ =>
      Moves.ite (fun _ => (trip_moves _ _ s).trans (settle_moves p _)) fun _ => .refl s
  | silenceTimeout u =>
    obtain rfl := next h
    exact .of_params fun p _ =>
      Moves.ite (fun _ => (Move.leave u).one.trans (settle_moves p _)) fun _ => .refl s
  | peerCrankLimitExpiry u =>
    obtain rfl := next h
    exact .of_params fun p _ =>
      Moves.ite (fun _ => (expireClaim_moves u s).trans (settle_moves p _)) fun _ => .refl s
  | overlapWindowExpiry =>
    obtain rfl := next h
    exact .of_params fun p _ => Moves.ite (fun _ => .peers .of_lists) fun _ => .refl s
  | layoverIdleTimeExpiry =>
    obtain rfl := next h
    refine .of_params fun p _ => Moves.ite (fun hd => Moves.trans ?_ (settle_moves p _)) fun _ => .refl s
    unfold idleDue at hd
    split at hd
    · rename_i us hu
      exact (Move.idle hu).one
    · cases hd
    · cases hd
  | intentHoldExpiry =>
    obtain rfl := next h
    refine .of_params fun p _ => Moves.ite (fun ha => Moves.ite (fun _ => ?_) fun _ => ?_) fun _ => .refl s
    · exact (Move.commit ha.1).one.trans (settle_moves p _)
    · exact Move.cancel.one.trans (settle_moves p _)
  | senseRawChange out level =>
    obtain rfl := next h
    exact .of_frame (updateOutput_framed out (fun l => { l with sense := rawChange level l.sense }) (fun _ h => h) s)
  | senseDebounceTimeout out =>
    obtain rfl := next h
    have hf := updateOutput_framed out (fun l => { l with sense := debounceTaken l.sense }) (fun _ h => h) s
    split
    · dsimp only
      split
      · exact .of_frame hf
      · rename_i p hp
        exact .moved p hp ((Move.frame hf).one.trans (settle_moves p _))
    · exact .of_frame (.refl s)
  | mismatchTimeExpiry out =>
    obtain rfl := next h
    refine .of_params fun p _ => Moves.ite (fun _ => ?_) fun _ => .refl s
    exact ((Move.frame (updateOutput_framed out raiseFault (fun _ _ => .inl rfl) s)).one.trans
      (handFault_moves p _ _ _)).trans (settle_moves p _)
  | statusPeriodExpiry =>
    obtain rfl := next h
    exact .of_params fun p _ => Moves.ite (fun _ => statusPeriod_moves p s) fun _ => .refl s
  | lineIdle =>
    obtain rfl := next h
    refine .of_params fun p _ => ?_
    split
    · exact .refl s
    · exact .link
    · rename_i hu
      exact Moves.ite (fun _ => .refl s) fun _ => (Moves.link).trans (beginSending_moves (by exact hu) p)
  | arbitrationLost =>
    obtain rfl := next h
    refine .of_params fun p _ => ?_
    split
    · exact .refl s
    · rename_i b hb
      refine Moves.ite (fun _ => .send ⟨rfl, .refl _, fun x hx => ?_⟩) fun _ => .refl s
      cases hx
      exact ⟨.inr ⟨b, hb⟩, .inr ⟨b, hb, rfl⟩⟩
  | transmitError =>
    obtain rfl := next h
    refine .of_params fun p _ => ?_
    split
    · exact .refl s
    · rename_i b hb
      refine Moves.ite (fun _ => .send ⟨rfl, .refl _, fun x hx => ?_⟩) fun _ => .refl s
      dsimp only at hx
      split at hx
      · cases hx
        exact ⟨.inr ⟨b, hb⟩, .inr ⟨b, hb, rfl⟩⟩
      · cases hx
  | frameSentInFull =>
    obtain rfl := next h
    refine .of_params fun p _ => Moves.ite (fun _ => Moves.trans ?_ (settle_moves p _)) fun _ => .refl s
    refine Moves.trans ?_ (placeStation_moves _)
    exact .send ⟨rfl, .refl _, fun x hx => by cases hx⟩
  | discardedFrame bits =>
    obtain rfl := next h
    split
    · exact receiveContent_ran _ _ s
    · exact .of_params fun p _ => Moves.ite (fun _ => .refl s) fun _ => .link
  | fuelCut _ | crankOn _ _ _ | crankOff _ _ _ _ _ | claim _ _ _ | withdraw _ _ | demand _ _ _ _ _ | step _ _
  | layoverIntent _ _ | layoverCancel _ _ | status _ _ | query _ _ _ _ | reply _ _ =>
    obtain rfl := next h
    exact receiveContent_ran _ _ s

end Sys2Proof.Machine

/-! What a change of engine state and the shared operations write, block by block: the facts each invariant is checked
with, move by move. -/

namespace Sys2Proof.Machine

variable {s t u : State} {p : Params}

/-! ### A change of engine state -/

/-- A change of engine state writes the sequencer, the stepper, the laboring cap and the layover unit only. -/
theorem enterState_blocks (e : EngineState) (s : State) :
    (enterState e s).arb = s.arb ∧ (enterState e s).link = s.link ∧ (enterState e s).lines = s.lines
      ∧ (enterState e s).seq = changeSequencer (stateReached s e) s.seq := by
  unfold enterState changeLayover endIntent clearStepper startStepper
  dsimp only
  split_ifs <;> exact ⟨rfl, rfl, rfl, rfl⟩

@[simp] theorem enterState_arb (e : EngineState) (s : State) : (enterState e s).arb = s.arb :=
  (enterState_blocks e s).1

@[simp] theorem enterState_link (e : EngineState) (s : State) : (enterState e s).link = s.link :=
  (enterState_blocks e s).2.1

@[simp] theorem enterState_lines (e : EngineState) (s : State) : (enterState e s).lines = s.lines :=
  (enterState_blocks e s).2.2.1

theorem enterState_seq (e : EngineState) (s : State) :
    (enterState e s).seq = changeSequencer (stateReached s e) s.seq := (enterState_blocks e s).2.2.2

@[simp] theorem enterState_record (e : EngineState) (s : State) : (enterState e s).seq.record = s.seq.record := by
  rw [enterState_seq]
  rfl

/-- R140, R141: the layover unit after a change of engine state. -/
def layoverAfter (before e : EngineState) (l : LayoverUnit) : LayoverUnit :=
  let kept := if l.phase = .committed ∧ e ≠ .layover ∧ (before = .layover ∨ (isStopping before ∧ !isStopping e))
    then { l with ownIntent := none, phase := .none } else l
  { kept with watch := if e = .layover then .active none else .inactive }

theorem enterState_layover (e : EngineState) (s : State) :
    (enterState e s).layover = layoverAfter s.seq.engine (stateReached s e) s.layover := by
  unfold enterState changeLayover endIntent layoverAfter clearStepper startStepper
  dsimp only
  split_ifs <;> rfl

theorem stateReached_idle {e : EngineState} (he : isStarting e = false) :
    isStarting (stateReached s e) = false := by
  unfold stateReached
  split
  · rfl
  · exact he

theorem isStarting_false {e : EngineState} (h : isStarting e = false) (phase : Phase) : e ≠ .starting phase := by
  rintro rfl
  cases h

/-! ### Entry to PREP and CRANK -/

/-- R21: what PREP entry writes outside the sequencer, the stepper and the protection unit. -/
theorem enterPrep_blocks (s : State) :
    (enterPrep s).lines = s.lines
      ∧ (enterPrep s).arb.claims = putClaim
          { who := .own, level := s.seq.startLevel.getD .routine
            serial := s.seq.keptSerial.getD (s.arb.ownSerial + 1), state := .waiting } s.arb.claims
      ∧ (enterPrep s).seq.record = some
          { level := s.seq.startLevel.getD .routine, number := s.seq.attempts + 1
            phases := [{ elapsed := 0, speed := none }], result := none }
      ∧ (enterPrep s).layover = layoverAfter s.seq.engine (.starting .prep) s.layover
      ∧ (enterPrep s).link.queue = queueAfter (.made (.claim (levelByte (s.seq.startLevel.getD .routine))
          (s.seq.keptSerial.getD (s.arb.ownSerial + 1)))) s := by
  have hk : (enterState (.starting .prep) s).seq.keptSerial = s.seq.keptSerial := by rw [enterState_seq]; rfl
  unfold enterPrep postOwnClaim requestMade
  simp [requestFrame_eq, queueAfter, enterState_layover, hk]

theorem enterCrank_blocks (s : State) :
    (enterCrank s).lines = s.lines
      ∧ (enterCrank s).arb.claims = putClaim { ownClaim s with state := .cranking 0 } s.arb.claims
      ∧ (enterCrank s).seq.engine = .starting .crank
      ∧ (enterCrank s).seq.record = (enterPhase .crank s).seq.record
      ∧ (enterCrank s).layover = s.layover
      ∧ (enterCrank s).link.queue
          = queueAfter (.made (.crankOn (levelByte (ownClaim s).level) (ownClaim s).serial)) s := by
  unfold enterCrank requestMade
  rw [requestFrame_eq]
  exact ⟨rfl, rfl, rfl, rfl, rfl, rfl⟩

/-! ### The layover unit's operations -/

/-- Each of the layover unit's operations writes the layover unit and makes one sound request at most. -/
def LayoverOnly (s t : State) : Prop :=
  ∃ l, t = { s with layover := l }
    ∨ ∃ f, frameSound f ∧ t = { s with layover := l, link := { s.link with queue := queueAfter f s } }

theorem cancelIntent_only (s : State) : LayoverOnly s (cancelIntent s) := by
  unfold cancelIntent
  dsimp only
  split
  · exact ⟨_, .inl rfl⟩
  · rename_i k _
    exact ⟨_, .inr ⟨.made (.layoverCancel k), fun c h => by cases h; rfl, by
      unfold requestMade
      rw [requestFrame_eq]
      rfl⟩⟩

theorem announceIntent_only (s : State) : LayoverOnly s (announceIntent s) :=
  ⟨_, .inr ⟨.made (.layoverIntent (s.layover.serial + 1)), fun c h => by cases h; rfl, by
    unfold announceIntent requestMade
    rw [requestFrame_eq]
    rfl⟩⟩

theorem settleEligible_only (p : Params) (s : State) : LayoverOnly s (settleEligible p s) := by
  unfold settleEligible
  dsimp only
  split
  · exact cancelIntent_only _
  · split
    · exact announceIntent_only _
    · exact ⟨_, .inl rfl⟩

/-! ### The roster's and the rotation's operations -/

theorem updateEntry_units (v : UnitNo) {f : RosterEntry → RosterEntry} (hf : ∀ e, (f e).unit = e.unit) (s : State) :
    (updateEntry v f s).roster.entries.map (·.unit) = s.roster.entries.map (·.unit) := mapEntry_units v hf _

theorem mem_insertEntry {d e : RosterEntry} {l : List RosterEntry} : d ∈ insertEntry e l ↔ d = e ∨ d ∈ l := by
  induction l with
  | nil => simp [insertEntry]
  | cons a as ih =>
    unfold insertEntry
    split
    · simp
    · simp only [List.mem_cons, ih]
      tauto

theorem length_insertEntry (e : RosterEntry) (l : List RosterEntry) :
    (insertEntry e l).length = l.length + 1 := by
  induction l with
  | nil => rfl
  | cons a as ih => unfold insertEntry; split <;> simp [ih]

/-- R98: an entry of a new unit joins in unit order. -/
theorem insertEntry_sorted {e : RosterEntry} {l : List RosterEntry}
    (h : l.Pairwise fun a b => a.unit.val < b.unit.val) (hn : ∀ a ∈ l, a.unit ≠ e.unit) :
    (insertEntry e l).Pairwise fun a b => a.unit.val < b.unit.val := by
  induction l with
  | nil => simp [insertEntry]
  | cons a as ih =>
    rw [List.pairwise_cons] at h
    obtain ⟨ha, has⟩ := h
    unfold insertEntry
    split
    · rename_i hlt
      rw [List.pairwise_cons, List.pairwise_cons]
      refine ⟨fun b hb => ?_, ha, has⟩
      rcases List.mem_cons.mp hb with rfl | hb
      · exact hlt
      · exact hlt.trans (ha b hb)
    · rename_i hge
      rw [List.pairwise_cons]
      refine ⟨fun b hb => ?_, ih has fun b hb => hn b (List.mem_cons_of_mem _ hb)⟩
      rcases mem_insertEntry.mp hb with rfl | hb
      · have := hn a List.mem_cons_self
        have hv : a.unit.val ≠ b.unit.val := fun h => this (Fin.ext h)
        omega
      · exact ha b hb

theorem entryOf_eq_none {v : UnitNo} {l : List RosterEntry} : entryOf v l = none ↔ ∀ e ∈ l, e.unit ≠ v := by
  simp [entryOf]

/-- What a chain of moves keeps, each move keeps. -/
theorem Moves.keeps {I : State → Prop} (hI : ∀ {a b : State}, Move p a b → I a → I b) (h : Moves p s t) :
    I s → I t := by
  induction h with
  | refl => exact id
  | tail _ hm ih => exact hI hm ∘ ih

/-! ### The reader -/

/-- The applied set and the reader's state stand, and a link is not taken down. -/
structure SameReader (s t : State) : Prop where
  applied : t.reader.applied = s.reader.applied
  state : t.reader.state = s.reader.state
  down : t.link.state = .down ↔ s.link.state = .down

theorem SameReader.of_blocks (hr : t.reader = s.reader := by rfl) (hk : t.link.state = s.link.state := by rfl) :
    SameReader s t := by constructor <;> simp [hr, hk]

theorem SameReader.of_kept (h : Kept s t) : SameReader s t :=
  .of_blocks h.reader (by rw [h.link])

theorem Move.reader (h : Move p s t) : SameReader s t := by
  cases h with
  | frame h => exact ⟨h.applied, h.readerState, by rw [h.linkState]⟩
  | request f h => exact .of_blocks (by simp) (by simp)
  | send h => exact .of_blocks (hk := h.state)
  | silence h l hl => exact ⟨rfl, rfl, by simp [hl.1, h]⟩
  | peers h => exact .of_blocks
  | join u h0 hu => unfold joinOrRefresh; split_ifs <;> exact .of_blocks
  | leave u => exact .of_blocks
  | prep => exact .of_kept (enterPrep_kept s)
  | crank h => exact .of_kept (enterCrank_kept s)
  | release h => unfold releaseCrank; rw [endCrankCounted_eq]; exact .of_blocks
  | confirm h => exact .of_blocks
  | ended e he h =>
    refine .of_blocks ((enterState_kept _ _).reader.trans h.reader) ?_
    rw [enterState_link]
    rcases h.link with hk | ⟨f, -, hk⟩ <;> simp [hk]
  | eligible => exact .of_kept (settleEligible_kept p s)
  | cancel => exact .of_kept (cancelIntent_kept s)
  | idle h => exact .of_blocks
  | commit h =>
    unfold commitLayover
    dsimp only
    split
    · exact .of_blocks (enterState_kept _ _).reader (by simp)
    · exact .of_blocks
  | quiet => exact .of_blocks

theorem Moves.reader (h : Moves p s t) : SameReader s t :=
  h.keeps (I := SameReader s) (fun hm ha =>
    ⟨hm.reader.applied.trans ha.applied, hm.reader.state.trans ha.state, hm.reader.down.trans ha.down⟩) .of_blocks

theorem readerSound_of_same (h : SameReader s t) (ha : s.reader.applied.isSome) (hs : readerSound s) :
    readerSound t := by
  obtain ⟨h1, h2, h3⟩ := hs
  have hstate := h1.mp ha
  refine ⟨by rw [h.applied, h.state]; exact h1, by rw [h.applied, h.down]; exact h2, fun hr => ?_⟩
  rw [h.state, hstate] at hr
  cases hr

theorem Ran.readerSound (h : Ran s t) (hs : readerSound s) : readerSound t := by
  have ⟨h1, h2, h3⟩ := hs
  cases h with
  | reset h =>
    injection h with h
    subst h
    simp [Machine.readerSound, State.reset, readerReset, linkReset, sequencerReset]
  | early h hf =>
    refine ⟨by rw [hf.applied, hf.readerState]; exact h1, by rw [hf.applied, hf.linkState]; exact h2, ?_⟩
    rw [hf.readerState, hf.engine]
    exact h3
  | failed h hf reason l =>
    have hn : s.reader.applied = none := by
      rw [← Option.not_isSome_iff_eq_none, h1, h]
      simp
    simp [Machine.readerSound, failRead, hf.applied, hf.linkState, hn, h2.mp hn]
  | @handed u _ h hf p clamped hm =>
    have hu : Machine.readerSound (startBlocks p clamped u) := by
      simp [Machine.readerSound, startBlocks]
    exact readerSound_of_same hm.reader rfl hu
  | moved p h hm => exact readerSound_of_same hm.reader (by simp [h]) hs

end Sys2Proof.Machine

/-! The roster, the rotation and the transmit queue through a step (R96, R108, R157). -/

namespace Sys2Proof.Machine

variable {s t u : State} {p : Params}

/-! ### The transmit queue's order -/

/-- R157: a queue in the order of its kinds. -/
abbrev inOrder (q : List TxFrame) : Prop := q.Pairwise fun f g => txKind f < txKind g

theorem insertFrame_inOrder {f : TxFrame} {q : List TxFrame} (h : inOrder q) (hf : ∀ g ∈ q, txKind g ≠ txKind f) :
    inOrder (insertFrame f q) := by
  induction q with
  | nil => simp [insertFrame]
  | cons a as ih =>
    obtain ⟨ha, has⟩ := List.pairwise_cons.mp h
    unfold insertFrame
    split
    · rename_i hlt
      refine List.pairwise_cons.mpr ⟨fun b hb => ?_, h⟩
      rcases List.mem_cons.mp hb with rfl | hb
      · exact hlt
      · exact hlt.trans (ha b hb)
    · rename_i hge
      refine List.pairwise_cons.mpr ⟨fun b hb => ?_, ih has fun g hg => hf g (List.mem_cons_of_mem _ hg)⟩
      rcases (mem_insertFrame _ _ _).mp hb with rfl | hb
      · have := hf a List.mem_cons_self
        omega
      · exact ha b hb

theorem replace_inOrder {f : TxFrame} {q : List TxFrame} (h : inOrder q) :
    inOrder (q.map fun g => if txKind g = txKind f then f else g) := by
  refine List.Pairwise.map _ (fun a b hab => ?_) h
  split_ifs <;> omega

theorem enqueue_inOrder (f : TxFrame) {q : List TxFrame} (h : inOrder q) : inOrder (enqueue f q) := by
  unfold enqueue
  split
  · exact replace_inOrder h
  · rename_i ha
    have hn : ∀ g ∈ q, txKind g ≠ txKind f := by simpa using ha
    have hfil (P : TxFrame → Bool) : inOrder (q.filter P) := h.sublist List.filter_sublist
    have hmem {P : TxFrame → Bool} : ∀ g ∈ q.filter P, txKind g ≠ txKind f :=
      fun g hg => hn g (List.mem_filter.mp hg).1
    dsimp only
    split
    · exact insertFrame_inOrder (hfil _) hmem
    · split
      · split
        · exact insertFrame_inOrder ((hfil _).sublist (List.dropLast_sublist _))
            fun g hg => hmem g (List.mem_of_mem_dropLast hg)
        · exact hfil _
      · exact insertFrame_inOrder (hfil _) hmem

theorem length_enqueue (f : TxFrame) {q : List TxFrame} (h : q.length ≤ 8) : (enqueue f q).length ≤ 8 := by
  have hfil (P : TxFrame → Bool) : (q.filter P).length ≤ 8 := (List.length_filter_le _ _).trans h
  unfold enqueue
  split
  · simpa using h
  · dsimp only
    split
    · rename_i hlt
      rw [length_insertFrame]
      exact hlt
    · split
      · rename_i g hg
        split
        · rw [length_insertFrame, List.length_dropLast]
          have := hfil fun g => decide (cancelledKind (txKind f) ≠ some (txKind g))
          omega
        · exact hfil _
      · rename_i hg
        rw [List.getLast?_eq_none_iff] at hg
        rw [hg]
        simp [insertFrame]

/-! ### The link through a step -/

/-- The transmit queue and the frames in it and in the buffer are sound together. -/
theorem queueAfter_sound (f : TxFrame) (h : queueSound s.link) :
    queueSound { s.link with queue := queueAfter f s } := by
  obtain ⟨hlen, hord, hup⟩ := h
  unfold queueAfter
  split
  · rename_i hs
    exact ⟨length_enqueue f hlen, enqueue_inOrder f hord, fun h => absurd hs h⟩
  · exact ⟨hlen, hord, hup⟩

theorem queueAfter_frames {f : TxFrame} (hf : frameSound f) (h : framesSound s.link) :
    framesSound { s.link with queue := queueAfter f s } := by
  refine ⟨fun c hc => ?_, h.2⟩
  dsimp only at hc
  unfold queueAfter at hc
  split at hc
  · rcases mem_of_mem_enqueue hc with rfl | hc
    · exact hf c rfl
    · exact h.1 c hc
  · exact h.1 c hc

/-- What one move does to the link. -/
inductive LinkMoved (a b : State) : Prop where
  | same (h : b.link.state = a.link.state ∧ b.link.queue = a.link.queue ∧ b.link.buffer = a.link.buffer)
  | request (f : TxFrame) (hf : frameSound f) (h : b.link = { a.link with queue := queueAfter f a })
  | send (h : Sent a.link b.link)
  | silence (h : b.link.state = .silent ∧ b.link.queue = [] ∧ b.link.buffer = none)

theorem LinkMoved.of_link (h : t.link = s.link) : LinkMoved s t := .same ⟨by rw [h], by rw [h], by rw [h]⟩

/-- An operation whose frame `Kept` gives, and which makes one sound request. -/
theorem LinkMoved.of_kept {f : TxFrame} (h : Kept s t) (hf : frameSound f)
    (hq : t.link.queue = queueAfter f s) : LinkMoved s t :=
  .request f hf (by rw [h.link, hq])

theorem LinkMoved.of_layover (h : LayoverOnly s t) : LinkMoved s t := by
  obtain ⟨l, rfl | ⟨f, hf, rfl⟩⟩ := h
  · exact .of_link rfl
  · exact .request f hf rfl

theorem claim_sound (l : Level) (k : Byte) : frameSound (.made (.claim (levelByte l) k)) :=
  fun c h => by cases h; rfl

theorem crankOn_sound (l : Level) (k : Byte) : frameSound (.made (.crankOn (levelByte l) k)) := fun c h => by
  cases h
  simp [contentValid, levelByte_valid]

theorem Move.link (h : Move p s t) : LinkMoved s t := by
  cases h with
  | frame h => exact .same ⟨h.linkState, h.queue, h.buffer⟩
  | request f h => exact .request f h (by rw [requestFrame_eq])
  | send h => exact .send h
  | silence h l hl => exact .silence hl
  | peers h => exact .of_link rfl
  | join u h0 hu => unfold joinOrRefresh; split_ifs <;> exact .of_link rfl
  | leave u => exact .of_link rfl
  | prep =>
    obtain ⟨-, -, -, -, hq⟩ := enterPrep_blocks s
    exact .of_kept (enterPrep_kept s) (claim_sound _ _) hq
  | crank h =>
    obtain ⟨-, -, -, -, -, hq⟩ := enterCrank_blocks s
    exact .of_kept (enterCrank_kept s) (crankOn_sound _ _) hq
  | release h =>
    unfold releaseCrank
    rw [endCrankCounted_eq]
    exact .request _ (crankOff_sound (b := releasedByte) (by decide) _ _ _) rfl
  | confirm h => exact .of_link rfl
  | ended e he h =>
    rcases h.link with hk | ⟨f, hf, hk⟩
    · exact .of_link (by rw [enterState_link, hk])
    · exact .request f hf (by rw [enterState_link, hk, requestFrame_eq])
  | eligible => exact .of_layover (settleEligible_only p s)
  | cancel => exact .of_layover (cancelIntent_only s)
  | idle h => exact .of_link rfl
  | commit h =>
    unfold commitLayover
    dsimp only
    split
    · exact .of_link (by rw [enterState_link])
    · exact .of_link rfl
  | quiet => exact .of_link rfl

theorem LinkMoved.queueSound (h : LinkMoved s t) (hs : queueSound s.link) : queueSound t.link := by
  have ⟨hlen, hord, hup⟩ := hs
  cases h with
  | same h =>
    obtain ⟨h1, h2, h3⟩ := h
    unfold Machine.queueSound
    rw [h1, h2, h3]
    exact hs
  | request f hf h => rw [h]; exact queueAfter_sound f hs
  | send h =>
    refine ⟨h.queue.length_le.trans hlen, hord.sublist h.queue, fun hn => ?_⟩
    rw [h.state] at hn
    obtain ⟨hq, hb⟩ := hup hn
    refine ⟨List.sublist_nil.mp (hq ▸ h.queue), ?_⟩
    cases hx : t.link.buffer with
    | none => rfl
    | some x =>
      rcases (h.buffer x hx).1 with hu | ⟨y, hy⟩
      · exact absurd hu hn
      · rw [hb] at hy
        cases hy
  | silence h =>
    obtain ⟨h1, h2, h3⟩ := h
    simp [Machine.queueSound, h1, h2, h3]

theorem LinkMoved.framesSound (h : LinkMoved s t) (hs : framesSound s.link) : framesSound t.link := by
  cases h with
  | same h =>
    obtain ⟨-, h2, h3⟩ := h
    unfold Machine.framesSound
    rw [h2, h3]
    exact hs
  | request f hf h => rw [h]; exact queueAfter_frames hf hs
  | send h =>
    refine ⟨fun c hc => hs.1 c (h.queue.subset hc), fun x hx c hc => ?_⟩
    rcases (h.buffer x hx).2 with hm | ⟨y, hy, he⟩
    · exact hs.1 c (hc ▸ hm)
    · exact hs.2 y hy c (he ▸ hc)
  | silence h =>
    obtain ⟨-, h2, h3⟩ := h
    simp [Machine.framesSound, h2, h3]

theorem Framed.queueSound (h : Framed s t) (hs : queueSound s.link) : queueSound t.link :=
  (LinkMoved.same ⟨h.linkState, h.queue, h.buffer⟩).queueSound hs

theorem Framed.framesSound (h : Framed s t) (hs : framesSound s.link) : framesSound t.link :=
  (LinkMoved.same ⟨h.linkState, h.queue, h.buffer⟩).framesSound hs

theorem Ran.queueSound (h : Ran s t) (hs : queueSound s.link) : queueSound t.link := by
  cases h with
  | reset h =>
    injection h with h
    subst h
    simp [Machine.queueSound, State.reset, linkReset]
  | early h hf => exact hf.queueSound hs
  | failed h hf reason l => exact hf.queueSound (t := _) hs
  | @handed u _ h hf p clamped hm =>
    obtain ⟨hlen, hord, -⟩ := hf.queueSound hs
    refine hm.keeps (I := fun s => Machine.queueSound s.link) (fun m => m.link.queueSound) ?_
    exact ⟨hlen, hord, fun h => absurd rfl h⟩
  | moved p h hm => exact hm.keeps (I := fun s => Machine.queueSound s.link) (fun m => m.link.queueSound) hs

theorem Ran.framesSound (h : Ran s t) (hs : framesSound s.link) : framesSound t.link := by
  cases h with
  | reset h =>
    injection h with h
    subst h
    simp [Machine.framesSound, State.reset, linkReset]
  | early h hf => exact hf.framesSound hs
  | failed h hf reason l => exact hf.framesSound (t := _) hs
  | @handed u _ h hf p clamped hm =>
    refine hm.keeps (I := fun s => Machine.framesSound s.link) (fun m => m.link.framesSound) ?_
    exact hf.framesSound hs
  | moved p h hm => exact hm.keeps (I := fun s => Machine.framesSound s.link) (fun m => m.link.framesSound) hs

/-! ### The roster and the rotation through a step -/

/-- R96, R108: units in strict order, at most 7, none 0 or the own number, and a rotation of the station and these. -/
def rosterFor (own : Option UnitNo) (units : List UnitNo) (rotation : List Who) : Prop :=
  units.length ≤ 7 ∧ units.Pairwise (fun a b => a.val < b.val) ∧ (∀ v ∈ units, v ≠ 0 ∧ own ≠ some v)
    ∧ rotation.Nodup ∧ ∀ w, w ∈ rotation ↔ w = .own ∨ ∃ v ∈ units, w = .unit v

theorem rosterSound_iff (s : State) : rosterSound s ↔
    rosterFor (s.reader.applied.map (·.unit)) (s.roster.entries.map (·.unit)) s.arb.rotation
      ∧ (s.reader.applied = none → s.roster.entries = []) := by
  have hown : (∀ v ∈ s.roster.entries.map (·.unit), v ≠ 0 ∧ s.reader.applied.map (·.unit) ≠ some v)
      ↔ (∀ e ∈ s.roster.entries, e.unit ≠ 0)
        ∧ ∀ q, s.reader.applied = some q → ∀ e ∈ s.roster.entries, e.unit ≠ q.unit := by
    simp only [List.forall_mem_map, forall_and]
    cases s.reader.applied <;> simp [eq_comm]
  unfold rosterSound rosterFor
  rw [hown]
  simp only [List.length_map, List.pairwise_map, List.mem_map, exists_exists_and_eq_and]
  tauto

theorem rosterFor.perm {own : Option UnitNo} {l : List UnitNo} {r q : List Who} (h : rosterFor own l r)
    (hq : r.Nodup → q.Perm r) : rosterFor own l q := by
  obtain ⟨h1, h2, h3, h4, h5⟩ := h
  have hp := hq h4
  exact ⟨h1, h2, h3, hp.nodup_iff.mpr h4, fun w => hp.mem_iff.trans (h5 w)⟩

/-- What the roster moves keep, by unit. -/
def rosterOf (s : State) : Prop :=
  rosterFor (s.reader.applied.map (·.unit)) (s.roster.entries.map (·.unit)) s.arb.rotation

theorem rosterOf_same (ha : t.reader.applied = s.reader.applied) (hu : t.roster = s.roster)
    (hr : s.arb.rotation.Nodup → t.arb.rotation.Perm s.arb.rotation) (hs : rosterOf s) : rosterOf t := by
  unfold rosterOf at hs ⊢
  rw [ha, hu]
  exact hs.perm hr

theorem rosterOf_kept (h : Kept s t) : rosterOf s → rosterOf t :=
  rosterOf_same (by rw [h.reader]) h.roster fun _ => by rw [h.rotation]

theorem rosterOf_join {v : UnitNo} (ha : s.reader.applied = some p) (h0 : v ≠ 0) (hv : v ≠ p.unit)
    (hs : rosterOf s) : rosterOf (joinOrRefresh v s) := by
  unfold joinOrRefresh
  split_ifs with hin hlt
  · unfold rosterOf
    rw [updateEntry_units v (f := fun e => { e with age := 0 }) fun _ => rfl]
    exact hs
  · have hnew : ∀ e ∈ s.roster.entries, e.unit ≠ v := by
      rw [← entryOf_eq_none]
      simpa using hin
    obtain ⟨h1, h2, h3, h4, h5⟩ := hs
    have hmem (w : UnitNo) : w ∈ (insertEntry (newEntry v) s.roster.entries).map (·.unit)
        ↔ w = v ∨ w ∈ s.roster.entries.map (·.unit) := by
      simp only [List.mem_map, mem_insertEntry]
      constructor
      · rintro ⟨e, rfl | he, rfl⟩
        · exact .inl rfl
        · exact .inr ⟨e, he, rfl⟩
      · rintro (rfl | ⟨e, he, rfl⟩)
        · exact ⟨newEntry w, .inl rfl, rfl⟩
        · exact ⟨e, .inr he, rfl⟩
    refine ⟨?_, ?_, fun w hw => ?_, ?_, fun w => ?_⟩
    · rw [List.length_map, length_insertEntry]
      exact hlt
    · rw [List.pairwise_map]
      exact insertEntry_sorted (by simpa only [List.pairwise_map] using h2) hnew
    · rcases (hmem w).mp hw with rfl | hw
      · refine ⟨h0, fun h => hv ?_⟩
        simpa [ha, eq_comm] using h
      · exact h3 w hw
    · refine List.Nodup.append h4 (by simp) fun w hw hw' => ?_
      rw [List.mem_singleton] at hw'
      subst hw'
      obtain ⟨w, hw, e⟩ := ((h5 _).mp hw).resolve_left (by simp)
      cases e
      obtain ⟨e, he, hu⟩ := List.mem_map.mp hw
      exact hnew e he hu
    · rw [List.mem_append, h5 w, List.mem_singleton]
      simp only [hmem]
      constructor
      · rintro ((rfl | ⟨v, hv, rfl⟩) | rfl)
        · exact .inl rfl
        · exact .inr ⟨v, .inr hv, rfl⟩
        · exact .inr ⟨_, .inl rfl, rfl⟩
      · rintro (rfl | ⟨w, rfl | hw, rfl⟩)
        · exact .inl (.inl rfl)
        · exact .inr rfl
        · exact .inl (.inr ⟨w, hw, rfl⟩)
  · exact hs

theorem rosterOf_leave (v : UnitNo) (hs : rosterOf s) : rosterOf (leaveRoster v s) := by
  obtain ⟨h1, h2, h3, h4, h5⟩ := hs
  have hsub : ((leaveRoster v s).roster.entries.map (·.unit)).Sublist (s.roster.entries.map (·.unit)) :=
    List.Sublist.map _ List.filter_sublist
  refine ⟨hsub.length_le.trans h1, h2.sublist hsub, fun w hw => h3 w (hsub.subset hw),
    h4.sublist List.filter_sublist, fun w => ?_⟩
  have hm (w : UnitNo) : w ∈ (leaveRoster v s).roster.entries.map (·.unit)
      ↔ w ∈ s.roster.entries.map (·.unit) ∧ w ≠ v := by
    simp only [leaveRoster, List.mem_map, List.mem_filter, bne_iff_ne, ne_eq]
    constructor
    · rintro ⟨e, ⟨he, hv⟩, rfl⟩
      exact ⟨⟨e, he, rfl⟩, hv⟩
    · rintro ⟨⟨e, he, rfl⟩, hv⟩
      exact ⟨e, ⟨he, hv⟩, rfl⟩
  show w ∈ s.arb.rotation.filter _ ↔ _
  simp only [List.mem_filter, h5 w, hm, bne_iff_ne, ne_eq]
  constructor
  · rintro ⟨rfl | ⟨v', hv', rfl⟩, hne⟩
    · exact .inl rfl
    · exact .inr ⟨v', ⟨hv', fun h => hne (by rw [h])⟩, rfl⟩
  · rintro (rfl | ⟨v', ⟨hv', hne⟩, rfl⟩)
    · exact ⟨.inl rfl, by simp⟩
    · exact ⟨.inr ⟨v', hv', rfl⟩, by simpa using hne⟩

theorem Move.rosterOf (h : Move p s t) (ha : s.reader.applied = some p) : rosterOf s → rosterOf t := by
  cases h with
  | frame h =>
    unfold Machine.rosterOf
    rw [h.applied, h.units, h.rotation]
    exact id
  | request f h => exact rosterOf_kept (requestFrame_kept f s)
  | send h => exact id
  | silence h l hl => exact id
  | peers h => exact rosterOf_same rfl rfl h.rotation
  | join u h0 hu => exact rosterOf_join ha h0 hu
  | leave u => exact rosterOf_leave u
  | prep => exact rosterOf_kept (enterPrep_kept s)
  | crank h => exact rosterOf_kept (enterCrank_kept s)
  | release h =>
    unfold releaseCrank
    rw [endCrankCounted_eq]
    exact rosterOf_same rfl rfl (toTail_perm _)
  | confirm h => exact id
  | @ended t e he h =>
    have hk := enterState_kept e t
    exact rosterOf_same (by rw [hk.reader, h.reader]) (hk.roster.trans h.roster) (by rw [hk.rotation]; exact h.rotation)
  | eligible => exact rosterOf_kept (settleEligible_kept p s)
  | cancel => exact rosterOf_kept (cancelIntent_kept s)
  | idle h => exact id
  | commit h =>
    unfold commitLayover
    dsimp only
    split
    · exact rosterOf_kept ((layover_kept _ s).trans (enterState_kept _ _))
    · exact id
  | quiet => exact id

theorem Moves.rosterOf (h : Moves p s t) (ha : s.reader.applied = some p) (hs : rosterOf s) : rosterOf t := by
  refine (h.keeps (I := fun s => s.reader.applied = some p ∧ Machine.rosterOf s) (fun hm ⟨h1, h2⟩ => ?_) ⟨ha, hs⟩).2
  exact ⟨hm.reader.applied.trans h1, hm.rosterOf h1 h2⟩

theorem Framed.rosterSound (h : Framed s t) (hs : rosterSound s) : rosterSound t := by
  rw [rosterSound_iff] at hs ⊢
  rw [h.applied, h.units, h.rotation]
  refine ⟨hs.1, fun hn => ?_⟩
  have := h.units
  rw [hs.2 hn, List.map_nil, List.map_eq_nil_iff] at this
  exact this

theorem Ran.rosterSound (h : Ran s t) (hr : Machine.readerSound s) (hs : rosterSound s) : rosterSound t := by
  cases h with
  | reset h =>
    injection h with h
    subst h
    simp [Machine.rosterSound, State.reset, arbiterReset, readerReset]
  | early h hf => exact hf.rosterSound hs
  | failed h hf reason l => exact hf.rosterSound (t := _) hs
  | @handed u _ h hf p clamped hm =>
    have hn : s.reader.applied = none := by
      rw [← Option.not_isSome_iff_eq_none, hr.1, h]
      simp
    have hu : u.roster.entries = [] := by
      have := (rosterSound_iff u).mp (hf.rosterSound hs)
      exact this.2 (by rw [hf.applied, hn])
    have hu' := ((rosterSound_iff u).mp (hf.rosterSound hs)).1
    have hb : Machine.rosterOf (startBlocks p clamped u) := by
      unfold Machine.rosterOf
      show rosterFor _ (u.roster.entries.map (·.unit)) u.arb.rotation
      rw [hu] at hu' ⊢
      obtain ⟨h1, h2, -, h4, h5⟩ := hu'
      exact ⟨h1, h2, by simp, h4, h5⟩
    rw [rosterSound_iff]
    refine ⟨hm.rosterOf rfl hb, fun hn => ?_⟩
    rw [hm.reader.applied] at hn
    cases hn
  | moved p h hm =>
    rw [rosterSound_iff] at hs ⊢
    refine ⟨hm.rosterOf h hs.1, fun hn => ?_⟩
    rw [hm.reader.applied, h] at hn
    cases hn

/-! ### A step -/

theorem sameStage.trans {a b c : IdleTimer} (h : sameStage a b) (k : sameStage b c) : sameStage a c := by
  cases a <;> cases b <;> cases c <;> simp_all [sameStage]

theorem Framed.trans (h : Framed s t) (k : Framed t u) : Framed s u where
  applied := k.applied.trans h.applied
  readerState := k.readerState.trans h.readerState
  units := k.units.trans h.units
  claims := k.claims.trans h.claims
  rotation := k.rotation.trans h.rotation
  crossing := k.crossing.trans h.crossing
  expired := k.expired.trans h.expired
  engine := k.engine.trans h.engine
  record := k.record.trans h.record
  linkState := k.linkState.trans h.linkState
  queue := k.queue.trans h.queue
  buffer := k.buffer.trans h.buffer
  intent := by rw [k.intent.1, k.intent.2.1, k.intent.2.2]; exact h.intent
  holdTimer := k.holdTimer.trans h.holdTimer
  idle := h.idle.trans k.idle
  lines := fun out ho => k.lines out (h.lines out ho)

theorem elapse_framed (us : Nat) (s : State) : Framed s (elapse us s) := by
  have hout (us : Nat) (l : OutputLine) (h : lineApart l) : lineApart (runOutput us l) := by
    rcases h with h | h
    · exact .inl (by simp [runOutput, runTimer, h])
    · exact .inr h
  have hd : Framed s (runDebounces us s) := by
    constructor
    case lines => exact fun out h => by cases out <;> exact hout us _ h
    all_goals simp [runDebounces, sameStage_refl]
  have hb (q : Params) (s : State) : Framed s (runBlocks q us s) := by
    constructor
    case claims =>
      show (s.arb.claims.map (runClaim us)).map _ = _
      rw [List.map_map]
      refine List.map_congr_left fun c _ => ?_
      obtain ⟨who, level, serial, state⟩ := c
      cases who <;> cases state <;> rfl
    case idle =>
      show sameStage s.layover.idle (runIdle us s.layover.idle)
      cases s.layover.idle <;> trivial
    all_goals simp [runBlocks, runSequencer, runArbiter, runLayover, runTimer, runEntry]
  unfold elapse
  dsimp only
  split
  · exact hd
  · exact hd.trans (hb _ _)

/-- A step runs the front command, or lets time pass: it is one of these of the station, its queue of commands aside. -/
theorem step_ran (h : step s = .next t) : ∃ rest, Ran (s.withPending rest) t := by
  unfold step at h
  split at h
  · exact ⟨_, exec_ran _ h⟩
  · injection h with h
    subst h
    exact ⟨s.pending, .of_frame (elapse_framed 1 s)⟩

/-- Settles O58: a step is one of the moves of `Ran`, and each keeps the reader, the roster with its rotation, and the
queue with its frames sound. -/
theorem listsStaySound : Obligations.ListsStaySound := by
  intro s t hreader hroster hqueue hstep
  obtain ⟨rest, hran⟩ := step_ran hstep
  exact ⟨hran.readerSound hreader, hran.rosterSound hreader hroster, hran.queueSound hqueue,
    hran.framesSound⟩

end Sys2Proof.Machine

/-! The own claim, the peers' records, the attempt record, the intent and the line faults through a step (R110, R111,
R116, R39, R133 to R140, R150). -/

namespace Sys2Proof.Machine

variable {s t u : State} {p : Params}

/-! ### The own claim (R110, R111) -/

/-- R110, R111: the claims that go with an engine state. -/
def claimsFor (e : EngineState) (l : List Claim) : Prop :=
  (l.map (·.who)).Nodup
    ∧ (e = .starting .prep ↔ ∃ c, claimOf .own l = some c ∧ isCranking c = false)
    ∧ (e = .starting .crank ↔ ∃ c, claimOf .own l = some c ∧ isCranking c = true)

theorem ownClaimSound_iff (s : State) : ownClaimSound s ↔ claimsFor s.seq.engine s.arb.claims := Iff.rfl

theorem claimsFor.none {e : EngineState} {l : List Claim} (h : claimsFor e l) (h1 : e ≠ .starting .prep)
    (h2 : e ≠ .starting .crank) : claimOf .own l = none := by
  obtain ⟨-, hp, hc⟩ := h
  cases hl : claimOf .own l with
  | none => rfl
  | some c =>
    cases hs : isCranking c with
    | false => exact absurd (hp.mpr ⟨c, hl, hs⟩) h1
    | true => exact absurd (hc.mpr ⟨c, hl, hs⟩) h2

theorem claimsFor_of_none {e : EngineState} {l : List Claim} (hn : (l.map (·.who)).Nodup)
    (h : claimOf .own l = none) (h1 : e ≠ .starting .prep) (h2 : e ≠ .starting .crank) : claimsFor e l := by
  refine ⟨hn, ?_, ?_⟩ <;> simp [h, h1, h2]

/-- Lists with the same owners and states, in order, hold the same kinds of entry. -/
theorem claimOf_kind {l m : List Claim}
    (h : l.map (fun c => (c.who, isCranking c)) = m.map fun c => (c.who, isCranking c)) (w : Who) (b : Bool) :
    (∃ c, claimOf w l = some c ∧ isCranking c = b) ↔ ∃ c, claimOf w m = some c ∧ isCranking c = b := by
  have key (l : List Claim) : (claimOf w l).map isCranking
      = ((l.map fun c => (c.who, isCranking c)).find? fun x => x.1 == w).map (·.2) := by
    rw [List.find?_map, Option.map_map]
    rfl
  have hk : (claimOf w l).map isCranking = (claimOf w m).map isCranking := by rw [key, key, h]
  have hi (l : List Claim) : (∃ c, claimOf w l = some c ∧ isCranking c = b) ↔ (claimOf w l).map isCranking = some b := by
    simp
  rw [hi, hi, hk]

theorem claimsFor_congr {e : EngineState} {l m : List Claim}
    (h : m.map (fun c => (c.who, isCranking c)) = l.map fun c => (c.who, isCranking c)) (hl : claimsFor e l) :
    claimsFor e m := by
  obtain ⟨hn, hp, hc⟩ := hl
  have hw : m.map (·.who) = l.map (·.who) := by
    have := congrArg (List.map Prod.fst) h
    rw [List.map_map, List.map_map] at this
    exact this
  exact ⟨by rw [hw]; exact hn, hp.trans (claimOf_kind h .own false).symm, hc.trans (claimOf_kind h .own true).symm⟩

theorem LayoverOnly.same (h : LayoverOnly s t) :
    t.seq = s.seq ∧ t.arb = s.arb ∧ t.roster = s.roster ∧ t.lines = s.lines := by
  obtain ⟨l, rfl | ⟨f, -, rfl⟩⟩ := h <;> exact ⟨rfl, rfl, rfl, rfl⟩

theorem joinOrRefresh_same (v : UnitNo) (s : State) :
    (joinOrRefresh v s).arb = { s.arb with rotation := (joinOrRefresh v s).arb.rotation }
      ∧ (joinOrRefresh v s).seq = s.seq ∧ (joinOrRefresh v s).layover = s.layover
      ∧ (joinOrRefresh v s).lines = s.lines := by
  unfold joinOrRefresh
  split_ifs <;> exact ⟨rfl, rfl, rfl, rfl⟩

/-- R139: the commit leaves the arbiter, the record, the roster and the lines. -/
theorem commitLayover_same (s : State) :
    (commitLayover s).arb = s.arb ∧ (commitLayover s).seq.record = s.seq.record
      ∧ (commitLayover s).roster = s.roster ∧ (commitLayover s).lines = s.lines := by
  unfold commitLayover
  dsimp only
  split
  · exact ⟨by rw [enterState_arb], by rw [enterState_record], (enterState_kept _ _).roster, by rw [enterState_lines]⟩
  · exact ⟨rfl, rfl, rfl, rfl⟩

/-- R139: where the commit changes the engine state, RUNNING becomes STOPPING. -/
theorem commitLayover_engine (s : State) : (commitLayover s).seq.engine
    = if s.seq.engine = .running then .stopping .layover else s.seq.engine := by
  unfold commitLayover
  dsimp only
  split_ifs <;> simp [endIntent]

theorem Ended.claimsFor {e : EngineState} (h : Ended s t) (he : isStarting e = false) (hs : ownClaimSound s) :
    claimsFor e t.arb.claims := by
  have hn := hs.1
  refine claimsFor_of_none ?_ ?_ (isStarting_false he _) (isStarting_false he _)
  · rcases h.claims with hc | ⟨hc, -⟩ <;> rw [hc]
    · exact nodup_dropClaim _ hn
    · exact hn
  · rcases h.claims with hc | ⟨hc, h1, h2⟩ <;> rw [hc]
    · exact claimOf_dropClaim_self _ _
    · exact claimsFor.none hs h1 h2

theorem Move.ownClaimSound (h : Move p s t) : ownClaimSound s → ownClaimSound t := by
  have same {t : State} (hc : t.arb.claims = s.arb.claims) (he : t.seq.engine = s.seq.engine) :
      Machine.ownClaimSound s → Machine.ownClaimSound t := by
    unfold Machine.ownClaimSound
    rw [hc, he]
    exact id
  cases h with
  | frame h =>
    rw [ownClaimSound_iff, ownClaimSound_iff, h.engine]
    exact claimsFor_congr h.claims
  | request f h => exact same (by simp) (by simp)
  | send h => exact id
  | silence h l hl => exact id
  | peers h =>
    rintro ⟨h1, h2, h3⟩
    refine ⟨h.nodup h1, ?_, ?_⟩ <;> rw [h.own] <;> assumption
  | join u h0 hu =>
    obtain ⟨ha, he, -⟩ := joinOrRefresh_same u s
    exact same (by rw [ha]) (by rw [he])
  | leave u =>
    rintro ⟨h1, h2, h3⟩
    refine ⟨nodup_dropClaim _ h1, ?_, ?_⟩ <;>
      (show _ ↔ ∃ c, claimOf .own (dropClaim _ s.arb.claims) = _ ∧ _; rw [claimOf_dropClaim_other (by simp)])
    · exact h2
    · exact h3
  | prep =>
    rintro ⟨h1, -, -⟩
    obtain ⟨-, hc, -⟩ := enterPrep_blocks s
    rw [ownClaimSound_iff, enterPrep_engine, hc]
    refine ⟨nodup_putClaim _ h1, ?_, ?_⟩ <;> simp [claimOf_putClaim, isCranking]
  | crank h =>
    rintro ⟨h1, -, -⟩
    obtain ⟨-, hc, he, -⟩ := enterCrank_blocks s
    rw [ownClaimSound_iff, he, hc]
    refine ⟨nodup_putClaim _ h1, ?_, ?_⟩ <;> simp [claimOf_putClaim, isCranking, ownClaim_who]
  | release h =>
    rintro ⟨h1, -, -⟩
    unfold releaseCrank
    rw [endCrankCounted_eq]
    exact claimsFor_of_none (nodup_dropClaim _ h1) (claimOf_dropClaim_self _ _)
      (show EngineState.starting .fire ≠ .starting .prep by simp)
      (show EngineState.starting .fire ≠ .starting .crank by simp)
  | confirm h =>
    intro hs
    exact claimsFor_of_none hs.1 (claimsFor.none hs (by simp [h]) (by simp [h]))
      (show EngineState.starting .confirm ≠ .starting .prep by simp)
      (show EngineState.starting .confirm ≠ .starting .crank by simp)
  | ended e he h =>
    intro hs
    rw [ownClaimSound_iff, enterState_arb, enterState_engine]
    exact h.claimsFor (stateReached_idle he) hs
  | eligible =>
    obtain ⟨h1, h2, -⟩ := (settleEligible_only p s).same
    exact same (by rw [h2]) (by rw [h1])
  | cancel =>
    obtain ⟨h1, h2, -⟩ := (cancelIntent_only s).same
    exact same (by rw [h2]) (by rw [h1])
  | idle h => exact id
  | commit h =>
    intro hs
    rw [ownClaimSound_iff, (commitLayover_same s).1, commitLayover_engine]
    split
    · rename_i hr
      exact claimsFor_of_none hs.1 (claimsFor.none hs (by simp [hr]) (by simp [hr])) (by simp) (by simp)
    · exact hs
  | quiet => exact id

/-! ### The peers' records (R97, R116, R117, R124) -/

/-- R117: claims, crossing list and expired list speak of the given units. -/
def backedBy (units : List UnitNo) (a : Arbiter) : Prop :=
  (∀ c ∈ a.claims, ∀ v, c.who = .unit v → v ∈ units) ∧ (∀ v ∈ a.crossing, v ∈ units)
    ∧ ∀ x ∈ a.expired, x.unit ∈ units

theorem arbiterSound_iff (s : State) :
    arbiterSound s ↔ backedBy (s.roster.entries.map (·.unit)) s.arb := by
  unfold arbiterSound backedBy
  simp only [List.mem_map]

theorem arbiterSound_same {units : List UnitNo} {a b : Arbiter}
    (hc : ∀ c ∈ b.claims, (∃ d ∈ a.claims, d.who = c.who) ∨ c.who = .own) (hx : b.crossing ⊆ a.crossing)
    (he : b.expired ⊆ a.expired) (h : backedBy units a) : backedBy units b := by
  obtain ⟨h1, h2, h3⟩ := h
  refine ⟨fun c hm v hv => ?_, fun v hv => h2 v (hx hv), fun x hm => h3 x (he hm)⟩
  rcases hc c hm with ⟨d, hd, e⟩ | ho
  · exact h1 d hd v (e.trans hv)
  · rw [ho] at hv
    cases hv

theorem backed_of_claims {a b : Arbiter} {units : List UnitNo}
    (hc : b.claims = a.claims ∨ b.claims = dropClaim .own a.claims ∨ ∃ c, c.who = .own ∧ b.claims = putClaim c a.claims)
    (hx : b.crossing ⊆ a.crossing) (he : b.expired = a.expired) (h : backedBy units a) : backedBy units b := by
  refine arbiterSound_same (fun c hm => ?_) hx (by rw [he]; exact List.Subset.refl _) h
  rcases hc with hc | hc | ⟨d, hd, hc⟩ <;> rw [hc] at hm
  · exact .inl ⟨c, hm, rfl⟩
  · exact .inl ⟨c, mem_dropClaim hm, rfl⟩
  · rcases mem_putClaim hm with rfl | hm
    · exact .inr hd
    · exact .inl ⟨c, hm, rfl⟩

theorem backed_leave (v : UnitNo) (h : arbiterSound s) : arbiterSound (leaveRoster v s) := by
  obtain ⟨h1, h2, h3⟩ := h
  have stays {w : UnitNo} (hw : w ≠ v) (he : ∃ e ∈ s.roster.entries, e.unit = w) :
      ∃ e ∈ s.roster.entries.filter (fun e => e.unit != v), e.unit = w := by
    obtain ⟨e, he, rfl⟩ := he
    exact ⟨e, List.mem_filter.mpr ⟨he, by simpa using hw⟩, rfl⟩
  refine ⟨fun c hc w hw => ?_, fun w hw => ?_, fun x hx => ?_⟩
  · obtain ⟨hm, hne⟩ := List.mem_filter.mp hc
    exact stays (by rintro rfl; simp [hw] at hne) (h1 c hm w hw)
  · obtain ⟨hm, hne⟩ := List.mem_filter.mp hw
    exact stays (by simpa using hne) (h2 w hm)
  · obtain ⟨hm, hne⟩ := List.mem_filter.mp hx
    exact stays (by simpa using hne) (h3 x hm)

theorem joinOrRefresh_units (v : UnitNo) (s : State) :
    s.roster.entries.map (·.unit) ⊆ (joinOrRefresh v s).roster.entries.map (·.unit) := by
  unfold joinOrRefresh
  split_ifs
  · rw [updateEntry_units v (f := fun e => { e with age := 0 }) fun _ => rfl]
    exact List.Subset.refl _
  · intro w hw
    obtain ⟨e, he, rfl⟩ := List.mem_map.mp hw
    exact List.mem_map.mpr ⟨e, mem_insertEntry.mpr (.inr he), rfl⟩
  · exact List.Subset.refl _

theorem Move.arbiterSound (h : Move p s t) : arbiterSound s → arbiterSound t := by
  have same {t : State} (hr : t.roster = s.roster)
      (hc : t.arb.claims = s.arb.claims ∨ t.arb.claims = dropClaim .own s.arb.claims
        ∨ ∃ c, c.who = .own ∧ t.arb.claims = putClaim c s.arb.claims)
      (hx : t.arb.crossing ⊆ s.arb.crossing) (he : t.arb.expired = s.arb.expired) :
      Machine.arbiterSound s → Machine.arbiterSound t := by
    rw [arbiterSound_iff, arbiterSound_iff, hr]
    exact backed_of_claims hc hx he
  have alike {t : State} (hr : t.roster = s.roster) (ha : t.arb = s.arb) :
      Machine.arbiterSound s → Machine.arbiterSound t :=
    same hr (.inl (by rw [ha])) (by rw [ha]; exact List.Subset.refl _) (by rw [ha])
  cases h with
  | frame h =>
    rw [arbiterSound_iff, arbiterSound_iff, h.units]
    refine arbiterSound_same (fun c hc => .inl ?_) (by rw [h.crossing]; exact List.Subset.refl _)
      (by rw [h.expired]; exact List.Subset.refl _)
    have : (c.who, isCranking c) ∈ s.arb.claims.map fun c => (c.who, isCranking c) := by
      rw [← h.claims]
      exact List.mem_map.mpr ⟨c, hc, rfl⟩
    obtain ⟨d, hd, e⟩ := List.mem_map.mp this
    exact ⟨d, hd, congrArg Prod.fst e⟩
  | request f h => exact alike (by simp) (by simp)
  | send h => exact id
  | silence h l hl => exact id
  | peers h =>
    rintro ⟨h1, h2, h3⟩
    refine ⟨fun c hc v hv => ?_, fun v hv => ?_, fun x hx => ?_⟩
    · exact (h.claims c hc v hv).elim (fun ⟨d, hd, e⟩ => h1 d hd v e) id
    · exact (h.crossing v hv).elim (h2 v) id
    · rcases h.expired x hx with ⟨y, hy, e⟩ | ⟨d, hd, e⟩ | he
      · exact e ▸ h3 y hy
      · exact h1 d hd _ e
      · exact he
  | join u h0 hu =>
    obtain ⟨ha, -⟩ := joinOrRefresh_same u s
    rw [arbiterSound_iff, arbiterSound_iff, ha]
    have hsub := joinOrRefresh_units u s
    exact fun ⟨h1, h2, h3⟩ => ⟨fun c hc v hv => hsub (h1 c hc v hv), fun v hv => hsub (h2 v hv),
      fun x hx => hsub (h3 x hx)⟩
  | leave u => exact backed_leave u
  | prep =>
    have hk := enterPrep_kept s
    obtain ⟨-, hc, -⟩ := enterPrep_blocks s
    exact same hk.roster (.inr (.inr ⟨_, rfl, hc⟩)) (by rw [hk.crossing]; exact List.Subset.refl _) hk.expired
  | crank h =>
    have hk := enterCrank_kept s
    obtain ⟨-, hc, -⟩ := enterCrank_blocks s
    exact same hk.roster (.inr (.inr ⟨{ ownClaim s with state := .cranking 0 }, ownClaim_who s, hc⟩)) (by rw [hk.crossing]; exact List.Subset.refl _)
      hk.expired
  | release h =>
    unfold releaseCrank
    rw [endCrankCounted_eq]
    exact same rfl (.inr (.inl rfl)) (List.nil_subset _) rfl
  | confirm h => exact id
  | ended e he h =>
    refine same ((enterState_kept _ _).roster.trans h.roster) ?_ ?_ ?_ <;> rw [enterState_arb]
    · exact h.claims.elim (fun h => .inr (.inl h)) fun h => .inl h.1
    · exact h.crossing
    · exact h.expired
  | eligible =>
    obtain ⟨-, h2, h3, -⟩ := (settleEligible_only p s).same
    exact alike h3 h2
  | cancel =>
    obtain ⟨-, h2, h3, -⟩ := (cancelIntent_only s).same
    exact alike h3 h2
  | idle h => exact id
  | commit h =>
    obtain ⟨h1, -, h3, -⟩ := commitLayover_same s
    exact alike h3 h1
  | quiet => exact id

/-! ### The attempt record (R39) -/

/-- R39: how many phases an attempt has reached. -/
def phasesReached : Phase → Nat
  | .prep => 1
  | .crank => 2
  | .fire => 3
  | .confirm => 4

/-- R39: a record that has its result, after one to four phases. -/
def recordClosed (r : Option AttemptRecord) : Prop :=
  ∀ a, r = some a → a.result.isSome = true ∧ 1 ≤ a.phases.length ∧ a.phases.length ≤ 4

/-- R39: a record of an attempt in a phase. -/
def recordOpen (phase : Phase) (r : Option AttemptRecord) : Prop :=
  ∃ a, r = some a ∧ a.result = none ∧ a.phases.length = phasesReached phase

theorem attemptSound_iff (s : State) : attemptSound s ↔
    (∀ phase, s.seq.engine = .starting phase → recordOpen phase s.seq.record)
      ∧ ((∀ phase, s.seq.engine ≠ .starting phase) → recordClosed s.seq.record) := by
  unfold attemptSound recordClosed
  refine and_congr (forall_congr' fun phase => ?_) Iff.rfl
  cases phase <;> rfl

theorem length_closeLast (ms v : Nat) : ∀ l : List PhaseEntry, (closeLast ms v l).length = l.length
  | [] => rfl
  | [_] => rfl
  | _ :: e :: es => by
    unfold closeLast
    simp [length_closeLast ms v (e :: es)]

theorem attemptSound.closed (hs : attemptSound s) (result : AttemptResult) :
    recordClosed (endAttempt result s).seq.record := by
  obtain ⟨hopen, hclosed⟩ := (attemptSound_iff s).mp hs
  intro a ha
  obtain ⟨b, hb, rfl⟩ := Option.map_eq_some_iff.mp ha
  obtain ⟨c, hc, rfl⟩ := Option.map_eq_some_iff.mp hb
  refine ⟨rfl, ?_⟩
  show 1 ≤ (closeLast _ _ c.phases).length ∧ (closeLast _ _ c.phases).length ≤ 4
  rw [length_closeLast]
  by_cases hp : ∃ phase, s.seq.engine = .starting phase
  · obtain ⟨phase, hp⟩ := hp
    obtain ⟨d, hd, -, hl⟩ := hopen phase hp
    cases hc.symm.trans hd
    rw [hl]
    cases phase <;> exact ⟨by decide, by decide⟩
  · exact (hclosed (by simpa using hp) c hc).2

theorem attemptSound_of_closed (hr : recordClosed s.seq.record) (he : ∀ phase, s.seq.engine ≠ .starting phase) :
    attemptSound s :=
  (attemptSound_iff s).mpr ⟨fun phase h => absurd h (he phase), fun _ => hr⟩

theorem attemptSound_of_open {phase : Phase} (he : s.seq.engine = .starting phase)
    (hr : recordOpen phase s.seq.record) : attemptSound s :=
  (attemptSound_iff s).mpr ⟨fun q h => by rw [he] at h; cases h; exact hr, fun h => absurd he (h phase)⟩

/-- R39: the entry to a later phase adds its entry. -/
theorem attemptSound.enterPhase {phase next : Phase} (hs : attemptSound s) (h : s.seq.engine = .starting phase)
    (hn : phasesReached next = phasesReached phase + 1) : recordOpen next (enterPhase next s).seq.record := by
  obtain ⟨a, ha, hr, hl⟩ := ((attemptSound_iff s).mp hs).1 phase h
  refine ⟨{ a with phases := closeLast (phaseElapsed s) s.meas.speed a.phases
      ++ [{ elapsed := 0, speed := none }] }, ?_, hr, ?_⟩
  · simp [Machine.enterPhase, closePhase, ha]
  · rw [List.length_append, length_closeLast, hl, hn]
    rfl

theorem Move.attemptSound (h : Move p s t) : attemptSound s → attemptSound t := by
  have same {t : State} (he : t.seq.engine = s.seq.engine) (hr : t.seq.record = s.seq.record) :
      Machine.attemptSound s → Machine.attemptSound t := by
    unfold Machine.attemptSound
    rw [he, hr]
    exact id
  cases h with
  | frame h => exact same h.engine h.record
  | request f h => exact same (by simp) (by simp)
  | send h => exact id
  | silence h l hl => exact id
  | peers h => exact id
  | join u h0 hu =>
    obtain ⟨-, he, -⟩ := joinOrRefresh_same u s
    exact same (by rw [he]) (by rw [he])
  | leave u => exact id
  | prep =>
    intro _
    obtain ⟨-, -, hr, -⟩ := enterPrep_blocks s
    exact attemptSound_of_open (enterPrep_engine s) ⟨_, hr, rfl, rfl⟩
  | crank h =>
    intro hs
    obtain ⟨-, -, he, hr, -⟩ := enterCrank_blocks s
    exact attemptSound_of_open he (hr ▸ hs.enterPhase h rfl)
  | release h =>
    intro hs
    have hs' : Machine.attemptSound (endCrankCounted releasedByte s) := by
      rw [endCrankCounted_eq]
      exact hs
    exact attemptSound_of_open rfl (hs'.enterPhase (phase := .crank) (by simp [h]) rfl)
  | confirm h => exact fun hs => attemptSound_of_open rfl (hs.enterPhase h rfl)
  | ended e he h =>
    intro hs
    refine attemptSound_of_closed ?_ ?_
    · rw [enterState_record]
      rcases h.record with ⟨result, hr⟩ | ⟨hr, hn⟩ <;> rw [hr]
      · exact hs.closed result
      · exact ((attemptSound_iff s).mp hs).2 hn
    · rw [enterState_engine]
      exact isStarting_false (stateReached_idle he)
  | eligible =>
    obtain ⟨h1, -⟩ := (settleEligible_only p s).same
    exact same (by rw [h1]) (by rw [h1])
  | cancel =>
    obtain ⟨h1, -⟩ := (cancelIntent_only s).same
    exact same (by rw [h1]) (by rw [h1])
  | idle h => exact id
  | commit h =>
    obtain ⟨-, hr, -⟩ := commitLayover_same s
    intro hs
    have he := commitLayover_engine s
    split at he
    · rename_i hrun
      refine attemptSound_of_closed ?_ (by simp [he])
      rw [hr]
      exact ((attemptSound_iff s).mp hs).2 (by simp [hrun])
    · exact same he hr hs
  | quiet => exact id

/-! ### The intent (R133 to R140) -/

/-- R133 to R140: what `layoverSound` says of the layover unit beside an engine state. -/
def layoverFor (e : EngineState) (l : LayoverUnit) : Prop :=
  (l.ownIntent = none ↔ l.phase = .none) ∧ (l.holdTimer.isSome = true ↔ l.phase = .announced)
    ∧ (l.phase = .announced → l.eligible = true ∧ l.idle = .reached)
    ∧ (l.phase = .committed → l.idle = .reached ∧ (e = .layover ∨ ∃ d, e = .stopping d))
    ∧ (l.eligible = true → l.idle ≠ .stopped) ∧ (l.eligible = false → ∀ us, l.idle ≠ .running us)

theorem layoverSound_iff (s : State) : layoverSound s ↔ layoverFor s.seq.engine s.layover := Iff.rfl

/-- R140: a change of engine state keeps the unit sound, a committed intent ending where it no longer applies. -/
theorem layoverFor_enter {before e : EngineState} {l : LayoverUnit} (h : layoverFor before l) :
    layoverFor e (layoverAfter before e l) := by
  obtain ⟨h1, h2, h3, h4, h5, h6⟩ := h
  unfold layoverAfter
  dsimp only
  split
  · rename_i hc
    refine ⟨by simp, ?_, by simp, by simp, h5, h6⟩
    simpa [hc.1] using h2
  · rename_i hc
    refine ⟨h1, h2, h3, fun hp => ⟨(h4 hp).1, ?_⟩, h5, h6⟩
    obtain ⟨-, hb⟩ := h4 hp
    by_contra hn
    refine hc ⟨hp, fun he => hn (.inl he), ?_⟩
    rcases hb with hb | ⟨d, hb⟩
    · exact .inl hb
    · refine .inr ⟨by simp [hb, isStopping], ?_⟩
      cases e with
      | stopping d => exact absurd (.inr ⟨d, rfl⟩) hn
      | _ => rfl

theorem layoverFor_moved {e e' : EngineState} {l : LayoverUnit} (h : layoverFor e l) (hp : isStarting e = true) :
    layoverFor e' l := by
  obtain ⟨h1, h2, h3, h4, h5, h6⟩ := h
  refine ⟨h1, h2, h3, fun hc => ?_, h5, h6⟩
  rcases (h4 hc).2 with he | ⟨d, he⟩ <;> rw [he] at hp <;> cases hp

theorem cancelIntent_sound (s : State) : layoverSound (cancelIntent s) := by
  have hl : (cancelIntent s).layover = { s.layover with
      ownIntent := none, phase := .none, holdTimer := none
      idle := if s.layover.eligible then .running 0 else .stopped } := by
    unfold cancelIntent requestMade
    dsimp only
    split <;> simp
  rw [layoverSound_iff, hl]
  refine ⟨by simp, by simp, by simp, by simp, fun he => ?_, fun he us => ?_⟩
  · have he : s.layover.eligible = true := he
    simp [he]
  · have he : s.layover.eligible = false := he
    simp [he]

theorem settleEligible_sound (p : Params) (h : layoverSound s) : layoverSound (settleEligible p s) := by
  obtain ⟨h1, h2, h3, h4, h5, h6⟩ := h
  have hrun : eligibleNow p s = true → s.seq.engine = .running := fun he => (eligibleNow_iff.mp he).2.1
  unfold settleEligible
  dsimp only
  split
  · rename_i hc
    -- an announced intent whose station is no longer eligible is cancelled
    have hi : s.layover.phase = .announced ∧ eligibleNow p s = false := by simpa using hc
    generalize hu : ({ s with layover := { s.layover with
      q := countNow p s, eligible := eligibleNow p s, idle := idleAfter s.layover (eligibleNow p s) } } : State) = u
    have hl : (cancelIntent u).layover = { u.layover with
        ownIntent := none, phase := .none, holdTimer := none
        idle := if u.layover.eligible then .running 0 else .stopped } := by
      unfold cancelIntent requestMade
      dsimp only
      split <;> simp
    have he : u.layover.eligible = false := by rw [← hu]; exact hi.2
    rw [layoverSound_iff, hl]
    simp [layoverFor, he]
  · rename_i hc
    have hc' : s.layover.phase = .announced → eligibleNow p s = true := by simpa using hc
    -- the idle timer agrees with the eligibility found
    have hidle : (eligibleNow p s = true → idleAfter s.layover (eligibleNow p s) ≠ .stopped)
        ∧ (s.layover.phase ≠ .committed → eligibleNow p s = false →
            ∀ us, idleAfter s.layover (eligibleNow p s) ≠ .running us) := by
      unfold idleAfter
      cases hn : eligibleNow p s <;> cases ho : s.layover.eligible <;> simp_all
    have hcom : s.layover.phase = .committed →
        idleAfter s.layover (eligibleNow p s) = .reached ∧ eligibleNow p s = false := fun hp => by
      obtain ⟨hr, he⟩ := h4 hp
      have hn : eligibleNow p s = false := by
        cases hb : eligibleNow p s with
        | false => rfl
        | true =>
          rw [hrun hb] at he
          simp at he
      refine ⟨?_, hn⟩
      simp [idleAfter, hn, hp, hr]
    have hann : s.layover.phase = .announced → idleAfter s.layover (eligibleNow p s) = .reached := fun hp => by
      obtain ⟨he, hr⟩ := h3 hp
      simp [idleAfter, hc' hp, he, hr]
    have hno : eligibleNow p s = false → ∀ us, idleAfter s.layover (eligibleNow p s) ≠ .running us := fun he us => by
      by_cases hp : s.layover.phase = .committed
      · simp [(hcom hp).1]
      · exact hidle.2 hp he us
    split
    · rename_i ha
      obtain ⟨hp, hr, he, -⟩ := ha
      rw [layoverSound_iff]
      unfold announceIntent requestMade
      simp only [requestFrame_layover, requestFrame_seq]
      exact ⟨by simp, by simp, fun _ => ⟨he, hr⟩, by simp, hidle.1, hno⟩
    · exact ⟨h1, h2, fun hp => ⟨hc' hp, hann hp⟩, fun hp => ⟨(hcom hp).1, (h4 hp).2⟩, hidle.1, hno⟩

theorem commitLayover_sound (hp : s.layover.phase = .announced) (h : layoverSound s) :
    layoverSound (commitLayover s) := by
  obtain ⟨h1, h2, h3, h4, h5, h6⟩ := h
  obtain ⟨he, hi⟩ := h3 hp
  have hn : s.layover.ownIntent ≠ none := fun h => by
    rw [h1.mp h] at hp
    cases hp
  unfold commitLayover
  dsimp only
  split
  · rename_i hr
    rw [layoverSound_iff, enterState_layover, enterState_engine]
    simp [layoverAfter, layoverFor, hr, isStopping, hi, he, hn]
  · simp [layoverSound, endIntent, he, hi]

theorem Move.layoverSound (h : Move p s t) : layoverSound s → layoverSound t := by
  have same {t : State} (he : t.seq.engine = s.seq.engine) (hl : t.layover = s.layover) :
      Machine.layoverSound s → Machine.layoverSound t := by
    unfold Machine.layoverSound
    rw [he, hl]
    exact id
  cases h with
  | frame h =>
    have hi := h.idle
    obtain ⟨k1, k2, k3⟩ := h.intent
    rintro ⟨h1, h2, h3, h4, h5, h6⟩
    rw [layoverSound_iff]
    unfold layoverFor
    rw [k1, k2, k3, h.holdTimer, h.engine]
    have hr : s.layover.idle = .reached → t.layover.idle = .reached := fun hr => by
      rw [hr] at hi
      exact hi.symm
    refine ⟨h1, h2, fun hp => ⟨(h3 hp).1, hr (h3 hp).2⟩, fun hp => ⟨hr (h4 hp).1, (h4 hp).2⟩, fun he hs => ?_,
      fun he us hs => ?_⟩
    · have := h5 he
      rw [hs] at hi
      cases hx : s.layover.idle <;> rw [hx] at hi <;> simp_all [sameStage]
    · have := h6 he
      rw [hs] at hi
      cases hx : s.layover.idle <;> rw [hx] at hi <;> simp_all [sameStage]
  | request f h => exact same (by simp) (by simp)
  | send h => exact id
  | silence h l hl => exact id
  | peers h => exact id
  | join u h0 hu =>
    obtain ⟨-, he, hl, -⟩ := joinOrRefresh_same u s
    exact same (by rw [he]) hl
  | leave u => exact id
  | prep =>
    intro hs
    obtain ⟨-, -, -, hl, -⟩ := enterPrep_blocks s
    rw [layoverSound_iff, enterPrep_engine, hl]
    exact layoverFor_enter hs
  | crank h =>
    intro hs
    obtain ⟨-, -, -, -, hl, -⟩ := enterCrank_blocks s
    rw [layoverSound_iff, hl]
    exact layoverFor_moved hs (by simp [h, isStarting])
  | release h =>
    intro hs
    unfold releaseCrank
    rw [endCrankCounted_eq]
    exact layoverFor_moved hs (by simp [h, isStarting])
  | confirm h => exact fun hs => layoverFor_moved hs (by simp [h, isStarting])
  | ended e he h =>
    intro hs
    rw [layoverSound_iff, enterState_layover, enterState_engine, h.engine, h.layover]
    exact layoverFor_enter hs
  | eligible => exact settleEligible_sound p
  | cancel => exact fun _ => cancelIntent_sound _
  | idle _ =>
    rintro ⟨h1, h2, h3, h4, h5, h6⟩
    exact ⟨h1, h2, fun hp => ⟨(h3 hp).1, rfl⟩, fun hp => ⟨rfl, (h4 hp).2⟩, by simp, by simp⟩
  | commit h => exact commitLayover_sound h
  | quiet =>
    intro _
    simp [Machine.layoverSound, silenceLayover]

/-! ### A step -/

/-- At most one entry for the station and each of the roster's units: at most 8 (R97, R110). -/
theorem claims_length (hr : rosterSound s) (ha : arbiterSound s) (ho : ownClaimSound s) : s.arb.claims.length ≤ 8 := by
  have hsub : s.arb.claims.map (·.who) ⊆ .own :: s.roster.entries.map (fun e => Who.unit e.unit) := by
    intro w hw
    obtain ⟨c, hc, rfl⟩ := List.mem_map.mp hw
    cases hw : c.who with
    | own => exact List.mem_cons_self
    | unit v =>
      obtain ⟨e, he, rfl⟩ := ha.1 c hc v hw
      exact List.mem_cons_of_mem _ (List.mem_map.mpr ⟨e, he, rfl⟩)
  have := (ho.1.subperm hsub).length_le
  have := hr.1
  simp only [List.length_map, List.length_cons] at *
  omega

/-- There is a parameter set: the built-in defaults. -/
theorem params_exist : Nonempty Params :=
  ⟨{ unit := 1, link := linkDefault, sense := senseDefault, startN := startNDefault, startC := startCDefault
     notch := notchDefault, notchAlt := notchDefault, crank := crankDefault, step := stepDefault
     layover := layoverDefault, protect := protectDefault, lines := linesDefault }⟩

/-- An invariant that the moves, the frames and RESET keep, and that the read's failure and handover keep, goes
through a step. -/
theorem Ran.keeps {I : State → Prop} (hm : ∀ {p : Params} {a b : State}, Move p a b → I a → I b)
    (hreset : ∀ {a : State}, exec .reset s = .next a → I a)
    (hfail : ∀ {a : State} (reason : InhibitReason) (l : Config.LinesParams), s.reader.state = .reading →
      Framed s a → I a → I (failRead reason l a))
    (hhand : ∀ {a : State} (p : Params) (clamped : Bool), I a → I (startBlocks p clamped a))
    (h : Ran s t) (hs : I s) : I t := by
  have hf {a b : State} (p : Params) (h : Framed a b) : I a → I b := hm (p := p) (.frame h)
  obtain ⟨any⟩ := params_exist
  cases h with
  | reset h => exact hreset h
  | early h hf' => exact hf any hf' hs
  | failed h hf' reason l => exact hfail reason l h hf' (hf any hf' hs)
  | handed h hf' p clamped m => exact m.keeps (hm (p := p)) (hhand p clamped (hf any hf' hs))
  | moved p h m => exact m.keeps (hm (p := p)) hs

theorem Ran.ownClaimSound (h : Ran s t) (hr : Machine.readerSound s) : ownClaimSound s → ownClaimSound t := by
  refine h.keeps (I := Machine.ownClaimSound) Move.ownClaimSound (fun h => ?_) (fun reason l hs hf ha => ?_)
    fun _ _ h => h
  · injection h with h
    subst h
    simp [Machine.ownClaimSound, State.reset, arbiterReset, sequencerReset, claimOf]
  · have he := hf.engine.trans (hr.2.2 hs)
    exact claimsFor_of_none ha.1 (claimsFor.none ha (by simp [he]) (by simp [he]))
      (show EngineState.inhibited reason ≠ .starting .prep by simp)
      (show EngineState.inhibited reason ≠ .starting .crank by simp)

theorem Ran.arbiterSound (h : Ran s t) : arbiterSound s → arbiterSound t := by
  refine h.keeps (I := Machine.arbiterSound) Move.arbiterSound (fun h => ?_) (fun _ _ _ _ h => h) fun _ _ h => h
  injection h with h
  subst h
  simp [Machine.arbiterSound, State.reset, arbiterReset]

theorem Ran.attemptSound (h : Ran s t) (hr : Machine.readerSound s) : attemptSound s → attemptSound t := by
  refine h.keeps (I := Machine.attemptSound) Move.attemptSound (fun h => ?_) (fun reason l hs hf ha => ?_)
    fun _ _ h => h
  · injection h with h
    subst h
    simp [Machine.attemptSound, State.reset, sequencerReset]
  · have he := hf.engine.trans (hr.2.2 hs)
    exact attemptSound_of_closed (((attemptSound_iff _).mp ha).2 (by simp [he]))
      (by simp [failRead])

theorem Ran.layoverSound (h : Ran s t) (hr : Machine.readerSound s) : layoverSound s → layoverSound t := by
  refine h.keeps (I := Machine.layoverSound) Move.layoverSound (fun h => ?_) (fun reason l hs hf ha => ?_)
    fun _ _ h => h
  · injection h with h
    subst h
    simp [Machine.layoverSound, State.reset, layoverReset]
  · have he := hf.engine.trans (hr.2.2 hs)
    obtain ⟨h1, h2, h3, h4, h5, h6⟩ := ha
    refine ⟨h1, h2, h3, fun hp => ?_, h5, h6⟩
    rcases (h4 hp).2 with h | ⟨d, h⟩ <;> rw [he] at h <;> cases h

/-- Settles O59: a step is one of the moves of `Ran`, and each keeps the own claim, the peers' records, the attempt
record and the intent sound. -/
theorem ownClaimStaysSound : Obligations.OwnClaimStaysSound := by
  intro s t hreader hstep
  obtain ⟨rest, hran⟩ := step_ran hstep
  exact ⟨hran.ownClaimSound hreader, fun _ => hran.arbiterSound,
    fun hr ha ho => claims_length (hran.rosterSound hreader hr) (hran.arbiterSound ha)
      (hran.ownClaimSound hreader ho),
    hran.attemptSound hreader, hran.layoverSound hreader⟩

end Sys2Proof.Machine

/-! What every step leaves of the outputs, the judgements and the lines: after a command the blocks have judged anew, or
nothing that a judgement reads has changed. -/

namespace Sys2Proof.Machine

variable {s t u : State} {p : Params}

/-! ### Lines: mismatch timer and present fault -/

/-- R150, R152: a line judged anew agrees and has neither timer nor fault, or disagrees and has exactly one of them. -/
theorem judgeLine_sound (c v : Bool) {l : OutputLine} (h : lineApart (judgeLine c v l)) :
    (c = v → (judgeLine c v l).mismatch = none ∧ (judgeLine c v l).present = .none)
      ∧ (c ≠ v → ((judgeLine c v l).mismatch = none ↔ (judgeLine c v l).present ≠ .none)) := by
  unfold lineApart at h
  unfold judgeLine at h ⊢
  split
  next e => exact ⟨fun _ => ⟨rfl, rfl⟩, fun n => absurd e n⟩
  next e =>
    rw [if_neg e] at h
    refine ⟨fun n => absurd n e, fun _ => ?_⟩
    split
    next => simp
    next k =>
      rw [if_neg k] at h
      grind

theorem Move.lines (h : Move p s t) : (∀ out, lineApart (outputOf s.lines out)) → ∀ out, lineApart (outputOf t.lines out) := by
  cases h with
  | frame h => exact fun k out => h.lines out (k out)
  | request f h => rw [requestFrame_lines]; exact id
  | send h => exact id
  | silence h l hl => exact id
  | peers h => exact id
  | join v h0 hv => rw [(joinOrRefresh_same v s).2.2.2]; exact id
  | leave v => exact id
  | prep => rw [(enterPrep_blocks s).1]; exact id
  | crank h => rw [(enterCrank_blocks s).1]; exact id
  | release h => unfold releaseCrank; rw [endCrankCounted_eq]; exact id
  | confirm h => exact id
  | ended e he h => rw [enterState_lines, h.lines]; exact id
  | eligible => rw [(settleEligible_only p s).same.2.2.2]; exact id
  | cancel => rw [(cancelIntent_only s).same.2.2.2]; exact id
  | idle h => exact id
  | commit h => rw [(commitLayover_same s).2.2.2]; exact id
  | quiet => exact id

theorem Ran.lines (h : Ran s t) (hs : ∀ out, lineApart (outputOf s.lines out)) (out : Output) :
    lineApart (outputOf t.lines out) := by
  refine h.keeps (I := fun s => ∀ out, lineApart (outputOf s.lines out)) Move.lines (fun h => ?_)
    (fun _ _ _ _ h out => ?_) (fun _ _ h out => ?_) hs out
  · injection h with h
    subst h
    intro out
    cases out <;> exact .inl rfl
  · cases out
    exacts [h .fuelPump, h .prelube, h .crankValve, h .rackEnable, h .loadPermit]
  · cases out
    exacts [h .fuelPump, h .prelube, h .crankValve, h .rackEnable, h .loadPermit]

theorem linesSound.apart (h : linesSound s) (out : Output) : lineApart (outputOf s.lines out) := by
  obtain ⟨agree, differ⟩ := h out
  by_cases e : (outputOf s.lines out).command = sensedOn s out
  · exact .inl (agree e).1
  · unfold lineApart
    have := differ e
    tauto

/-- After every block has judged, each line is judged under its command and its sensed state. -/
theorem settle_linesSound (h : ∀ out, lineApart (outputOf (settle p s).lines out)) : linesSound (settle p s) := by
  intro out
  obtain ⟨v, hv⟩ : ∃ v, settle p s = settleLamps (settleOutputs p v) := ⟨_, rfl⟩
  rw [hv] at h ⊢
  have hline : outputOf (settleLamps (settleOutputs p v)).lines out
      = judgeLine (resolvedCommand v out) (sensedOn v out) (outputOf v.lines out) := by cases out <;> rfl
  have hsense : sensedOn (settleLamps (settleOutputs p v)) out = sensedOn v out := by
    unfold sensedOn sensed
    rw [hline, judgeLine_sense]
    rfl
  have hk := h out
  rw [hline] at hk
  rw [hsense, hline, judgeLine_command]
  exact judgeLine_sound _ _ hk

/-! ### What the judgements read -/

/-- The timer has run on, or stayed stopped. -/
def ranOn (a b : Timer) : Prop := ∃ us, b = a.map (· + us)

theorem ranOn.refl (a : Timer) : ranOn a a := ⟨0, by cases a <;> rfl⟩

theorem ranOn.reaches {a b : Timer} (h : ranOn a b) {n : Nat} (ha : ∃ us, a = some us ∧ n ≤ us) :
    ∃ us, b = some us ∧ n ≤ us := by
  obtain ⟨k, rfl⟩ := h
  obtain ⟨us, rfl, hn⟩ := ha
  exact ⟨us + k, rfl, by omega⟩

/-- A roster entry as the judgements read it. -/
def entryView (e : RosterEntry) : UnitNo × Option StatusContent × Bool := (e.unit, e.status, e.intent.isSome)

/-- Nothing that a judgement reads has changed, save that timers have run on. -/
structure Rests (s t : State) : Prop where
  applied : t.reader.applied = s.reader.applied := by rfl
  fresh : ∀ c, freshValue (channelOf t.meas c) = freshValue (channelOf s.meas c) := by exact fun _ => rfl
  tempClass : t.meas.tempClass = s.meas.tempClass := by rfl
  levels : ∀ line, (inputOf t.demand.inputs line).settled = (inputOf s.demand.inputs line).settled := by exact fun _ => rfl
  demand : t.demand.handleFault = s.demand.handleFault ∧ t.demand.source = s.demand.source
    ∧ t.demand.ownRecord = s.demand.ownRecord ∧ t.demand.remote = s.demand.remote
    ∧ t.demand.recent.length = s.demand.recent.length := by exact ⟨rfl, rfl, rfl, rfl, rfl⟩
  seq : t.seq.engine = s.seq.engine ∧ t.seq.rackOn = s.seq.rackOn ∧ t.seq.inBand = s.seq.inBand
    ∧ t.seq.profile = s.seq.profile ∧ t.seq.confirmTimer.isSome = s.seq.confirmTimer.isSome := by
      exact ⟨rfl, rfl, rfl, rfl, rfl⟩
  latches : t.prot.hotStop = s.prot.hotStop ∧ t.prot.tripLatch = s.prot.tripLatch ∧ t.prot.groundOff = s.prot.groundOff
    ∧ t.prot.available = s.prot.available := by exact ⟨rfl, rfl, rfl, rfl⟩
  protTimers : t.prot.hotTimer.isSome = s.prot.hotTimer.isSome ∧ t.prot.lubeTimer.isSome = s.prot.lubeTimer.isSome
    ∧ t.prot.holdTimer.isSome = s.prot.holdTimer.isSome := by exact ⟨rfl, rfl, rfl⟩
  rows : t.step.current = s.step.current ∧ t.step.target = s.step.target ∧ t.step.settled = s.step.settled
    ∧ t.step.loadRow = s.step.loadRow ∧ t.step.loadPermit = s.step.loadPermit
    ∧ t.step.lowIdleReached = s.step.lowIdleReached := by exact ⟨rfl, rfl, rfl, rfl, rfl, rfl⟩
  stepTimers : t.step.staggerHold.isSome = s.step.staggerHold.isSome
    ∧ t.step.lowIdleTimer.isSome = s.step.lowIdleTimer.isSome ∧ ranOn s.step.dwell t.step.dwell
    ∧ ranOn s.step.stagger t.step.stagger := by exact ⟨rfl, rfl, .refl _, .refl _⟩
  peers : t.roster.entries.map entryView = s.roster.entries.map entryView ∧ t.roster.full = s.roster.full := by
    exact ⟨rfl, rfl⟩
  makeUp : t.makeUp = s.makeUp := by rfl
  layover : t.layover.q = s.layover.q ∧ t.layover.eligible = s.layover.eligible ∧ t.layover.watch = s.layover.watch := by
    exact ⟨rfl, rfl, rfl⟩
  link : t.link.state = s.link.state := by rfl
  duties : t.lines.speedSet = s.lines.speedSet ∧ t.lines.loadRef = s.lines.loadRef ∧ t.lines.runLamp = s.lines.runLamp
    ∧ t.lines.layoverLamp = s.lines.layoverLamp ∧ t.lines.faultLamp = s.lines.faultLamp := by
      exact ⟨rfl, rfl, rfl, rfl, rfl⟩
  outputs : ∀ out, (outputOf t.lines out).command = (outputOf s.lines out).command
    ∧ (outputOf t.lines out).sense.settled = (outputOf s.lines out).sense.settled
    ∧ (outputOf t.lines out).present = (outputOf s.lines out).present
    ∧ (outputOf t.lines out).mismatch.isSome = (outputOf s.lines out).mismatch.isSome := by
      exact fun _ => ⟨rfl, rfl, rfl, rfl⟩

theorem Rests.refl (s : State) : Rests s s := {}

section
variable (h : Rests s t)
include h

theorem Rests.lineOn (p : Params) (line : InputLine) : lineOn p t line = lineOn p s line := by
  unfold Machine.lineOn
  rw [h.levels line]

theorem Rests.tableInForce (p : Params) : tableInForce p t = tableInForce p s := by
  unfold Machine.tableInForce
  rw [h.lineOn]

theorem Rests.isolated : isolated t = isolated s := by
  unfold Machine.isolated
  rw [h.applied]
  split
  · rfl
  · rw [h.lineOn]

theorem Rests.linkSilent : linkSilent t = linkSilent s := by
  unfold Machine.linkSilent
  rw [h.link]

theorem Rests.isRunning : isRunning t = isRunning s := by
  unfold Machine.isRunning
  rw [h.seq.1]

theorem Rests.demandConflict : demandConflict t = demandConflict s := by
  obtain ⟨-, -, -, -, hrecent⟩ := h.demand
  unfold Machine.demandConflict
  rw [hrecent]

theorem Rests.demandInForce : demandInForce t = demandInForce s := by
  obtain ⟨-, hsource, hown, hremote, -⟩ := h.demand
  unfold Machine.demandInForce
  rw [h.demandConflict, hsource, hown, hremote]

theorem Rests.profileOf (p : Params) : profileOf p t = profileOf p s := by
  obtain ⟨-, -, -, hprofile, -⟩ := h.seq
  unfold Machine.profileOf
  rw [hprofile]

theorem Rests.lineFault : lineFault t = lineFault s := by
  have k (out : Output) := (h.outputs out).2.2.1
  have k1 := k .fuelPump
  have k2 := k .prelube
  have k3 := k .crankValve
  have k4 := k .rackEnable
  have k5 := k .loadPermit
  simp only [outputOf] at k1 k2 k3 k4 k5
  unfold Machine.lineFault
  rw [k1, k2, k3, k4, k5]

theorem Rests.sensedOn (out : Output) : sensedOn t out = sensedOn s out := by
  obtain ⟨-, hsettled, -, -⟩ := h.outputs out
  unfold Machine.sensedOn sensed
  rw [h.applied, hsettled]

theorem Rests.resolvedCommand (out : Output) : resolvedCommand t out = resolvedCommand s out := by
  obtain ⟨hengine, hrack, -⟩ := h.seq
  obtain ⟨-, hlatch, hground, -⟩ := h.latches
  obtain ⟨-, -, -, -, hpermit, -⟩ := h.rows
  obtain ⟨-, -, hhold⟩ := h.protTimers
  unfold Machine.resolvedCommand protectionOff fuelHold
  rw [hlatch, hground, hhold]
  cases out <;> simp only [sequencerCommand, hengine, hrack, hpermit]

theorem Rests.outputsFollow (hs : outputsFollow s) : outputsFollow t := by
  intro p hp
  rw [h.applied] at hp
  obtain ⟨hcommand, hspeed, hload, hrun, hlayover, hfault⟩ := hs p hp
  obtain ⟨kspeed, kload, krun, klayover, kfault⟩ := h.duties
  obtain ⟨hengine, -⟩ := h.seq
  obtain ⟨hhandle, hsource, -⟩ := h.demand
  obtain ⟨hcurrent, -, -, hloadRow, -⟩ := h.rows
  refine ⟨fun out => ?_, ?_, ?_, ?_, ?_, ?_⟩
  · rw [(h.outputs out).1, h.resolvedCommand, hcommand]
  · rw [kspeed, hspeed]
    unfold speedSetOf
    rw [hengine, hcurrent, h.tableInForce]
  · rw [kload, hload, h.resolvedCommand]
    unfold loadRefOf
    rw [hloadRow, h.tableInForce]
  · rw [krun, hrun, h.isRunning]
  · rw [klayover, hlayover, hengine]
  · rw [kfault, hfault]
    unfold faultLampOf demandLost
    rw [hengine, hhandle, hsource, h.linkSilent, h.lineFault, h.demandConflict, h.peers.2]

theorem Rests.linesSound (hs : linesSound s) : linesSound t := by
  intro out
  obtain ⟨hcommand, -, hpresent, hmismatch⟩ := h.outputs out
  have hnone : (outputOf t.lines out).mismatch = none ↔ (outputOf s.lines out).mismatch = none := by
    rw [← Option.isNone_iff_eq_none, ← Option.isNone_iff_eq_none, ← Option.not_isSome, ← Option.not_isSome, hmismatch]
  rw [hcommand, h.sensedOn, hpresent, hnone]
  exact hs out

/-- A count or sum over the roster that reads an entry's view only stands. -/
theorem Rests.view {α : Type} {f : RosterEntry → α} (g : UnitNo × Option StatusContent × Bool → α)
    (hf : ∀ e, f e = g (entryView e)) : t.roster.entries.map f = s.roster.entries.map f := by
  have e : ∀ l : List RosterEntry, l.map f = (l.map entryView).map g := fun l => by
    rw [List.map_map]
    exact List.map_congr_left fun e _ => hf e
  rw [e, e, h.peers.1]

theorem Rests.runningPeers (p : Params) : runningPeers p t = runningPeers p s := by
  have hv := h.view (f := countsRunning p.unit) (fun v => match v.2.1 with
    | none => false
    | some c => c.engine == .running && !(v.2.2 && decide (v.1 < p.unit))) fun e => rfl
  have e : ∀ l : List RosterEntry, (l.filter (countsRunning p.unit)).length
      = (l.map (countsRunning p.unit)).count true := fun l => by
    rw [List.count_eq_countP, List.countP_map, ← List.countP_eq_length_filter]
    exact List.countP_congr fun x _ => by simp
  unfold Machine.runningPeers
  rw [e, e, hv]

theorem Rests.countedPeers : countedPeers t = countedPeers s := by
  have hv := h.view (f := fun e => e.status.map fun c => (e.unit, c)) (fun v => v.2.1.map fun c => (v.1, c)) fun e => rfl
  have e : ∀ l : List RosterEntry, l.filterMap (fun e => e.status.map fun c => (e.unit, c))
      = (l.map fun e => e.status.map fun c => (e.unit, c)).filterMap id := fun l => by
    rw [List.filterMap_map]
    rfl
  unfold Machine.countedPeers
  rw [e, e, hv]

theorem Rests.makeUpRun (p : Params) : makeUpRun p t = makeUpRun p s := by
  obtain ⟨-, -, -, havailable⟩ := h.latches
  unfold Machine.makeUpRun ownFigures
  rw [h.countedPeers, h.demandInForce, h.tableInForce, h.isRunning, h.isolated, h.linkSilent, havailable]

theorem Rests.heldBack (hs : heldBack p s) : heldBack p t := by
  obtain ⟨r, goal, hcur, htarget, hlt, hsettled, hdwell, hstagger, e, he, c, hc, ahead⟩ := hs
  obtain ⟨kcur, ktarget, ksettled, -⟩ := h.rows
  obtain ⟨-, -, kdwell, kstagger⟩ := h.stepTimers
  refine ⟨r, goal, kcur.trans hcur, ktarget.trans htarget, hlt, ksettled.trans hsettled, ?_, ?_, ?_⟩
  · rw [h.tableInForce, h.tempClass]
    exact kdwell.reaches hdwell
  · rcases hstagger with hn | ha
    · obtain ⟨k, hk⟩ := kstagger
      exact .inl (by rw [hk, hn]; rfl)
    · exact .inr (kstagger.reaches ha)
  · have hm : entryView e ∈ t.roster.entries.map entryView := by
      rw [h.peers.1]
      exact List.mem_map_of_mem he
    obtain ⟨d, hd, hv⟩ := List.mem_map.mp hm
    injection hv with hunit hv
    injection hv with hstatus _
    refine ⟨d, hd, c, hstatus.trans hc, ?_⟩
    rw [hunit]
    exact ahead

theorem Rests.levelStands {level : Option Level} (hs : LevelStands p s level) : LevelStands p t level := by
  have hcool := h.fresh .cool
  have hbatt := h.fresh .batt
  have hresv := h.fresh .resv
  simp only [channelOf] at hcool hbatt hresv
  unfold LevelStands at hs ⊢
  rw [hcool, hbatt, hresv, h.demandInForce, h.runningPeers]
  exact hs

theorem Rests.standing (hs : Standing p s) : Standing p t := by
  have hlube := h.fresh .lube
  have hcool := h.fresh .cool
  have hbatt := h.fresh .batt
  have hresv := h.fresh .resv
  simp only [channelOf] at hlube hcool hbatt hresv
  obtain ⟨hengine, hrack, hband, hprofile, hconfirm⟩ := h.seq
  obtain ⟨hhot, hlatch, hground, havailable⟩ := h.latches
  obtain ⟨khot, klube, khold⟩ := h.protTimers
  obtain ⟨hcurrent, htarget, hsettled, hloadRow, hpermit, hreached⟩ := h.rows
  obtain ⟨kstagger, klow, -, -⟩ := h.stepTimers
  obtain ⟨hq, heligible, hwatch⟩ := h.layover
  constructor
  case lubeTrip => rw [klube, hengine, hlube, hcurrent, h.tableInForce]; exact hs.lubeTrip
  case hotStop => rw [khot, hengine, hhot, hcool]; exact hs.hotStop
  case confirm => rw [hconfirm, hengine, hband, hlube, h.profileOf]; exact hs.confirm
  case lowIdle => rw [klow, hengine, h.demandInForce, h.tempClass]; exact hs.lowIdle
  case lowIdleReached => rw [hreached, klow]; exact hs.lowIdleReached
  case makeUp => rw [h.makeUp, h.makeUpRun]; exact hs.makeUp
  case noTarget => rw [hengine, htarget]; exact hs.noTarget
  case target =>
    rw [hengine, htarget, h.demandInForce, h.makeUp, havailable, h.isolated, h.linkSilent, hreached]
    exact hs.target
  case targetInLimits => rw [htarget, havailable, h.demandInForce]; exact hs.targetInLimits
  case staggerHold => rw [kstagger]; exact fun hh => h.heldBack (hs.staggerHold hh)
  case loadPermit =>
    rw [hpermit, hengine, h.isolated, h.demandInForce, h.lineOn, hloadRow]
    exact hs.loadPermit
  case quota => rw [h.linkSilent, hq, h.runningPeers]; exact hs.quota
  case eligible =>
    rw [heligible, hengine, hcurrent, h.demandInForce, hcool, hbatt, hresv, h.demandConflict, h.linkSilent]
    exact hs.eligible
  case watch => rw [hwatch]; exact fun level hl => h.levelStands (hs.watch level hl)

end

/-! ### Every command judges, or leaves what is judged -/

/-- What a command leaves: no applied set and unchanged lines but for the reset, the blocks' judgement of a state, or
what they read as it was. -/
inductive Judges (s : State) : State → Prop where
  | reset {t : State} (h : t.reader.applied = none) (hl : linesSound t) : Judges s t
  | handed {p : Params} {u : State} (h : u.reader.applied = some p) : Judges s (settle p u)
  | settled {p : Params} {u : State} (h : s.reader.applied = some p) : Judges s (settle p u)
  | unread {t : State} (h : t.reader.applied = none) (hl : linesSound s → linesSound t) : Judges s t
  | rests {t : State} (h : Rests s t) : Judges s t

theorem Judges.same (s : State) : Judges s s := .rests (.refl s)

theorem Judges.ite {c : Prop} [Decidable c] (h : c → Judges s t) (k : ¬c → Judges s u) :
    Judges s (if c then t else u) := by
  split
  · exact h ‹_›
  · exact k ‹_›

theorem Judges.of_params {f : Params → State} (h : ∀ p, s.reader.applied = some p → Judges s (f p)) :
    Judges s (withParams s f) := by
  unfold withParams
  split
  · exact .same s
  · exact h _ ‹_›

theorem offerSpeed_judges (hp : s.reader.applied = some p) (u : State) : Judges s (offerSpeed p u) := by
  unfold offerSpeed
  exact .ite (fun _ => .ite (fun _ => .settled hp) fun _ => .settled hp) fun _ => .settled hp

theorem receiveContent_judges (src : UnitNo) (c : Content) (s : State) : Judges s (receiveContent src c s) :=
  .of_params fun _ hp => .ite (fun _ => .same s) fun _ => .ite (fun _ => .rests {}) fun _ =>
    .ite (fun _ => .settled hp) fun _ => .settled hp

theorem handover_judges (p : Params) (clamped : Bool) (u : State) : Judges s (handover p clamped u) :=
  .handed (p := p) (offerInputs_moves p _).reader.applied

/-- Before handover a line agrees with its sense return where it is off, whatever the debounces show. -/
theorem linesSound_unread (hs : s.reader.applied = none) (ht : t.reader.applied = none)
    (hl : ∀ out, (outputOf t.lines out).command = (outputOf s.lines out).command
      ∧ (outputOf t.lines out).mismatch = (outputOf s.lines out).mismatch
      ∧ (outputOf t.lines out).present = (outputOf s.lines out).present) (h : linesSound s) : linesSound t := by
  intro out
  have hsense : sensedOn t out = sensedOn s out := by
    unfold sensedOn sensed
    rw [hs, ht]
  obtain ⟨hcommand, hmismatch, hpresent⟩ := hl out
  rw [hcommand, hmismatch, hpresent, hsense]
  exact h out

theorem failRead_judges (hs : s.reader.applied = none) (hu : u.reader.applied = none) (hl : u.lines = s.lines)
    (reason : InhibitReason) (l : Config.LinesParams) : Judges s (failRead reason l u) := by
  refine .unread hu (linesSound_unread hs hu fun out => ?_)
  cases out <;> simp only [failRead, outputOf, hl, and_self]

theorem runDebounce_settled (us : Nat) (d : Debounce) : (runDebounce us d).settled = d.settled := rfl

theorem elapse_rests (us : Nat) (s : State) : Rests s (elapse us s) := by
  have hlevels (line : InputLine) :
      (inputOf (runInputs us s.demand.inputs) line).settled = (inputOf s.demand.inputs line).settled := by
    cases line <;> rfl
  have hout (out : Output) : outputOf (runDebounces us s).lines out = runOutput us (outputOf s.lines out) := by
    cases out <;> rfl
  have hlines (out : Output) : (runOutput us (outputOf s.lines out)).mismatch.isSome
      = (outputOf s.lines out).mismatch.isSome := Option.isSome_map
  unfold elapse
  dsimp only
  split
  · exact { levels := hlevels, outputs := fun out => by rw [hout]; exact ⟨rfl, rfl, rfl, hlines out⟩ }
  · rename_i p _
    exact {
      fresh := fun c => by cases c <;> rfl
      levels := hlevels
      demand := ⟨rfl, rfl, rfl, rfl, List.length_map _⟩
      seq := ⟨rfl, rfl, rfl, rfl, Option.isSome_map⟩
      protTimers := ⟨Option.isSome_map, Option.isSome_map, Option.isSome_map⟩
      stepTimers := ⟨Option.isSome_map, Option.isSome_map, ⟨us, rfl⟩, ⟨us, rfl⟩⟩
      peers := by
        refine ⟨?_, rfl⟩
        show (s.roster.entries.map (runEntry p us)).map entryView = _
        rw [List.map_map]
        exact List.map_congr_left fun e _ => by simp [entryView, runEntry]
      outputs := fun out => by
        rw [show (outputOf (runBlocks p us (runDebounces us s)).lines out) = runOutput us (outputOf s.lines out)
          from hout out]
        exact ⟨rfl, rfl, rfl, hlines out⟩ }

theorem rawChange_settled (level : Bool) (d : Debounce) : (rawChange level d).settled = d.settled := by
  unfold rawChange
  split <;> rfl

theorem inputRawChange_rests (line : InputLine) (level : Bool) (s : State) :
    Rests s (updateInput line (rawChange level) s) where
  levels m := by
    by_cases h : m = line
    · rw [h, updateInput_inputOf, rawChange_settled]
    · exact congrArg Debounce.settled (inputOf_setInput_other _ _ h)

theorem senseRawChange_rests (out : Output) (level : Bool) (s : State) :
    Rests s (updateOutput out (fun l => { l with sense := rawChange level l.sense }) s) where
  duties := by cases out <;> exact ⟨rfl, rfl, rfl, rfl, rfl⟩
  outputs o := by
    by_cases h : o = out
    · rw [h, outputOf_updateOutput_self]
      exact ⟨rfl, rawChange_settled level _, rfl, rfl⟩
    · rw [outputOf_updateOutput_other (s := s) _ h]
      exact ⟨rfl, rfl, rfl, rfl⟩

theorem lineIdle_judges (p : Params) (s : State) : Judges s (match s.link.state with
    | .down => s
    | .silent => { s with link := { s.link with receive := .idle } }
    | .up => if sending s then s else beginSending p { s with link := { s.link with receive := .idle } }) := by
  split
  · exact .same s
  · exact .rests {}
  · refine .ite (fun _ => .same s) fun _ => ?_
    unfold beginSending
    split
    · exact .rests {}
    · split
      · exact .rests {}
      · exact .rests {}

theorem exec_judges (c : Instr) (hr : readerSound s) (h : exec c s = .next t) : Judges s t := by
  have next {a b : State} (e : (Host.Outcome.next a : Host.Outcome State Fault Refusal) = .next b) : a = b := by
    injection e
  have reading (e : s.reader.state = .reading) : s.reader.applied = none := by
    rw [← Option.not_isSome_iff_eq_none, hr.1, e]
    simp
  cases c with
  | reset =>
    obtain rfl := next h
    refine .reset rfl fun out => ?_
    cases out <;> exact ⟨fun _ => ⟨rfl, rfl⟩, fun n => absurd rfl n⟩
  | memoryAnswer b =>
    obtain rfl := next h
    refine .ite (fun e => .ite (fun _ => ?_) fun _ => .rests {}) fun _ => .same s
    unfold endRead
    split
    · exact failRead_judges (reading e) (u := takeByte b s) (reading e) rfl _ _
    · exact failRead_judges (reading e) (u := takeByte b s) (reading e) rfl _ _
    · exact handover_judges _ _ _
  | memoryRequestTimeout =>
    obtain rfl := next h
    exact .ite (fun e => failRead_judges (reading e.1) (reading e.1) rfl _ _) fun _ => .same s
  | pickupEdge =>
    obtain rfl := next h
    refine .of_params fun p hp => ?_
    split
    · exact .rests { fresh := fun c => by cases c <;> rfl }
    · exact .ite (fun _ => offerSpeed_judges hp _) fun _ => .rests { fresh := fun c => by cases c <;> rfl }
  | stallTimeout | gateCounterMaximum =>
    obtain rfl := next h
    exact .of_params fun p hp => .ite (fun _ => offerSpeed_judges hp _) fun _ => .same s
  | converterSlotEnd =>
    obtain rfl := next h
    refine .of_params fun p hp => ?_
    split
    · exact .same s
    · exact .ite (fun _ => .rests { fresh := fun c => by cases c <;> rfl }) fun _ => .same s
  | converterReply named raw valid =>
    obtain rfl := next h
    refine .of_params fun p hp => ?_
    split
    · exact .same s
    · exact .ite (fun _ => .same s) fun _ => .ite (fun _ => .settled hp) fun _ =>
        .rests { fresh := fun c => by cases c <;> rfl }
  | inputRawChange line level =>
    obtain rfl := next h
    exact .rests (inputRawChange_rests line level s)
  | debounceTimeout line =>
    obtain rfl := next h
    refine .ite (fun _ => ?_) fun _ => .same s
    split
    · rename_i hp
      exact .unread hp (linesSound_unread hp hp fun _ => ⟨rfl, rfl, rfl⟩)
    · rename_i p hp
      exact .ite (fun _ => .settled hp) fun _ => .settled hp
  | demandTimeout =>
    obtain rfl := next h
    refine .of_params fun p hp => .ite (fun _ => ?_) fun _ => .same s
    split
    · exact .settled hp
    · exact .settled hp
    · exact .settled hp
    · exact .same s
    · exact .same s
  | senseRawChange out level =>
    obtain rfl := next h
    exact .rests (senseRawChange_rests out level s)
  | senseDebounceTimeout out =>
    obtain rfl := next h
    refine .ite (fun _ => ?_) fun _ => .same s
    split
    · rename_i hp
      refine .unread hp (linesSound_unread hp hp fun o => ?_)
      by_cases e : o = out
      · rw [e, outputOf_updateOutput_self]
        exact ⟨rfl, rfl, rfl⟩
      · rw [outputOf_updateOutput_other (s := s) _ e]
        exact ⟨rfl, rfl, rfl⟩
    · rename_i p hp
      exact .settled hp
  | intentHoldExpiry =>
    obtain rfl := next h
    exact .of_params fun p hp => .ite (fun _ => .ite (fun _ => .settled hp) fun _ => .settled hp) fun _ => .same s
  | statusPeriodExpiry =>
    obtain rfl := next h
    refine .of_params fun p hp => .ite (fun _ => ?_) fun _ => .same s
    refine .ite (fun _ => .rests ?_) fun _ => .rests ?_
    · unfold requestMade
      rw [requestFrame_eq, requestFrame_eq]
      exact {}
    · rw [requestFrame_eq]
      exact {}
  | lineIdle =>
    obtain rfl := next h
    exact .of_params fun p hp => lineIdle_judges p s
  | arbitrationLost | transmitError =>
    obtain rfl := next h
    refine .of_params fun p hp => ?_
    split
    · exact .same s
    · exact .ite (fun _ => .rests {}) fun _ => .same s
  | turningWatchEnd | overlapWindowExpiry =>
    obtain rfl := next h
    exact .of_params fun p hp => .ite (fun _ => .rests {}) fun _ => .same s
  | fuelCut src => obtain rfl := next h; exact receiveContent_judges _ _ s
  | crankOn src level serial => obtain rfl := next h; exact receiveContent_judges _ _ s
  | crankOff src result level serial count => obtain rfl := next h; exact receiveContent_judges _ _ s
  | claim src level serial => obtain rfl := next h; exact receiveContent_judges _ _ s
  | withdraw src serial => obtain rfl := next h; exact receiveContent_judges _ _ s
  | demand src row reverser brake serial => obtain rfl := next h; exact receiveContent_judges _ _ s
  | step src row => obtain rfl := next h; exact receiveContent_judges _ _ s
  | layoverIntent src serial => obtain rfl := next h; exact receiveContent_judges _ _ s
  | layoverCancel src serial => obtain rfl := next h; exact receiveContent_judges _ _ s
  | status src c => obtain rfl := next h; exact receiveContent_judges _ _ s
  | query src dest kind part => obtain rfl := next h; exact receiveContent_judges _ _ s
  | reply src payload => obtain rfl := next h; exact receiveContent_judges _ _ s
  | discardedFrame bits =>
    obtain rfl := next h
    split
    · exact receiveContent_judges _ _ s
    · exact .of_params fun p hp => .ite (fun _ => .same s) fun _ => .rests {}
  | _ =>
    obtain rfl := next h
    exact .of_params fun p hp => .ite (fun _ => .settled hp) fun _ => .same s

/-! ### The outputs, the judgements and the lines after every step -/

/-- The applied set changes at handover and reset only. -/
theorem Ran.applied (h : Ran s t) (hs : Machine.readerSound s) (hp : s.reader.applied = some p) {q : Params}
    (hq : t.reader.applied = some q) : q = p := by
  have applied : s.reader.state = .applied := hs.1.mp (by simp [hp])
  cases h with
  | reset e =>
    injection e with e
    rw [← e] at hq
    cases hq
  | early e => simp [hp] at e
  | failed e | handed e => simp [applied] at e
  | moved k e hm =>
    rw [hm.reader.applied, hp] at hq
    exact (Option.some.inj hq).symm

/-- A station with an applied set stands judged under that set, or rests. -/
theorem Judges.under (h : Judges s t) (hr : Ran s t) (hs : readerSound s) {q : Params}
    (hq : t.reader.applied = some q) : Rests s t ∨ ∃ u, t = settle q u := by
  cases h with
  | reset h | unread h => simp [h] at hq
  | @handed p u h =>
    rw [(settle_kept p u).reader, h] at hq
    cases hq
    exact .inr ⟨u, rfl⟩
  | @settled p u h => exact .inr ⟨u, by rw [hr.applied hs h hq]⟩
  | rests h => exact .inl h

/-- Every step judges, or leaves what is judged, its queue of commands aside. -/
theorem step_judges (hr : readerSound s) (h : step s = .next t) :
    ∃ rest, Ran (s.withPending rest) t ∧ Judges (s.withPending rest) t := by
  unfold step at h
  split at h
  · rename_i c rest _
    exact ⟨rest, exec_ran c h, exec_judges c hr h⟩
  · injection h with h
    subst h
    exact ⟨s.pending, .of_frame (elapse_framed 1 s), .rests (elapse_rests 1 s)⟩

theorem Judges.linesSound (h : Judges s t) (hr : Ran s t) (hl : linesSound s) : linesSound t := by
  have apart := hr.lines hl.apart
  cases h with
  | reset _ k => exact k
  | unread _ k => exact k hl
  | handed _ => exact settle_linesSound apart
  | settled _ => exact settle_linesSound apart
  | rests k => exact k.linesSound hl

/-- Settles O57: after a step the blocks have just judged, so outputs and conditions stand and each line follows its
comparison, or nothing that a judgement reads has changed. -/
theorem outputsFollowEveryStep : Obligations.OutputsFollowEveryStep := by
  intro s t hs h
  obtain ⟨rest, ran, judges⟩ := step_judges hs h
  refine ⟨fun follow q hq => ?_, fun standing q hq => ?_, judges.linesSound ran⟩
  · rcases judges.under ran hs hq with rests | ⟨u, rfl⟩
    · exact rests.outputsFollow follow q hq
    · exact settle_outputs q u
  · rcases judges.under ran hs hq with rests | ⟨u, rfl⟩
    · have same : Rests s (s.withPending rest) := {}
      exact rests.standing (same.standing (standing q (rests.applied ▸ hq)))
    · exact settle_standing q u

end Sys2Proof.Machine

/-! The machine's own commands: a step, the passing of a microsecond, reset, and the end of the configuration read. -/

namespace Sys2Proof.Machine

variable {s t u : State} {p : Params}

/-! ### A microsecond -/

/-- A timer that stands still at its limit shows one microsecond more, until then. -/
theorem runTo_one (ms : Nat) : runTo ms 1 = tickTo ms := by
  funext us
  unfold runTo tickTo
  split
  · rfl
  · omega

theorem runTimerTo_one (ms : Nat) (t : Timer) : runTimerTo ms 1 t = t.map (tickTo ms) := by
  rw [runTimerTo, runTo_one]

theorem runDebounce_one (d : Debounce) : runDebounce 1 d = { d with stable := tickTo 20 d.stable } := by
  rw [runDebounce, runTo_one]

theorem inputOf_runInputs (us : Nat) (i : Inputs) (line : InputLine) :
    inputOf (runInputs us i) line = runDebounce us (inputOf i line) := by cases line <;> rfl

theorem outputOf_runDebounces (us : Nat) (s : State) (out : Output) :
    outputOf (runDebounces us s).lines out = runOutput us (outputOf s.lines out) := by cases out <;> rfl

theorem lineOn_runDebounces (us : Nat) (p : Params) (s : State) (line : InputLine) :
    lineOn p (runDebounces us s) line = lineOn p s line := by
  unfold lineOn
  rw [show (runDebounces us s).demand.inputs = runInputs us s.demand.inputs from rfl, inputOf_runInputs]
  rfl

/-- Before handover and after it the debounces, the mismatch timers and the read request's timer run. -/
theorem elapse_lines (us : Nat) (s : State) :
    (elapse us s).reader = { s.reader with request := runTimer us s.reader.request }
      ∧ (elapse us s).demand.inputs = runInputs us s.demand.inputs
      ∧ (elapse us s).lines = (runDebounces us s).lines
      ∧ (elapse us s).makeUp = s.makeUp ∧ (elapse us s).choices = s.choices ∧ (elapse us s).pending = s.pending := by
  unfold elapse
  dsimp only
  split <;> exact ⟨rfl, rfl, rfl, rfl, rfl, rfl⟩

theorem elapse_applied (us : Nat) (h : s.reader.applied = some p) : elapse us s = runBlocks p us (runDebounces us s) := by
  simp [elapse, h]

theorem elapse_unread (us : Nat) (h : s.reader.applied = none) : elapse us s = runDebounces us s := by
  simp [elapse, h]

theorem runRecent_one (p : Params) (cab : Bool) (e : RecentSource) : runRecent p cab 1 e = { e with
    age := if e.who = .own ∧ cab = true then 0 else tickTo p.link.demandTimeout e.age } := by
  unfold runRecent
  rw [runTo_one]
  split <;> rfl

theorem runClaim_one (c : Claim) : runClaim 1 c = { c with
    state := match c.who, c.state with
      | .unit _, .cranking us => .cranking (us + 1)
      | _, other => other } := by
  obtain ⟨who, level, serial, state⟩ := c
  cases who <;> cases state <;> rfl

theorem runEntry_one (p : Params) (e : RosterEntry) : runEntry p 1 e = { e with
    age := tickTo (silenceMs p) e.age
    intent := e.intent.map fun i => { i with age := i.age + 1 }
    lastStep := e.lastStep.map (· + 1) } := by
  rw [runEntry, runTo_one]

/-- Settles O1: the command in front is run with the queue's rest, and on an empty queue each block's timers run on by
one microsecond, up to the limits of their rules. -/
theorem stepRunsFrontCommand : Obligations.StepRunsFrontCommand := by
  refine ⟨fun c rest s h => ?_, fun s h => ⟨elapse 1 s, ?_, ?_⟩⟩
  · unfold step
    rw [h]
    rfl
  · unfold step
    rw [h]
  obtain ⟨hreader, hinputs, hlines, hmakeUp, hchoices, hpending⟩ := elapse_lines 1 s
  refine ⟨hreader, fun line => ?_, fun out => ?_, ?_, hmakeUp, hchoices, hpending.trans h, fun hn => ?_, fun p hp => ?_⟩
  · rw [hinputs, inputOf_runInputs, runDebounce_one]
  · rw [hlines, outputOf_runDebounces, runOutput, runDebounce_one]
    rfl
  · rw [hlines]
    rfl
  · rw [elapse_unread 1 hn]
    rfl
  · rw [elapse_applied 1 hp]
    refine ⟨?_, ?_, rfl, rfl, rfl, ?_, ?_, ?_, rfl⟩
    · show runMeasurement p 1 s.meas = _
      rw [runMeasurement, runGate, runTimerTo_one]
      rfl
    · show runDemand p (lineOn p (runDebounces 1 s) .cabActive) 1 (runDebounces 1 s).demand = _
      rw [runDemand, runTimerTo_one, runTimerTo_one, lineOn_runDebounces, funext (runRecent_one p _)]
      rfl
    · show ({ s.roster with entries := s.roster.entries.map (runEntry p 1) } : Roster) = _
      rw [funext (runEntry_one p)]
    · show runArbiter p 1 s.arb = _
      rw [runArbiter, runTimerTo_one, runTimerTo_one, funext runClaim_one]
      rfl
    · show runLayover 1 s.layover = _
      unfold runLayover runIdle
      cases s.layover.idle <;> rfl

/-! ### Reset -/

/-- Settles O2: reset replaces every block by its reset value, with the raw levels, the queue and the choices as they
stood. -/
theorem resetRestoresEveryBlock : Obligations.ResetRestoresEveryBlock := by
  intro s
  refine ⟨_, rfl, rfl, rfl, rfl, rfl, rfl, rfl, rfl, rfl, rfl, rfl, rfl, rfl, fun out => ?_, fun line => ?_,
    rfl, rfl, rfl, rfl, rfl, rfl, rfl, rfl, rfl, rfl, rfl⟩
  · cases out <;> exact ⟨rfl, rfl, rfl⟩
  · cases line <;> rfl

/-- Settles O60: at reset every list is empty, nothing is applied and every line agrees with its sense return. -/
theorem invariantsHoldAtReset : Obligations.InvariantsHoldAtReset := by
  have hlines : linesSound State.reset := by
    intro out
    cases out <;> exact ⟨fun _ => ⟨rfl, rfl⟩, fun h => absurd rfl h⟩
  refine ⟨?_, fun p h => (by cases h), ?_, ?_, ?_, ?_, ?_, ?_, ?_, hlines, fun p h => (by cases h)⟩
  · simp [readerSound, State.reset, readerReset, linkReset, sequencerReset]
  · simp [rosterSound, State.reset, arbiterReset, readerReset]
  · simp [queueSound, State.reset, linkReset]
  · simp [framesSound, State.reset, linkReset]
  · simp [ownClaimSound, State.reset, arbiterReset, sequencerReset, claimOf]
  · simp [arbiterSound, State.reset, arbiterReset]
  · simp [attemptSound, State.reset, sequencerReset]
  · simp [layoverSound, State.reset, layoverReset]

/-! ### The configuration read -/

/-- R164: an image whose length, version, CRC or record walk fails is a bad image. -/
theorem checkImage_bad {image : List Byte} {len : Nat} (hlen : imageLength image = some len)
    (h : len < 5 ∨ 1024 < len ∨ field1 image 2 ≠ 2
      ∨ (crcOfBits (bitsOfBytes (image.take (len - 2)))).toNat ≠ field2 image (len - 2)
      ∨ walkRecords ((image.take (len - 2)).drop 3).length ((image.take (len - 2)).drop 3) = none) :
    checkImage image = .badImage := by
  unfold checkImage
  rw [hlen]
  dsimp only
  split_ifs with hheader hcrc
  · rfl
  · rfl
  · have hwalk : walkRecords ((image.take (len - 2)).drop 3).length ((image.take (len - 2)).drop 3) = none := by tauto
    unfold checkRecords
    rw [hwalk]

theorem memoryAnswer_reading (b : Byte) (h : s.reader.state = .reading) : exec (.memoryAnswer b) s
    = .next (if imageComplete (s.reader.image ++ [b]) then endRead (takeByte b s) else takeByte b s) := by
  show Host.Outcome.next (if s.reader.state = .reading then _ else s) = _
  rw [if_pos h]
  rfl

theorem endRead_bad (h : checkImage s.reader.image = .badImage) : endRead s = failRead .image linesDefault s := by
  unfold endRead
  rw [h]

theorem endRead_badUnit {l : Config.LinesParams} (h : checkImage s.reader.image = .badUnit l) :
    endRead s = failRead .unit l s := by
  unfold endRead
  rw [h]

theorem endRead_good {clamped : Bool} (h : checkImage s.reader.image = .good p clamped) :
    endRead s = handover p clamped s := by
  unfold endRead
  rw [h]

/-- Settles O3: a byte read joins the image, and the complete image ends the read by the verdict of its checks. -/
theorem imageReadJoinsOrFails : Obligations.ImageReadJoinsOrFails := by
  intro s
  refine ⟨fun h => ⟨?_, fun b => ?_⟩, fun h hdue => ?_, fun b h hc => ?_, fun b len h hc hlen hbad => ?_,
    fun b l h hc hbad => ?_⟩
  · show Host.Outcome.next (if _ ∧ _ then _ else s) = _
    rw [if_neg (fun k => h k.1)]
  · show Host.Outcome.next (if _ then _ else s) = _
    rw [if_neg h]
  · show Host.Outcome.next (if _ ∧ _ then _ else s) = _
    rw [if_pos ⟨h, hdue⟩]
    rfl
  · rw [memoryAnswer_reading b h, hc]
    rfl
  · rw [memoryAnswer_reading b h, if_pos hc, endRead_bad (s := takeByte b s) (checkImage_bad hlen hbad)]
    rfl
  · rw [memoryAnswer_reading b h, if_pos hc, endRead_badUnit (s := takeByte b s) hbad]
    rfl

end Sys2Proof.Machine

/-! The applied set: the ranges and the cross-field clamps an image passes. -/

namespace Sys2Proof.Machine

/-! ### Ranges -/

/-- A record's parameters have a property that the default has and every value read and clamped has. -/
theorem recordParams_have {α : Type} [DecidableEq α] {P : α → Prop} {dflt : α} {read : List Byte → α × Bool} {clamp : α → α}
    (fields : Option (List Byte)) (hd : P dflt) (hc : ∀ f, P (clamp (read f).1)) :
    P (recordParams fields dflt read clamp).1 := by
  cases fields with
  | none => exact hd
  | some f => exact hc f

theorem clampNat_range {lo hi : Nat} (h : lo ≤ hi) (n : Nat) : lo ≤ clampNat lo hi n ∧ clampNat lo hi n ≤ hi := by
  unfold clampNat
  omega

/-- The ranges of the single fields that the cross-field clamps build on (R165, R166). -/
structure InRange (p : Params) : Prop where
  period : p.link.statusPeriod ≤ 500
  gate : 1 ≤ p.sense.gate
  teeth : 30 ≤ p.sense.teeth ∧ p.sense.teeth ≤ 250
  stopped : 5 ≤ p.sense.stoppedSpeed ∧ p.sense.stoppedSpeed ≤ 100
  notch : p.notch.rows.length = 10 ∧ ∀ r ∈ p.notch.rows, r.power ≤ 1000
  notchAlt : p.notchAlt.rows.length = 10 ∧ ∀ r ∈ p.notchAlt.rows, r.power ≤ 1000
  start : 200 ≤ p.crank.startPressure
  attempts : 1 ≤ p.crank.maxAttempts ∧ p.crank.maxAttempts ≤ 5
  overspeed : 400 ≤ p.protect.overspeed

theorem table_range (fields : Option (List Byte)) :
    let t := (recordParams fields notchDefault (fun f => (readTable f, false)) clampTable).1
    t.rows.length = 10 ∧ ∀ r ∈ t.rows, r.power ≤ 1000 := by
  refine recordParams_have (P := fun t : Config.NotchTable => t.rows.length = 10 ∧ ∀ r ∈ t.rows, r.power ≤ 1000) fields ?_ fun f => ?_
  · decide
  · refine ⟨rfl, fun r hr => ?_⟩
    obtain ⟨x, -, rfl⟩ := List.mem_map.mp hr
    exact (clampNat_range (by omega) x.power).2

/-- Every record read gives fields in their ranges. -/
theorem paramsOf_inRange (t : TakenRecords) (unit : UnitNo) :
    ∃ p : Params, InRange p ∧ p.unit = unit ∧ (paramsOf t unit).1 = crossClamp p := by
  refine ⟨_, ?_, ?_, rfl⟩
  · constructor
    case period => exact recordParams_have (P := fun r : Config.LinkParams => r.statusPeriod ≤ 500) _ (by decide) fun f => (clampNat_range (by omega) _).2
    case gate => exact recordParams_have (P := fun r : Config.SenseParams => 1 ≤ r.gate) _ (by decide) fun f => (clampNat_range (by omega) _).1
    case teeth =>
      exact recordParams_have (P := fun r : Config.SenseParams => 30 ≤ r.teeth ∧ r.teeth ≤ 250) _ (by decide) fun f => clampNat_range (by omega) _
    case stopped =>
      exact recordParams_have (P := fun r : Config.SenseParams => 5 ≤ r.stoppedSpeed ∧ r.stoppedSpeed ≤ 100) _ (by decide) fun f =>
        clampNat_range (by omega) _
    case notch => exact table_range _
    case notchAlt => exact table_range _
    case start =>
      exact recordParams_have (P := fun r : Config.CrankParams => 200 ≤ r.startPressure) _ (by decide) fun f => (clampNat_range (by omega) _).1
    case attempts =>
      exact recordParams_have (P := fun r : Config.CrankParams => 1 ≤ r.maxAttempts ∧ r.maxAttempts ≤ 5) _ (by decide) fun f =>
        clampNat_range (by omega) _
    case overspeed =>
      exact recordParams_have (P := fun r : Config.ProtectParams => 400 ≤ r.overspeed) _ (by decide) fun f => (clampNat_range (by omega) _).1
  · rfl

/-! ### Cross-field clamps -/

/-- R166, clamp 5: with fuel to reach it, the exponent gives three status periods. -/
theorem raiseExp_reaches (period : Nat) : ∀ fuel s, 3 * period ≤ 125 * 2 ^ (s + fuel) →
    3 * period ≤ 125 * 2 ^ raiseExp period fuel s
  | 0, s, h => h
  | fuel + 1, s, h => by
    unfold raiseExp
    split
    · exact raiseExp_reaches period fuel (s + 1) (by rwa [Nat.add_assoc, Nat.add_comm 1])
    · omega

theorem crossScale_sound {lo hi : Int} (h : lo < hi) (r : Config.Scale) : scaleSound (crossScale lo hi r) := by
  unfold scaleSound crossScale
  split <;> assumption

theorem crossProfile_sound (r : Config.StartProfile) : profileSound (crossProfile r) :=
  ⟨Nat.le_max_right .., Nat.le_max_right ..⟩

/-- A notch row not below a setpoint and a power, and within the full-scale speed and 1000. -/
def rowWithin (setpoint power fullScale : Nat) (r : Config.NotchRow) : Prop :=
  setpoint ≤ r.setpoint ∧ power ≤ r.power ∧ r.setpoint ≤ fullScale ∧ r.power ≤ 1000

def rising (a b : Config.NotchRow) : Prop := a.setpoint ≤ b.setpoint ∧ a.power ≤ b.power

/-- R166, clamp 4: rows raised to the row before rise, and stay within the limits they were within. -/
theorem raiseRows_rising {fullScale : Nat} : ∀ (l : List Config.NotchRow) (setpoint power : Nat), setpoint ≤ fullScale →
    power ≤ 1000 → (∀ r ∈ l, rowWithin 0 0 fullScale r) →
    (∀ r ∈ raiseRows setpoint power l, rowWithin setpoint power fullScale r) ∧ (raiseRows setpoint power l).Pairwise rising
  | [], _, _, _, _, _ => ⟨by simp [raiseRows], .nil⟩
  | x :: l, setpoint, power, hs, hp, hl => by
    obtain ⟨-, -, hxs, hxp⟩ := hl x (by simp)
    obtain ⟨hbound, hrise⟩ := raiseRows_rising (fullScale := fullScale) l (max x.setpoint setpoint) (max x.power power)
      (by omega) (by omega) fun r hr => hl r (by simp [hr])
    refine ⟨fun r hr => ?_, List.pairwise_cons.mpr ⟨fun r hr => ?_, hrise⟩⟩
    · rcases List.mem_cons.mp hr with rfl | hr
      · exact ⟨Nat.le_max_right .., Nat.le_max_right .., by show max _ _ ≤ _; omega, by show max _ _ ≤ _; omega⟩
      · obtain ⟨h1, h2, h3, h4⟩ := hbound r hr
        exact ⟨by omega, by omega, h3, h4⟩
    · obtain ⟨h1, h2, -, -⟩ := hbound r hr
      exact ⟨h1, h2⟩

theorem length_raiseRows : ∀ (l : List Config.NotchRow) (setpoint power : Nat), (raiseRows setpoint power l).length = l.length
  | [], _, _ => rfl
  | _ :: l, _, _ => congrArg (· + 1) (length_raiseRows l _ _)

theorem raiseLast_concat (x : Config.NotchRow) : ∀ l, raiseLast (l ++ [x]) = l ++ [{ x with power := max x.power 1 }]
  | [] => rfl
  | y :: l => by
    have h := raiseLast_concat x l
    cases l with
    | nil => rfl
    | cons z l => exact congrArg (y :: ·) h

theorem crossTable_sound {t : Config.NotchTable} (hlen : t.rows.length = 10) (hpow : ∀ r ∈ t.rows, r.power ≤ 1000) :
    tableSound (crossTable t) := by
  obtain ⟨hbound, hrise⟩ := raiseRows_rising (fullScale := t.fullScale)
    (t.rows.map fun r => { r with setpoint := min r.setpoint t.fullScale }) 0 0 (by omega) (by omega) fun r hr => by
      obtain ⟨x, hx, rfl⟩ := List.mem_map.mp hr
      exact ⟨Nat.zero_le _, Nat.zero_le _, Nat.min_le_right .., hpow x hx⟩
  obtain ⟨l, x, hl⟩ : ∃ l x, raiseRows 0 0 (t.rows.map fun r => { r with setpoint := min r.setpoint t.fullScale }) = l ++ [x] := by
    rcases List.eq_nil_or_concat (raiseRows 0 0 (t.rows.map fun r => { r with setpoint := min r.setpoint t.fullScale }))
      with h | ⟨l, x, h⟩
    · have := congrArg List.length h
      rw [length_raiseRows, List.length_map, hlen] at this
      simp at this
    · exact ⟨l, x, by simpa using h⟩
  have hrows : (crossTable t).rows = l ++ [{ x with power := max x.power 1 }] := by
    show raiseLast _ = _
    rw [hl, raiseLast_concat]
  have hl9 : l.length = 9 := by
    have := congrArg List.length hl
    rw [length_raiseRows, List.length_map, hlen] at this
    simpa using this.symm
  rw [hl] at hbound hrise
  obtain ⟨hinit, -, hlast⟩ := List.pairwise_append.mp hrise
  have hx := hbound x (by simp)
  refine ⟨?_, fun r hr => ?_, ?_, ?_⟩
  · rw [hrows]
    simp [hl9]
  · rw [hrows] at hr
    rcases List.mem_append.mp hr with hr | hr
    · exact (hbound r (by simp [hr])).2.2
    · obtain rfl := List.mem_singleton.mp hr
      exact ⟨hx.2.2.1, by show max _ _ ≤ _; have := hx.2.2.2; omega⟩
  · rw [hrows]
    refine List.pairwise_append.mpr ⟨hinit, List.pairwise_singleton _ _, fun a ha b hb => ?_⟩
    obtain rfl := List.mem_singleton.mp hb
    have h := hlast a ha x (by simp)
    exact ⟨h.1, Nat.le_trans h.2 (Nat.le_max_left ..)⟩
  · unfold powerOf rowOf
    rw [hrows]
    have h9 : ((9 : Row) : Nat) = 9 := rfl
    rw [h9, List.getD_eq_getElem?_getD, List.getElem?_append_right (by omega), hl9]
    exact Nat.le_max_right ..

/-- R166: the cross-field clamps make a set in range sound. -/
theorem crossClamp_sound {p : Params} (hu : p.unit ≠ 0) (h : InRange p) : paramsSound (crossClamp p) := by
  obtain ⟨hperiod, hgate, hteeth, hstopped, hnotch, halt, hstart, hattempts, hover⟩ := h
  have hexp : 3 * p.link.statusPeriod ≤ 125 * 2 ^ (p.link.silenceExp + 16) := by
    have : 2 ^ 16 ≤ 2 ^ (p.link.silenceExp + 16) := Nat.pow_le_pow_right (by omega) (by omega)
    omega
  refine ⟨hu, ?_, Nat.min_le_right .., hteeth.2, hstopped.1, hstopped.2, crossScale_sound (by omega) _,
    crossScale_sound (by omega) _, crossScale_sound (by omega) _, crossScale_sound (by omega) _, Int.le_max_right ..,
    crossTable_sound hnotch.1 hnotch.2, crossTable_sound halt.1 halt.2, raiseExp_reaches _ _ _ hexp, Nat.le_max_right ..,
    Nat.le_max_right .., ?_, Nat.le_max_right .., Nat.le_max_right .., crossProfile_sound _, crossProfile_sound _,
    Nat.le_max_right .., hover, hattempts⟩
  · show 1 ≤ min _ _
    omega
  · show min _ _ + 50 ≤ p.crank.startPressure
    omega

/-- Settles O4: the set of a good image is the cross-field clamp of records in their ranges, for a unit number from 1
to 31. -/
theorem appliedSetObeysClamps : Obligations.AppliedSetObeysClamps := by
  intro image p clamped h
  unfold checkImage at h
  split at h
  · cases h
  split_ifs at h
  unfold checkRecords at h
  split at h
  · cases h
  dsimp only at h
  split at h
  · cases h
  split_ifs at h with hunit
  injection h with hp _
  obtain ⟨q, hq, hu, e⟩ := paramsOf_inRange _ _
  rw [← hp, e]
  refine crossClamp_sound ?_ hq
  rw [hu]
  exact fun h0 => absurd (congrArg Fin.val h0) (by simp; omega)

end Sys2Proof.Machine

/-! What the shared operations leave alone (`Apart`), and the frames the judgements that follow a command may ask for. -/

namespace Sys2Proof.Machine

variable {s t u : State} {p : Params}

/-! ### What the shared operations leave alone -/

/-- A change of the sequencer, the stepper, the layover unit, the caps, the own claim and the queue only. -/
theorem Apart.of_blocks (hr : t.reader = s.reader := by rfl) (hm : t.meas = s.meas := by rfl)
    (ho : t.roster = s.roster := by rfl) (hc : t.choices = s.choices := by rfl) (hp : t.pending = s.pending := by rfl)
    (hd : t.demand = s.demand := by rfl) (hk : t.link = { s.link with queue := t.link.queue } := by rfl)
    (hj : t.arb.joinTimer = s.arb.joinTimer := by rfl) (ha : t.arb.placed = s.arb.placed := by rfl)
    (he : t.arb.expired = s.arb.expired := by rfl)
    (hl : dropClaim .own t.arb.claims = dropClaim .own s.arb.claims := by rfl)
    (h1 : t.prot.derate1 = s.prot.derate1 := by rfl) (h2 : t.prot.derate2 = s.prot.derate2 := by rfl)
    (h3 : t.prot.hotStop = s.prot.hotStop := by rfl) (h4 : t.prot.lastSpeed = s.prot.lastSpeed := by rfl)
    (hx : t.lines = s.lines := by rfl) : Apart s t where
  reader := hr
  meas := hm
  roster := ho
  choices := hc
  pending := hp
  demand := by rw [hd]
  link := hk
  joinTimer := hj
  placed := ha
  expired := he
  peerClaims := hl
  derate1 := h1
  derate2 := h2
  hotStop := h3
  lastSpeed := h4
  driven := by rw [hx]
  polarities := by rw [hx]
  sense := fun out => by rw [hx]
  last := fun out => by rw [hx]

theorem Apart.refl (s : State) : Apart s s := .of_blocks

theorem Apart.ite {c : Prop} [Decidable c] (h : c → Apart s t) (k : ¬c → Apart s u) : Apart s (if c then t else u) := by
  split
  · exact h ‹_›
  · exact k ‹_›

theorem dropClaim_twice (w : Who) (l : List Claim) : dropClaim w (dropClaim w l) = dropClaim w l := by
  unfold dropClaim
  rw [List.filter_filter]
  simp

theorem enterState_apart (e : EngineState) (s : State) : Apart s (enterState e s) := (enterState_kept e s).apart

theorem endAttempt_apart (r : AttemptResult) (s : State) : Apart s (endAttempt r s) := .of_blocks

theorem enterPhase_apart (ph : Phase) (s : State) : Apart s (enterPhase ph s) := .of_blocks

theorem withdrawClaim_apart (s : State) : Apart s (withdrawClaim s) := by
  rw [withdrawClaim_eq]
  exact .of_blocks (hl := dropClaim_twice _ _)

theorem endCrankCounted_apart (b : Byte) (s : State) : Apart s (endCrankCounted b s) := by
  rw [endCrankCounted_eq]
  exact .of_blocks (hl := dropClaim_twice _ _)

theorem endCrankUncounted_apart (b : Byte) (s : State) : Apart s (endCrankUncounted b s) := by
  rw [endCrankUncounted_eq]
  exact .of_blocks (hl := dropClaim_twice _ _)

theorem discardKept_apart (s : State) : Apart s (discardKept s) := by
  unfold discardKept
  split
  · exact .refl s
  · unfold requestMade
    rw [requestFrame_eq]
    exact .of_blocks

theorem closeClaim_apart (ph : Phase) (b : Byte) (s : State) : Apart s (closeClaim ph b s) := by
  cases ph with
  | prep => exact withdrawClaim_apart s
  | crank => exact endCrankCounted_apart b s
  | fire | confirm => exact .refl s

theorem failAttempt_apart (p : Params) (r : AttemptResult) (s : State) : Apart s (failAttempt p r s) := by
  by_cases h : ∃ ph, s.seq.engine = .starting ph
  · obtain ⟨ph, h⟩ := h
    rw [failAttempt_starting r h]
    refine Apart.trans ?_ (enterState_apart _ _)
    have h1 := (closeClaim_apart ph failedByte s).trans (endAttempt_apart r _)
    exact h1.trans .of_blocks
  · rw [failAttempt_idle r fun ph e => h ⟨ph, e⟩]
    exact .refl s

theorem tripRequest_apart (r : LockReason) (s : State) : Apart s (tripRequest r s) := by
  by_cases h : ∃ ph, s.seq.engine = .starting ph
  · obtain ⟨ph, h⟩ := h
    rw [tripRequest_starting r h]
    exact ((closeClaim_apart ph failedByte s).trans (endAttempt_apart _ _)).trans (enterState_apart _ _)
  · unfold tripRequest
    split
    · exact absurd ⟨_, ‹_›⟩ h
    · exact enterState_apart _ s
    · exact enterState_apart _ s
    · exact enterState_apart _ s
    · exact enterState_apart _ s
    · split
      · exact .refl s
      · exact (discardKept_apart s).trans (enterState_apart _ _)
      · exact enterState_apart _ s
      · exact enterState_apart _ s
      · exact enterState_apart _ s
    · exact .refl s
    · exact .refl s

theorem trip_apart (r : LockReason) (src : Option CutSource) (s : State) : Apart s (trip r src s) := by
  unfold trip
  exact .ite (fun _ => .refl s) fun _ => Apart.trans .of_blocks (tripRequest_apart r _)

theorem stopPress_apart (p : Params) (s : State) : Apart s (stopPress p s) := by
  have clear (v : State) : Apart v { v with seq := { v.seq with attempts := 0 } } := .of_blocks
  unfold stopPress
  split
  · dsimp only
    split
    · exact (((withdrawClaim_apart s).trans (endAttempt_apart _ _)).trans (clear _)).trans (enterState_apart _ _)
    · exact (((endCrankCounted_apart _ s).trans (endAttempt_apart _ _)).trans (clear _)).trans (enterState_apart _ _)
    · exact ((endAttempt_apart _ s).trans (clear _)).trans (enterState_apart _ _)
    · exact ((endAttempt_apart _ s).trans (clear _)).trans (enterState_apart _ _)
  · exact enterState_apart _ s
  · split
    · exact .refl s
    · exact (discardKept_apart s).trans (enterState_apart _ _)
    · exact enterState_apart _ s
    · exact enterState_apart _ s
    · exact enterState_apart _ s
  · exact enterState_apart _ s
  · exact enterState_apart _ s
  · exact .ite (fun _ => Apart.trans .of_blocks (enterState_apart _ _)) fun _ => .refl s
  · exact .refl s
  · exact .refl s

theorem floorCrank_apart (s : State) : Apart s (floorCrank s) :=
  ((endCrankUncounted_apart _ s).trans (endAttempt_apart _ _)).trans (enterState_apart _ _)

theorem yieldCrank_apart (s : State) : Apart s (yieldCrank s) := by
  have h := (endCrankUncounted_apart yieldedByte s).trans (endAttempt_apart .yielded _)
  exact Apart.trans (h.trans .of_blocks) (enterState_apart _ _)

theorem askAgain_apart (p : Params) (s : State) : Apart s (askAgain p s) := by
  unfold askAgain
  split
  · exact (startRequest_kept p _ s).apart
  · exact .refl s
  · exact .refl s

theorem settle_apart (p : Params) (s : State) : Apart s (settle p s) := (settle_kept p s).apart

/-! ### The frames that the judgements ask for -/

/-- A queue that has taken requests of the given kinds, one after another. -/
def Grows (K : List Nat) : List TxFrame → List TxFrame → Prop :=
  Relation.ReflTransGen fun q r => ∃ f, txKind f ∈ K ∧ r = enqueue f q

/-- The transmit queue of one state has grown into the other's by requests of the given kinds. -/
structure Asks (K : List Nat) (s t : State) : Prop where
  grows : Grows K s.link.queue t.link.queue

theorem Asks.of_queue {K : List Nat} (h : t.link.queue = s.link.queue := by rfl) : Asks K s t := by
  constructor
  rw [h]
  exact .refl

theorem Asks.trans {K : List Nat} (h : Asks K s t) (k : Asks K t u) : Asks K s u :=
  ⟨Relation.ReflTransGen.trans h.grows k.grows⟩

/-- A change before it that leaves the queue. -/
theorem Asks.since {K : List Nat} (k : Asks K t u) (h : t.link.queue = s.link.queue := by rfl) : Asks K s u :=
  (Asks.of_queue h).trans k

/-- A change after it that leaves the queue. -/
theorem Asks.then {K : List Nat} (k : Asks K s t) (h : u.link.queue = t.link.queue := by rfl) : Asks K s u :=
  k.trans (.of_queue h)

theorem Asks.ite {K : List Nat} {c : Prop} [Decidable c] (h : c → Asks K s t) (k : ¬c → Asks K s u) :
    Asks K s (if c then t else u) := by
  split
  · exact h ‹_›
  · exact k ‹_›

theorem Asks.of_queueAfter {K : List Nat} {f : TxFrame} (hf : txKind f ∈ K) (h : t.link.queue = queueAfter f s) :
    Asks K s t := by
  constructor
  rw [h]
  unfold queueAfter
  split
  · exact .single ⟨f, hf, rfl⟩
  · exact .refl

theorem Asks.made {K : List Nat} {c : Content} (hc : contentKind c ∈ K) (s : State) : Asks K s (requestMade c s) :=
  .of_queueAfter (f := .made c) hc (by rw [requestMade, requestFrame_eq])

section
variable {K : List Nat}

theorem enterPrep_asks (h3 : 3 ∈ K) (s : State) : Asks K s (enterPrep s) := by
  obtain ⟨-, -, -, -, hq⟩ := enterPrep_blocks s
  exact .of_queueAfter (f := .made (.claim _ _)) h3 hq

theorem startRequest_asks (h3 : 3 ∈ K) (p : Params) (l : Level) (s : State) : Asks K s (startRequest p l s) := by
  unfold startRequest
  exact .ite (fun _ => (enterPrep_asks h3 _).since) fun _ => .of_queue

theorem settleArrival_asks (h3 : 3 ∈ K) (p : Params) (s : State) : Asks K s (settleArrival p s) := by
  have enter (e : EngineState) (v : State) : Asks K v (enterState e v) := .of_queue (by rw [enterState_link])
  unfold settleArrival
  split
  · refine .ite (fun _ => Asks.since (t := settleOutputs p s) ?_) fun _ => .of_queue
    unfold arriveAt
    split
    · exact (enter _ _).since
    · exact enter _ _
    · exact enter _ _
    · exact enter _ _
    · exact enterPrep_asks h3 _
  · exact .of_queue

theorem settleOwnRecord_asks (h5 : 5 ∈ K) (p : Params) (s : State) : Asks K s (settleOwnRecord p s) := by
  unfold settleOwnRecord
  refine .ite (fun _ => .of_queue) fun _ => .ite (fun _ => ?_) fun _ => .of_queue
  exact (Asks.made (c := demandContent _) h5 _).since

theorem settleSteps_asks (h6 : 6 ∈ K) (p : Params) : ∀ (n : Nat) (s : State), Asks K s (settleSteps p n s)
  | 0, s => .of_queue
  | n + 1, s => by
    unfold settleSteps
    split
    · exact .of_queue
    · rename_i r _
      have after (v : State) : Asks K v (afterStep p v) := .of_queue (by rw [afterStep, settleRow_link]; rfl)
      have up : Asks K s (stepUp r s) := (Asks.made (c := .step _) h6 _).since
      exact .ite (fun _ => (up.trans (after _)).trans (settleSteps_asks h6 p n _)) fun _ =>
        .ite (fun _ => ((after (stepDown r s)).trans (settleSteps_asks h6 p n _)).since) fun _ => .of_queue

theorem settleStepper_asks (h6 : 6 ∈ K) (p : Params) (s : State) : Asks K s (settleStepper p s) := by
  have before : Asks K s (settleReport (settleTarget (settleLowIdle p s))) :=
    .of_queue (by rw [settleReport_link]; rfl)
  exact (before.trans (settleSteps_asks h6 p 9 _)).then

theorem settleEligible_asks (h7 : 7 ∈ K) (h8 : 8 ∈ K) (p : Params) (s : State) : Asks K s (settleEligible p s) := by
  have cancel (v : State) : Asks K v (cancelIntent v) := by
    unfold cancelIntent
    dsimp only
    split
    · exact .of_queue
    · exact (Asks.made (c := .layoverCancel _) h8 _).since
  have announce (v : State) : Asks K v (announceIntent v) := (Asks.made (c := .layoverIntent _) h7 _).since
  unfold settleEligible
  dsimp only
  exact .ite (fun _ => (cancel _).since) fun _ => .ite (fun _ => (announce _).since) fun _ => .of_queue

theorem settleWatch_asks (h3 : 3 ∈ K) (p : Params) (s : State) : Asks K s (settleWatch p s) := by
  unfold settleWatch
  split
  · exact .of_queue
  · dsimp only
    split
    · exact .of_queue
    · exact .ite (fun _ => (startRequest_asks h3 p _ _).since) fun _ => .of_queue

theorem settleGrant_asks (h1 : 1 ∈ K) (p : Params) (s : State) : Asks K s (settleGrant p s) := by
  unfold settleGrant
  refine .ite (fun _ => ?_) fun _ => .of_queue
  obtain ⟨-, -, -, -, -, hq⟩ := enterCrank_blocks s
  exact .of_queueAfter (f := .made (.crankOn _ _)) h1 hq

/-- What the judgements before it leave of the layover unit. -/
theorem settleOwnRecord_layover (p : Params) (s : State) : (settleOwnRecord p s).layover = s.layover := by
  unfold settleOwnRecord requestMade
  dsimp only
  split_ifs
  · rfl
  · rw [requestFrame_eq]
  · rfl

theorem settleSteps_layover (p : Params) : ∀ (n : Nat) (s : State), (settleSteps p n s).layover = s.layover
  | 0, _ => rfl
  | n + 1, s => by
    have row (v : State) : (settleRow p v).layover = v.layover := by
      unfold settleRow
      split
      · rfl
      · split <;> rfl
    unfold settleSteps
    split
    · rfl
    · rename_i r _
      split
      · rw [settleSteps_layover p n, afterStep, row]
        unfold stepUp requestMade
        rw [settleLubeTimer, requestFrame_eq]
        rfl
      · split
        · rw [settleSteps_layover p n, afterStep, row]
          rfl
        · rfl

theorem settleStepper_layover (p : Params) (s : State) : (settleStepper p s).layover = s.layover := by
  have h : (settleReport (settleTarget (settleLowIdle p s))).layover = s.layover := by
    unfold settleReport
    split <;> rfl
  exact (settleSteps_layover p 9 _).trans h

theorem settlePrelube_layover (p : Params) (s : State) : (settlePrelube p s).layover = s.layover := by
  unfold settlePrelube
  split <;> rfl

/-- What a round asks for, block by block: a claim, the own record, a step, the layover unit's frames, a crank. -/
theorem settleRound_asks_parts (h1 : 1 ∈ K) (h3 : 3 ∈ K) (p : Params) (s : State)
    (hown : Asks K (settleArrival p s) (settleOwnRecord p (settleArrival p s)))
    (hstep : Asks K (settleMakeUp p (settleCaps p (settleOwnRecord p (settleArrival p s))))
      (settleStepper p (settleMakeUp p (settleCaps p (settleOwnRecord p (settleArrival p s))))))
    (heligible : ∀ v : State, v.layover = (settleArrival p s).layover → Asks K v (settleEligible p v)) :
    Asks K s (settleRound p s) := by
  have ha := (settleArrival_asks h3 p s).trans hown
  have hla := settleOwnRecord_layover p (settleArrival p s)
  unfold settleRound
  dsimp only
  generalize settleOwnRecord p (settleArrival p s) = a at ha hla hstep ⊢
  have hb : Asks K s (settleStepper p (settleMakeUp p (settleCaps p a))) := ha.trans hstep.since
  have hlb : (settleStepper p (settleMakeUp p (settleCaps p a))).layover = (settleArrival p s).layover :=
    (settleStepper_layover p _).trans hla
  generalize settleStepper p (settleMakeUp p (settleCaps p a)) = b at hb hlb ⊢
  have hc : Asks K s (settleHotTimer (settleLubeTimer p (settleConfirm p (settlePrelube p b)))) :=
    hb.then (congrArg Link.queue (settlePrelube_link p b))
  have hlc : (settleHotTimer (settleLubeTimer p (settleConfirm p (settlePrelube p b)))).layover = (settleArrival p s).layover :=
    (settlePrelube_layover p b).trans hlb
  generalize settleHotTimer (settleLubeTimer p (settleConfirm p (settlePrelube p b))) = c at hc hlc ⊢
  exact (((hc.trans (heligible c hlc)).trans (settleWatch_asks h3 p _)).trans (settleGrant_asks h1 p _)).then

/-- A round asks for a DEMAND where the own record has changed, and for the other kinds of the judgements. -/
theorem settleRound_asks_of (hK : ∀ k ∈ [1, 3, 6, 7, 8], k ∈ K) (p : Params) (s : State)
    (hown : Asks K (settleArrival p s) (settleOwnRecord p (settleArrival p s))) : Asks K s (settleRound p s) :=
  settleRound_asks_parts (hK 1 (by decide)) (hK 3 (by decide)) p s hown (settleStepper_asks (hK 6 (by decide)) p _)
    fun v _ => settleEligible_asks (hK 7 (by decide)) (hK 8 (by decide)) p v

end

/-- The kinds that the judgements ask for in every engine state: DEMAND, STEP and the two of the layover. -/
def restingKinds : List Nat := [5, 6, 7, 8]

/-- The kinds that the judgements ask for: CRANK-ON and CLAIM beside those. -/
def judgedKinds : List Nat := [1, 3, 5, 6, 7, 8]

theorem settleRound_asks (p : Params) (s : State) : Asks judgedKinds s (settleRound p s) :=
  settleRound_asks_of (by decide) p s (settleOwnRecord_asks (by decide) p _)

theorem settle_asks (p : Params) (s : State) : Asks judgedKinds s (settle p s) :=
  ((settleRound_asks p s).trans (settleRound_asks p _)).trans (settleRound_asks p _)

theorem Grows.mem {K : List Nat} {q r : List TxFrame} (h : Grows K q r) {f : TxFrame} (hf : f ∈ r) :
    f ∈ q ∨ txKind f ∈ K := by
  induction h with
  | refl => exact .inl hf
  | tail _ h ih =>
    obtain ⟨g, hg, rfl⟩ := h
    rcases mem_of_mem_enqueue hf with rfl | hf
    · exact .inr hg
    · exact ih hf

/-- A frame stays in a queue that grows by other kinds that do not cancel it, and never fills. -/
theorem Grows.keeps {K : List Nat} {q r : List TxFrame} (h : Grows K q r) {g : TxFrame} (hg : g ∈ q)
    (hk : kindsWithin (txKind g :: K) q) (hK : txKind g ∉ K) (hc : ∀ k ∈ K, cancelledKind k ≠ some (txKind g))
    (hl : K.length < 7) : g ∈ r := by
  suffices g ∈ r ∧ kindsWithin (txKind g :: K) r from this.1
  induction h with
  | refl => exact ⟨hg, hk⟩
  | tail _ h ih =>
    obtain ⟨f, hf, rfl⟩ := h
    obtain ⟨hm, hw⟩ := ih
    refine ⟨mem_enqueue_of_mem hm (fun e => hK (e ▸ hf)) (hc _ hf) ?_, kindsWithin_enqueue hw (by simp [hf])⟩
    have := hw.length
    simp only [List.length_cons] at this
    omega

theorem kindsWithin_single {K : List Nat} (g : TxFrame) : kindsWithin (txKind g :: K) [g] := by
  unfold kindsWithin
  simp

theorem queueAfter_open (hs : openLink s) (g : TxFrame) : queueAfter g s = [g] := by
  unfold queueAfter
  rw [if_pos hs.1, hs.2]
  simp [enqueue, insertFrame]

/-- A frame asked for at an open link outlasts the judgements, where none of theirs is of its kind or cancels it. -/
theorem asked_settle {c : Content} (hs : openLink s) (hq : t.link.queue = queueAfter (.made c) s)
    (hK : contentKind c ∉ judgedKinds) (hc : ∀ k ∈ judgedKinds, cancelledKind k ≠ some (contentKind c)) :
    asked c (settle p t) := by
  have h := (settle_asks p t).grows
  rw [hq, queueAfter_open hs] at h
  exact h.keeps (by simp) (kindsWithin_single _) hK hc (by decide)

/-- In a quiet state the judgements ask for neither claim nor crank, and cancel none. -/
theorem asked_settle_quiet {c : Content} (hs : openLink s) (hq : t.link.queue = queueAfter (.made c) s)
    (hK : contentKind c ∉ [5, 6, 7, 8]) (q : Quiet p t) : asked c (settle p t) := by
  refine (Held.settle (g := .made c) ⟨?_, ?_⟩ hK q).mem
  · rw [hq, queueAfter_open hs]
    simp
  · rw [hq, queueAfter_open hs]
    exact kindsWithin_single _

end Sys2Proof.Machine

/-! The converter channels: polling, the window's mean, stale channels, and a reservoir below the crank floor. -/

namespace Sys2Proof.Machine

variable {s t u : State} {p : Params}

/-! ### Commands after handover -/

/-- After handover a command is its own meaning under the applied set. -/
theorem next_withParams (hp : s.reader.applied = some p) (f : Params → State) :
    (Host.Outcome.next (withParams s f) : Host.Outcome State Fault Refusal) = .next (f p) := by
  rw [withParams_some s f hp]

theorem timerReached_some {us ms : Nat} : timerReached (some us) ms = decide (ms * 1000 ≤ us) := rfl

theorem timerReached_due {o : Timer} {us ms : Nat} (h : o = some us) (hd : ms * 1000 ≤ us) : timerReached o ms = true := by
  rw [h]
  exact decide_eq_true hd

theorem timerReached_short {o : Timer} {us ms : Nat} (h : o = some us) (hd : us < ms * 1000) : timerReached o ms = false := by
  rw [h]
  exact decide_eq_false (by omega)

/-- Settles O14: a slot's end asks for the next channel once 20 ms are over, and of the replies in a slot only the
first counts. -/
theorem converterSlots : Obligations.ConverterSlots := by
  intro p s c hp hreq
  have slot : exec .converterSlotEnd s = .next (if timerReached s.meas.slot 20 then
      { s with meas := { s.meas with request := some (nextChannel c), slot := some 0, taken := false } } else s) := by
    refine (next_withParams hp _).trans ?_
    rw [hreq]
  have reply (named : Channel) (raw : BitVec 12) (valid : Bool) : exec (.converterReply named raw valid) s
      = .next (if s.meas.taken then s else if named = c ∧ valid then validSample p c raw (takeReply s) else takeReply s) := by
    refine (next_withParams hp _).trans ?_
    rw [hreq]
  refine ⟨fun us hus hdue => ?_, fun us hus hshort => ?_, fun named raw valid ht => ?_, fun named raw valid ht hn => ?_⟩
  · rw [slot, timerReached_due hus (by omega)]
    cases c <;> rfl
  · rw [slot, timerReached_short hus (by omega)]
    rfl
  · rw [reply, ht]
    rfl
  · rw [reply, ht, if_neg (by decide), if_neg]
    · rfl
    · rcases hn with h | h
      · exact fun k => h k.1
      · simp [h]

/-! ### Engine states that no judgement moves -/

/-- The engine states that are quiet whatever else stands. -/
def restful : EngineState → Bool
  | .stopping _ | .starting .prep | .stopped | .layover => false
  | _ => true

theorem quiet_of_restful (h : restful s.seq.engine = true) : Quiet p s := by
  refine quiet_of (fun d e => ?_) (fun e => ?_) (fun e => ?_) fun e => ?_ <;> simp [e, restful] at h

/-! ### An attempt's end -/

theorem endAttempt_record (result : AttemptResult) (s : State) : (endAttempt result s).seq.record
    = s.seq.record.map fun r =>
      { r with phases := closeLast (phaseElapsed s) s.meas.speed r.phases, result := some result } := by
  unfold endAttempt closePhase
  simp [Function.comp_def]

/-- R39: a record closed at the speed that stands. -/
theorem attemptClosed_of {result : AttemptResult} (hm : t.meas.speed = s.meas.speed)
    (hr : t.seq.record = (endAttempt result s).seq.record) : attemptClosed result s t := by
  unfold attemptClosed
  rw [hr, hm, endAttempt_record]

/-- CRANK-OFF outlasts the judgements: they ask for none, and none of theirs cancels it (R157). -/
theorem asked_settle_crankOff {b l k n : Byte} (hs : openLink s) (hq : t.link.queue = queueAfter (.made (.crankOff b l k n)) s) :
    asked (.crankOff b l k n) (settle p t) :=
  asked_settle hs hq (show 2 ∉ judgedKinds by decide) (show ∀ k ∈ judgedKinds, cancelledKind k ≠ some 2 by decide)

/-! ### The caps that stand after the judgements -/

/-- The caps are those of a state in which engine and measurements stand as the command left them. -/
theorem settle_caps (p : Params) (s : State) :
    ∃ v, Kept s v ∧ (Quiet p s → Still s v) ∧ CapsHeld (settleCaps p v) (settle p s) := by
  have still (u : State) (q : Quiet p u) : Still u (settleOwnRecord p (settleArrival p u)) := by
    rw [settleArrival_quiet q]
    exact settleOwnRecord_still p u
  have h2 := (settleRound_kept p s).trans (settleRound_kept p _)
  refine ⟨settleOwnRecord p (settleArrival p (settleRound p (settleRound p s))),
    h2.trans ((settleArrival_kept p _).trans (settleOwnRecord_kept p _)), fun q => ?_, settleRound_caps p _⟩
  have q1 := settleRound_still q
  have q2 := q1.trans (settleRound_still (q1.quiet q))
  exact q2.trans (still _ (q2.quiet q))

theorem availableOf_le (a b c d : Option Row) :
    availableOf a b c d ≤ capRow a ∧ availableOf a b c d ≤ capRow b ∧ availableOf a b c d ≤ capRow c
      ∧ availableOf a b c d ≤ capRow d := by
  unfold availableOf
  simp only [rowMin_eq_min]
  exact ⟨min_le_left _ _, (min_le_right _ _).trans (min_le_left _ _),
    ((min_le_right _ _).trans (min_le_right _ _)).trans (min_le_left _ _),
    ((min_le_right _ _).trans (min_le_right _ _)).trans (min_le_right _ _)⟩

/-- R46: a fresh LUBE leaves no lube-stale cap. -/
theorem settle_lubeFresh (h : (freshValue s.meas.lube).isSome) : (settle p s).prot.lubeStaleCap = none := by
  obtain ⟨v, hk, -, hc⟩ := settle_caps p s
  rw [hc.stale]
  show (if lubeStaleHolds v then some 1 else none) = none
  rw [lubeStaleHolds, hk.meas]
  simp [Option.isSome_iff_ne_none.mp h]

/-- R46: in RUNNING a stale LUBE holds the available row to ID. -/
theorem settle_lubeStale (h : s.seq.engine = .running) (hs : freshValue s.meas.lube = none) :
    (settle p s).prot.lubeStaleCap = some 1 ∧ (settle p s).prot.available ≤ 1 := by
  obtain ⟨v, hk, hq, hc⟩ := settle_caps p s
  have hstill := hq (quiet_of_restful (by rw [h]; rfl))
  have hcap : lubeStaleHolds v = true := by
    rw [lubeStaleHolds, hk.meas, hs, isRunning, hstill.engine, h]
    rfl
  have hstale : (settleCaps p v).prot.lubeStaleCap = some 1 := by
    show (if lubeStaleHolds v then some 1 else none) = some (1 : Row)
    rw [hcap]
    rfl
  refine ⟨hc.stale.trans hstale, ?_⟩
  rw [hc.available]
  exact (availableOf_le _ _ _ _).2.1.trans (le_of_eq (by rw [hcap]; rfl))

/-! ### A stale channel -/

/-- R11, R15: a channel gone STALE changes the measurement unit only. -/
theorem makeStale_meas (c : Channel) (s : State) :
    makeStale c s = { s with meas := (makeStale c s).meas }
      ∧ channelOf (makeStale c s).meas c = { channelOf s.meas c with stale := true, timer := none }
      ∧ (∀ d, d ≠ c → channelOf (makeStale c s).meas d = channelOf s.meas d)
      ∧ (makeStale c s).meas.speed = s.meas.speed
      ∧ (makeStale c s).meas.tempClass = (if c = .cool then .cold else s.meas.tempClass) := by
  refine ⟨by cases c <;> rfl, by cases c <;> rfl, fun d hd => ?_, by cases c <;> rfl, by cases c <;> rfl⟩
  cases c <;> exact channelOf_setChannel_other (s := s) _ hd

theorem stalenessTimeout_due {c : Channel} (hp : s.reader.applied = some p)
    (h : timerReached (channelOf s.meas c).timer 2000 = true) :
    exec (.stalenessTimeout c) s = .next (settle p (makeStale c s)) := by
  refine (next_withParams hp _).trans ?_
  rw [if_pos h]

/-- Settles O20: at 2000 ms the channel goes STALE and the blocks judge with that, the lube-stale cap among them. -/
theorem staleChannelHoldsValue : Obligations.StaleChannelHoldsValue := by
  intro p s c us hp ht
  refine ⟨fun hdue => ⟨_, stalenessTimeout_due hp (timerReached_due ht (by omega)), ?_⟩, fun hshort => ?_⟩
  · obtain ⟨honly, hself, hother, hspeed, hclass⟩ := makeStale_meas c s
    have hk := settle_kept p (makeStale c s)
    have hj : Judged p (makeStale c s) (settle p (makeStale c s)) := settle_judged (by rw [honly]; exact hp)
    have hm := hk.meas
    refine ⟨by rw [hm, hself], fun d hd => by rw [hm, hother d hd], by rw [hm, hspeed], by rw [hm, hclass],
      fun hc hrun => ?_, ?_⟩
    · subst hc
      obtain ⟨hcap, hrow⟩ := settle_lubeStale (p := p) (s := makeStale .lube s) hrun rfl
      refine ⟨hcap, hrow, ?_, ?_⟩
      · unfold derated
        have : (settle p (makeStale .lube s)).prot.available.val ≤ 1 := hrow
        exact decide_eq_true (by omega)
      · have := settle_engine_quiet (p := p) (s := makeStale .lube s)
          (quiet_of_restful (by rw [show (makeStale .lube s).seq = s.seq from rfl, hrun]; rfl))
        exact this.trans hrun
    · rw [hm, ← honly]
      exact hj
  · refine (next_withParams hp _).trans ?_
    rw [timerReached_short ht (by omega)]
    rfl

end Sys2Proof.Machine

/-! The start sequencer under the judgements: what a judgement may write of it, and PREP entered. -/

namespace Sys2Proof.Machine

variable {s t u : State} {p : Params}

/-! ### Entry to PREP and CRANK -/

/-- R21: the sequencer and the arbiter at PREP. -/
theorem enterPrep_seq (s : State) : (enterPrep s).seq = { changeSequencer (.starting .prep) s.seq with
    prelubeDone := false, phaseTimer := some 0, confirmTimer := none, rolling := false, rackOn := false
    profile := some (chosenProfile s), keptSerial := none
    record := some { level := s.seq.startLevel.getD .routine, number := s.seq.attempts + 1
                     phases := [{ elapsed := 0, speed := none }], result := none } } := by
  unfold enterPrep postOwnClaim requestMade
  simp [requestFrame_eq, enterState_seq]

theorem enterPrep_arb (s : State) : (enterPrep s).arb = { s.arb with
    claims := putClaim
      { who := .own, level := s.seq.startLevel.getD .routine
        serial := s.seq.keptSerial.getD (s.arb.ownSerial + 1), state := .waiting } s.arb.claims
    ownSerial := if s.seq.keptSerial.isSome then s.arb.ownSerial else s.arb.ownSerial + 1
    claimTimer := some 0 } := by
  have hk : (enterState (.starting .prep) s).seq.keptSerial = s.seq.keptSerial := by rw [enterState_seq]; rfl
  unfold enterPrep postOwnClaim requestMade
  simp [requestFrame_eq, hk]

/-- R24: the sequencer at CRANK. -/
theorem enterCrank_seq (s : State) : (enterCrank s).seq = { (enterPhase .crank s).seq with rolling := false, rackOn := false } := by
  unfold enterCrank requestMade
  rw [requestFrame_eq]

/-- PREP entered under a claim settle time above 0 is quiet: its claim is new. -/
theorem enterPrep_quiet (h : 0 < p.crank.claimSettle) (s : State) : Quiet p (enterPrep s) where
  moving d hd := by simp [enterPrep_engine] at hd
  ungranted _ := by
    rw [enterPrep_arb]
    exact timerReached_short rfl (by omega)
  unwatched hw := by simp [enterPrep_engine] at hw

/-- R34: at rest a station STOPPING toward PREP enters it. -/
theorem settle_arrival_prep (h : s.seq.engine = .stopping .prep) (hr : atRest p s = true) :
    settle p s = settle p (enterPrep (settleOutputs p s)) := by
  rw [settle_arrival h hr, arriveAt]

theorem settle_arrival_prep_engine (h : s.seq.engine = .stopping .prep) (hr : atRest p s = true)
    (hc : 0 < p.crank.claimSettle) : (settle p s).seq.engine = .starting .prep := by
  rw [settle_arrival_prep h hr, settle_engine_quiet (enterPrep_quiet hc _), enterPrep_engine]

/-! ### What the judgements write of the sequencer -/

theorem settleOwnRecord_seq (p : Params) (s : State) : (settleOwnRecord p s).seq = s.seq := by
  unfold settleOwnRecord requestMade
  dsimp only
  split_ifs <;> simp

theorem settleRow_seq (p : Params) (s : State) : (settleRow p s).seq = s.seq := by
  unfold settleRow
  split
  · rfl
  · split <;> rfl

theorem settleSteps_seq (p : Params) : ∀ (n : Nat) (s : State), (settleSteps p n s).seq = s.seq
  | 0, _ => rfl
  | n + 1, s => by
    unfold settleSteps
    split
    · rfl
    · split
      · rw [settleSteps_seq p n, afterStep, settleRow_seq]
        exact requestFrame_seq _ _
      · split
        · rw [settleSteps_seq p n, afterStep, settleRow_seq]
          rfl
        · rfl

theorem settleStepper_seq (p : Params) (s : State) : (settleStepper p s).seq = s.seq := by
  show (settleSteps p 9 (settleReport (settleTarget (settleLowIdle p s)))).seq = s.seq
  rw [settleSteps_seq]
  unfold settleReport
  split <;> rfl

/-- A restart watch asks for no start outside STOPPED and LAYOVER. -/
theorem settleWatch_seq (h : ¬(s.seq.engine = .stopped ∨ s.seq.engine = .layover)) : (settleWatch p s).seq = s.seq := by
  unfold settleWatch
  split
  · rfl
  · dsimp only
    split
    · rfl
    · split
      · rw [startRequest_refused (by exact h)]
      · rfl

/-- R22: the prelube condition of PRESSURE mode. -/
def prelubeHolds (p : Params) (s : State) : Bool :=
  decide (s.seq.engine = .starting .prep ∧ (profileOf p s).mode = .pressure)
    && freshAtLeast s.meas.lube (profileOf p s).prelubePressure

theorem settlePrelube_seq (p : Params) (s : State) : (settlePrelube p s).seq
    = { s.seq with prelubeDone := s.seq.prelubeDone || prelubeHolds p s } := by
  unfold settlePrelube prelubeHolds
  split
  next h => simp [h]
  next h =>
    have : (decide (s.seq.engine = .starting .prep ∧ (profileOf p s).mode = .pressure)
      && freshAtLeast s.meas.lube (profileOf p s).prelubePressure) = false := by
      rw [Bool.eq_false_iff]
      simpa [and_assoc] using h
    rw [this, Bool.or_false]

/-- A round before its restart watch and its grant: every other block has judged the arrival's state. -/
theorem settleRound_split (p : Params) (s : State) :
    let a := settleArrival p s
    ∃ v, settleRound p s = settleLamps (settleOutputs p (settleGrant p (settleWatch p v)))
      ∧ Kept a v ∧ Still a v ∧ Asks restingKinds a v
      ∧ v.seq = { a.seq with prelubeDone := a.seq.prelubeDone || prelubeHolds p a, confirmTimer := v.seq.confirmTimer } := by
  intro a
  have hown := settleOwnRecord_seq p a
  have hk1 := settleOwnRecord_kept p a
  have hs1 := settleOwnRecord_still p a
  have ha1 := settleOwnRecord_asks (K := restingKinds) (by decide) p a
  generalize hb : settleStepper p (settleMakeUp p (settleCaps p (settleOwnRecord p a))) = b
  have hbs : b.seq = a.seq := by
    rw [← hb, settleStepper_seq]
    exact hown
  have hkb : Kept a b := by
    rw [← hb]
    exact ((hk1.trans (settleCaps_kept p _)).trans (settleMakeUp_kept p _)).trans (settleStepper_kept p _)
  have hsb : Still a b := by
    rw [← hb]
    exact (hs1.trans (settleMakeUpCaps_still p _)).trans (settleStepper_still p _)
  have hab : Asks restingKinds a b := by
    rw [← hb]
    exact ha1.trans (Asks.since (t := settleMakeUp p (settleCaps p (settleOwnRecord p a))) (settleStepper_asks (by decide) p _))
  generalize hc : settleHotTimer (settleLubeTimer p (settleConfirm p (settlePrelube p b))) = c
  have hcs : c.seq = { a.seq with prelubeDone := a.seq.prelubeDone || prelubeHolds p a, confirmTimer := c.seq.confirmTimer } := by
    have hp : prelubeHolds p b = prelubeHolds p a := by
      unfold prelubeHolds profileOf
      rw [hbs, hkb.meas]
    have h := settlePrelube_seq p b
    rw [hp, hbs] at h
    rw [← hc]
    show ({ (settlePrelube p b).seq with
      confirmTimer := (settleHotTimer (settleLubeTimer p (settleConfirm p (settlePrelube p b)))).seq.confirmTimer } : Sequencer) = _
    rw [h]
  have hkc : Kept a c := by
    rw [← hc]
    exact hkb.trans (settleTimers_kept p b)
  have hsc : Still a c := by
    rw [← hc]
    exact (hsb.trans (settlePrelube_still p b)).trans (settleTimers_still p _)
  have hac : Asks restingKinds a c := by
    rw [← hc]
    exact hab.then (congrArg Link.queue (settlePrelube_link p b))
  have he := (settleEligible_only p c).same.1
  refine ⟨settleEligible p c, ?_, hkc.trans (settleEligible_kept p c), hsc.trans (settleEligible_still p c),
    hac.trans (settleEligible_asks (by decide) (by decide) p c), by rw [he]; exact hcs⟩
  rw [← hc, ← hb]
  rfl

/-- A round before its grant, where no restart watch can ask for a start. -/
theorem settleRound_seq (p : Params) (s : State) :
    let a := settleArrival p s
    ∃ v, settleRound p s = settleLamps (settleOutputs p (settleGrant p v)) ∧ Kept a v
      ∧ (¬(a.seq.engine = .stopped ∨ a.seq.engine = .layover) →
        ∃ timer, v.seq = { a.seq with prelubeDone := a.seq.prelubeDone || prelubeHolds p a, confirmTimer := timer }) := by
  intro a
  obtain ⟨v, e, hk, -, -, hs⟩ := settleRound_split p s
  refine ⟨settleWatch p v, e, hk.trans (settleWatch_kept p v), fun h => ⟨v.seq.confirmTimer, ?_⟩⟩
  rw [settleWatch_seq (by rw [hs]; exact h)]
  exact hs

/-- R22: in PREP without a grant prelube is done where it was or where its condition holds. -/
theorem settle_prelubeDone (h : s.seq.engine = .starting .prep) (q : Quiet p s) :
    (settle p s).seq.prelubeDone = (s.seq.prelubeDone || prelubeHolds p s) := by
  have round {v : State} (h : v.seq.engine = .starting .prep) (q : Quiet p v) :
      (settleRound p v).seq.prelubeDone = (v.seq.prelubeDone || prelubeHolds p v) := by
    have hstill := settleRound_still q
    obtain ⟨w, e, -, hs⟩ := settleRound_seq p v
    rw [settleArrival_quiet q] at hs
    obtain ⟨timer, hs⟩ := hs (by simp [h])
    have hg : settleGrant p w = w := by
      unfold settleGrant
      split
      · rename_i hg
        have := hstill.engine
        rw [e, h] at this
        have hc : (settleLamps (settleOutputs p (settleGrant p w))).seq.engine = .starting .crank := by
          unfold settleGrant
          rw [if_pos hg]
          exact (enterCrank_blocks w).2.2.1
        simp [this] at hc
      · rfl
    rw [e, hg]
    exact congrArg Sequencer.prelubeDone hs
  have holds {v : State} (q : Quiet p v) : prelubeHolds p (settleRound p v) = prelubeHolds p v := by
    have hstill := settleRound_still q
    unfold prelubeHolds profileOf
    rw [hstill.seq, hstill.meas]
  have h1 := settleRound_still q
  have q1 := h1.quiet q
  have h2 := settleRound_still q1
  have q2 := h2.quiet q1
  unfold settle
  rw [round (h2.engine.trans (h1.engine.trans h)) q2, holds q1, round (h1.engine.trans h) q1, holds q, round h q]
  simp

/-! ### The attempt count -/

/-- The station is STARTING, or STOPPING toward PREP: no judgement ends its attempts. -/
def attempting (e : EngineState) : Prop := isStarting e = true ∨ e = .stopping .prep

theorem settleArrival_attempts (h : attempting s.seq.engine) :
    (settleArrival p s).seq.attempts = s.seq.attempts ∧ attempting (settleArrival p s).seq.engine
      ∧ (settleArrival p s).seq.crankCount = s.seq.crankCount := by
  unfold settleArrival
  split
  next d hd =>
    split
    · have : d = .prep := by
        rw [hd] at h
        simpa [attempting, isStarting] using h
      subst this
      show (enterPrep _).seq.attempts = _ ∧ attempting (enterPrep _).seq.engine ∧ (enterPrep _).seq.crankCount = _
      rw [enterPrep_seq]
      exact ⟨rfl, .inl rfl, rfl⟩
    · exact ⟨rfl, h, rfl⟩
  next => exact ⟨rfl, h, rfl⟩

theorem settleRound_attempts (h : attempting s.seq.engine) :
    (settleRound p s).seq.attempts = s.seq.attempts ∧ attempting (settleRound p s).seq.engine := by
  obtain ⟨ha, he, -⟩ := settleArrival_attempts (p := p) h
  obtain ⟨v, e, -, hs⟩ := settleRound_seq p s
  obtain ⟨timer, hs⟩ := hs (by rintro (k | k) <;> simp [k, attempting, isStarting] at he)
  have hv : v.seq.attempts = s.seq.attempts ∧ attempting v.seq.engine := by
    rw [hs]
    exact ⟨ha, he⟩
  rw [e]
  show (settleGrant p v).seq.attempts = _ ∧ attempting (settleGrant p v).seq.engine
  unfold settleGrant
  split
  · rw [enterCrank_seq]
    exact ⟨hv.1, .inl rfl⟩
  · exact hv

theorem settle_attempts (h : attempting s.seq.engine) : (settle p s).seq.attempts = s.seq.attempts := by
  obtain ⟨h1, k1⟩ := settleRound_attempts (p := p) h
  obtain ⟨h2, k2⟩ := settleRound_attempts (p := p) k1
  obtain ⟨h3, -⟩ := settleRound_attempts (p := p) k2
  exact h3.trans (h2.trans h1)

end Sys2Proof.Machine

/-! A valid sample: the window, its mean, and what the value does in the blocks that read it at that moment. -/

namespace Sys2Proof.Machine

variable {s t u : State} {p : Params}

/-! ### The window and its mean -/

theorem joinWindow_eq (w : List Int) (v : Int) : joinWindow w v = (w ++ [v]).drop ((w ++ [v]).length - 4) := by
  unfold joinWindow
  rw [List.length_append, List.length_singleton]
  split
  · rw [show w.length + 1 - 4 = 0 by omega]
    rfl
  · rw [show w.length + 1 - 4 = w.length - 3 by omega, List.drop_append_of_le_length (by omega)]

theorem length_joinWindow (w : List Int) (v : Int) : 1 ≤ (joinWindow w v).length ∧ (joinWindow w v).length ≤ 4 := by
  rw [joinWindow_eq, List.length_drop, List.length_append, List.length_singleton]
  omega

theorem mem_joinWindow {w : List Int} {v x : Int} (h : x ∈ joinWindow w v) : x ∈ w ∨ x = v := by
  rw [joinWindow_eq] at h
  simpa using List.mem_of_mem_drop h

/-- R10: the mean of samples in a range lies in it. -/
theorem windowMean_range {lo hi : Int} {w : List Int} (h : ∀ x ∈ w, lo ≤ x ∧ x ≤ hi) (hw : 1 ≤ w.length) :
    lo ≤ windowMean w ∧ windowMean w ≤ hi := by
  have low : (w.length : Int) * lo ≤ w.sum := by
    simpa using List.card_nsmul_le_sum w lo fun x hx => (h x hx).1
  have high : w.sum ≤ (w.length : Int) * hi := by
    simpa using List.sum_le_card_nsmul w hi fun x hx => (h x hx).2
  have hpos : (0 : Int) < w.length := by omega
  unfold windowMean
  exact ⟨Int.le_ediv_of_mul_le hpos (by linarith), Int.ediv_le_of_le_mul hpos (by linarith)⟩

/-- R8: a scaled reading lies between the ends of its scaling. -/
theorem scaleSample_range {c : Config.Scale} (h : c.low < c.high) (raw : BitVec 12) :
    c.low ≤ scaleSample c raw ∧ scaleSample c raw ≤ c.high := by
  have hraw : (raw.toNat : Int) ≤ 4095 := by
    have := raw.isLt
    omega
  have hspan : 0 ≤ (raw.toNat : Int) * (c.high - c.low) := mul_nonneg (by omega) (by omega)
  have hmost : (raw.toNat : Int) * (c.high - c.low) ≤ (c.high - c.low) * 4095 := by
    rw [mul_comm (c.high - c.low)]
    exact mul_le_mul_of_nonneg_right hraw (by omega)
  have h0 := Int.ediv_nonneg hspan (show (0 : Int) ≤ 4095 by decide)
  have h1 := Int.ediv_le_of_le_mul (show (0 : Int) < 4095 by decide) hmost
  unfold scaleSample
  omega

/-! ### The sample taken -/

/-- The value that a valid reading of a channel gives it. -/
def sampleValue (p : Params) (c : Channel) (raw : BitVec 12) (s : State) : Int :=
  windowMean (joinWindow (channelOf s.meas c).window (scaleSample (scaleOf p c) raw))

/-- The station with a valid reading taken, before any block reads its value. -/
def withSample (p : Params) (c : Channel) (raw : BitVec 12) (s : State) : State :=
  setChannel c (sampleChannel (scaleSample (scaleOf p c) raw) (channelOf s.meas c)) (takeReply s)

theorem validSample_eq (p : Params) (c : Channel) (raw : BitVec 12) (s : State) :
    validSample p c raw (takeReply s) = settle p (channelValue p c (sampleValue p c raw s) (withSample p c raw s)) := by
  cases c <;> rfl

theorem withSample_only (p : Params) (c : Channel) (raw : BitVec 12) (s : State) :
    withSample p c raw s = { s with meas := (withSample p c raw s).meas } := by cases c <;> rfl

@[simp] theorem withSample_seq (p : Params) (c : Channel) (raw : BitVec 12) (s : State) :
    (withSample p c raw s).seq = s.seq := rfl
@[simp] theorem withSample_arb (p : Params) (c : Channel) (raw : BitVec 12) (s : State) :
    (withSample p c raw s).arb = s.arb := rfl
@[simp] theorem withSample_link (p : Params) (c : Channel) (raw : BitVec 12) (s : State) :
    (withSample p c raw s).link = s.link := rfl

/-- R9 to R11: the channel's new state; nothing else of the measurement unit but the mark of the reply changes. -/
theorem withSample_meas (p : Params) (c : Channel) (raw : BitVec 12) (s : State) :
    channelOf (withSample p c raw s).meas c = sampleChannel (scaleSample (scaleOf p c) raw) (channelOf s.meas c)
      ∧ (∀ d, d ≠ c → channelOf (withSample p c raw s).meas d = channelOf s.meas d)
      ∧ (withSample p c raw s).meas.taken = true ∧ (withSample p c raw s).meas.request = s.meas.request
      ∧ (withSample p c raw s).meas.slot = s.meas.slot ∧ (withSample p c raw s).meas.speed = s.meas.speed
      ∧ (withSample p c raw s).meas.gate = s.meas.gate ∧ (withSample p c raw s).meas.tempClass = s.meas.tempClass := by
  refine ⟨channelOf_setChannel_self _ _ _, fun d hd => channelOf_setChannel_other (s := takeReply s) _ hd, ?_⟩
  cases c <;> exact ⟨rfl, rfl, rfl, rfl, rfl, rfl⟩

/-- R27: a RESV value acts in CRANK below the crank floor only. -/
theorem resvValue_apart (p : Params) (v : Int) (s : State) : Apart s (resvValue p v s) :=
  .ite (fun _ => floorCrank_apart s) fun _ => .refl s

/-- A new value changes of the measurement unit only the class, at COOL. -/
theorem channelValue_meas (p : Params) (c : Channel) (v : Int) (s : State) : (channelValue p c v s).meas = { s.meas with
    tempClass := if c = .cool then classAfter p.sense.coldLimit p.sense.hotLimit s.meas.tempClass v
      else s.meas.tempClass } := by
  cases c with
  | lube | batt | cool => rfl
  | resv => exact (resvValue_apart p v s).meas

theorem channelOf_channelValue (p : Params) (c d : Channel) (v : Int) (s : State) :
    channelOf (channelValue p c v s).meas d = channelOf s.meas d := by
  rw [channelValue_meas]
  cases d <;> rfl

theorem channelValue_reader (p : Params) (c : Channel) (v : Int) (s : State) : (channelValue p c v s).reader = s.reader := by
  cases c with
  | lube | batt | cool => rfl
  | resv => exact (resvValue_apart p v s).reader

/-- A new value changes the measurements and, at COOL, the hot latches; at RESV it may end the own crank. -/
theorem channelValue_apart (p : Params) (c : Channel) (v : Int) (s : State) :
    Apart { s with
      meas := (channelValue p c v s).meas
      prot := { s.prot with
        derate1 := (channelValue p c v s).prot.derate1, derate2 := (channelValue p c v s).prot.derate2
        hotStop := (channelValue p c v s).prot.hotStop } } (channelValue p c v s) := by
  cases c with
  | lube | batt | cool => exact .refl _
  | resv =>
    have h := resvValue_apart p v s
    show Apart { s with
      meas := (resvValue p v s).meas
      prot := { s.prot with
        derate1 := (resvValue p v s).prot.derate1, derate2 := (resvValue p v s).prot.derate2
        hotStop := (resvValue p v s).prot.hotStop } } (resvValue p v s)
    rw [h.meas, h.derate1, h.derate2, h.hotStop]
    exact h

/-- What stands of the measurements after a valid reply. -/
theorem validSample_channels (p : Params) (c : Channel) (raw : BitVec 12) (s : State) :
    let t := validSample p c raw (takeReply s)
    channelOf t.meas c = sampleChannel (scaleSample (scaleOf p c) raw) (channelOf s.meas c)
      ∧ (∀ d, d ≠ c → channelOf t.meas d = channelOf s.meas d)
      ∧ t.meas.taken = true ∧ t.meas.request = s.meas.request ∧ t.meas.slot = s.meas.slot
      ∧ t.meas.speed = s.meas.speed ∧ t.meas.gate = s.meas.gate := by
  dsimp only
  obtain ⟨hself, hother, htaken, hrequest, hslot, hspeed, hgate, -⟩ := withSample_meas p c raw s
  rw [validSample_eq, (settle_kept p _).meas]
  refine ⟨by rw [channelOf_channelValue, hself], fun d hd => by rw [channelOf_channelValue, hother d hd], ?_⟩
  rw [channelValue_meas]
  exact ⟨htaken, hrequest, hslot, hspeed, hgate⟩

theorem validSample_value (p : Params) (c : Channel) (raw : BitVec 12) (s : State) :
    (channelOf (validSample p c raw (takeReply s)).meas c).value = some (sampleValue p c raw s) := by
  rw [(validSample_channels p c raw s).1]
  rfl

/-- Settles O16: a sample lies in its scaling's range, and a mean of samples in a range lies in it. -/
theorem samplesStayInRange : Obligations.SamplesStayInRange := by
  intro p s c raw lo hi hp hreq ht hlow hscale hhigh hwin
  obtain ⟨hself, -⟩ := validSample_channels p c raw s
  obtain ⟨hs1, hs2⟩ := scaleSample_range hscale raw
  have hrange : ∀ x ∈ joinWindow (channelOf s.meas c).window (scaleSample (scaleOf p c) raw), lo ≤ x ∧ x ≤ hi := by
    intro x hx
    rcases mem_joinWindow hx with h | rfl
    · exact hwin x h
    · exact ⟨by omega, by omega⟩
  have hlen := length_joinWindow (channelOf s.meas c).window (scaleSample (scaleOf p c) raw)
  obtain ⟨hm1, hm2⟩ := windowMean_range hrange hlen.1
  exact ⟨_, sampleValue p c raw s, exec_converterReply_valid raw hp hreq ht, validSample_value p c raw s, hm1, hm2,
    by rw [hself]; exact hrange, by rw [hself]; exact hlen.1, by rw [hself]; exact hlen.2⟩

/-- R22: in PREP, without a grant, a LUBE value sets prelube-done in PRESSURE mode from the prelube pressure on. -/
theorem settle_prelube_value {v : Int} (hprep : s.seq.engine = .starting .prep)
    (hclaim : timerReached s.arb.claimTimer p.crank.claimSettle = false) (hv : freshValue s.meas.lube = some v) :
    (settle p s).seq.engine = .starting .prep
      ∧ ((profileOf p s).mode = .pressure → (profileOf p s).prelubePressure ≤ v → (settle p s).seq.prelubeDone = true)
      ∧ ((profileOf p s).mode = .timed ∨ v < (profileOf p s).prelubePressure →
        (settle p s).seq.prelubeDone = s.seq.prelubeDone) := by
  have q : Quiet p s := ⟨fun d hd => by simp [hprep] at hd, fun _ => hclaim, fun hw => by simp [hprep] at hw⟩
  have hdone := settle_prelubeDone hprep q
  have hholds : prelubeHolds p s
      = (decide ((profileOf p s).mode = .pressure) && decide (((profileOf p s).prelubePressure : Int) ≤ v)) := by
    unfold prelubeHolds freshAtLeast
    rw [hv]
    simp [hprep]
  refine ⟨(settle_engine_quiet q).trans hprep, fun hmode hge => ?_, fun hno => ?_⟩
  · rw [hdone, hholds]
    simp [hmode, hge]
  · have hf : prelubeHolds p s = false := by
      rw [hholds]
      rcases hno with hmode | hlt
      · simp [hmode]
      · simp [hlt]
    rw [hdone, hf, Bool.or_false]

/-- Settles O15: the reply's sample joins its channel's window, and the blocks judge with the new mean. -/
theorem validReplyGivesMean : Obligations.ValidReplyGivesMean := by
  intro p s c raw hp hreq ht
  dsimp only
  obtain ⟨hself, hother, htaken, hrequest, hslot, hspeed, hgate⟩ := validSample_channels p c raw s
  have hk := settle_kept p (channelValue p c (sampleValue p c raw s) (withSample p c raw s))
  have happlied : (channelValue p c (sampleValue p c raw s) (withSample p c raw s)).reader.applied = some p := by
    rw [channelValue_reader, withSample_only]
    exact hp
  have hj := settle_judged happlied
  rw [← validSample_eq] at hk hj
  refine ⟨_, exec_converterReply_valid raw hp hreq ht, ?_, hother, htaken, hrequest.trans hreq, hslot, hspeed, hgate,
    fun hc => ?_, ?_, fun hc => ?_, fun v hc hv hprep hclaim => ?_, fun hc => ?_, hj.outputs⟩
  · rw [hself]
    unfold sampleChannel windowMean
    rw [joinWindow_eq]
    rfl
  · rw [hk.meas, hk.derate1, hk.derate2, hk.hotStop, channelValue_meas, if_neg hc]
    obtain ⟨-, -, -, -, -, -, -, hclass⟩ := withSample_meas p c raw s
    have hlatch : (channelValue p c (sampleValue p c raw s) (withSample p c raw s)).prot.derate1 = s.prot.derate1
        ∧ (channelValue p c (sampleValue p c raw s) (withSample p c raw s)).prot.derate2 = s.prot.derate2
        ∧ (channelValue p c (sampleValue p c raw s) (withSample p c raw s)).prot.hotStop = s.prot.hotStop := by
      cases c with
      | cool => exact absurd rfl hc
      | lube | batt => exact ⟨rfl, rfl, rfl⟩
      | resv =>
        have h := resvValue_apart p (sampleValue p .resv raw s) (withSample p .resv raw s)
        exact ⟨h.derate1, h.derate2, h.hotStop⟩
    exact ⟨hclass, hlatch⟩
  · have h := (channelValue_apart p c (sampleValue p c raw s) (withSample p c raw s)).trans hk.apart
    rw [hk.meas, hk.derate1, hk.derate2, hk.hotStop]
    rw [withSample_only] at h ⊢
    exact h
  · subst hc
    rw [validSample_eq]
    exact settle_lubeFresh rfl
  · subst hc
    rw [hself] at hv
    rw [validSample_eq]
    have hfresh : freshValue (withSample p .lube raw s).meas.lube = some v := hv
    have hprofile : profileOf p (withSample p .lube raw s) = profileOf p s := rfl
    have h := settle_prelube_value (p := p) (s := withSample p .lube raw s) hprep hclaim hfresh
    rw [hprofile, withSample_seq] at h
    rw [show channelValue p .lube (sampleValue p .lube raw s) (withSample p .lube raw s) = withSample p .lube raw s from rfl]
    exact h
  · have hu : channelValue p c (sampleValue p c raw s) (withSample p c raw s) = withSample p c raw s := by
      rcases hc with rfl | rfl <;> rfl
    rw [hk.meas, hu, ← withSample_only, ← hu]
    exact hj

/-! ### The reservoir below the crank floor -/

/-- R27: the state of a crank that ends FLOOR. -/
theorem floorCrank_state (s : State) :
    (floorCrank s).seq.engine = .stopping .prep ∧ (floorCrank s).seq.attempts = s.seq.attempts
      ∧ (floorCrank s).seq.crankCount = s.seq.crankCount ∧ (floorCrank s).arb.rotation = s.arb.rotation
      ∧ (floorCrank s).arb.claims = dropClaim .own s.arb.claims
      ∧ (floorCrank s).seq.record = (endAttempt .floor s).seq.record
      ∧ (floorCrank s).link.queue = queueAfter (.made (.crankOff floorByte (levelByte (ownClaim s).level)
          (ownClaim s).serial s.seq.crankCount)) s := by
  unfold floorCrank
  rw [enterState_link, enterState_arb, enterState_seq, endCrankUncounted_eq]
  exact ⟨rfl, rfl, rfl, rfl, rfl, rfl, rfl⟩

/-- A STOPPING station not at rest keeps its destination, its claims and its record, and every output is off. -/
theorem settle_stopping_still {d : StopDest} (h : s.seq.engine = .stopping d) (hr : atRest p s = false) :
    (settle p s).seq.engine = .stopping d ∧ Still s (settle p s) ∧ allOff (settle p s) := by
  have he := settle_stopping h hr
  exact ⟨he, settle_still (quiet_stopping h hr), settle_allOff (by simp [he]) (by simp [he])⟩

/-- Settles O19: a RESV value below the floor ends the crank before the blocks judge, uncounted. -/
theorem reservoirFloorEndsCrank : Obligations.ReservoirFloorEndsCrank := by
  refine ⟨rfl, fun p s raw c hp hreq ht hcrank hclaim => ?_⟩
  refine ⟨_, sampleValue p .resv raw s, exec_converterReply_valid raw hp hreq ht, ?_, fun hlow => ?_, fun hhigh => ?_⟩
  · simpa only [channelOf] using validSample_value p .resv raw s
  · have hu : channelValue p .resv (sampleValue p .resv raw s) (withSample p .resv raw s)
        = floorCrank (withSample p .resv raw s) := if_pos ⟨hcrank, hlow⟩
    rw [validSample_eq, hu]
    obtain ⟨hengine, hattempts, hcount, hrotation, hclaims, hrecord, hqueue⟩ := floorCrank_state (withSample p .resv raw s)
    have hk := settle_kept p (floorCrank (withSample p .resv raw s))
    have hspeed : (floorCrank (withSample p .resv raw s)).meas.speed = s.meas.speed := by
      rw [(floorCrank_apart _).meas]
      rfl
    have hown : ownClaim (withSample p .resv raw s) = c := ownClaim_of_claimOf hclaim
    refine ⟨hk.crankCount.trans hcount, (settle_attempts (by rw [hengine]; exact .inr rfl)).trans hattempts,
      hk.rotation.trans hrotation, fun hopen => ?_, fun hturning => ?_, fun hrest hsettle => ?_⟩
    · rw [← hown]
      exact asked_settle_crankOff (s := withSample p .resv raw s) hopen hqueue
    · have hr : atRest p (floorCrank (withSample p .resv raw s)) = false := by
        unfold atRest
        rw [hspeed]
        exact decide_eq_false (by omega)
      obtain ⟨he, hstill, hoff⟩ := settle_stopping_still hengine hr
      refine ⟨he, ?_, ?_, hoff⟩
      · rw [hstill.arb, hclaims]
        exact claimOf_dropClaim_self _ _
      · refine attemptClosed_of (by rw [hstill.meas]; exact hspeed) ?_
        rw [hstill.seq]
        refine hrecord.trans ?_
        rw [endAttempt_record, endAttempt_record]
        rfl
    · have hr : atRest p (floorCrank (withSample p .resv raw s)) = true := by
        unfold atRest
        rw [hspeed]
        exact decide_eq_true hrest
      exact settle_arrival_prep_engine hengine hr hsettle
  · have hu : channelValue p .resv (sampleValue p .resv raw s) (withSample p .resv raw s) = withSample p .resv raw s :=
      if_neg fun h => absurd h.2 (by omega)
    rw [validSample_eq, hu]
    have hengine : (withSample p .resv raw s).seq.engine = .starting .crank := hcrank
    have q : Quiet p (withSample p .resv raw s) :=
      quiet_of_restful (by rw [hengine]; rfl)
    exact ⟨(settle_engine_quiet q).trans hengine, (settle_still q).arb⟩

end Sys2Proof.Machine

/-! The transmit queue's order (R157), the sending of frames, and what a run of the make-up calculator gives. -/

namespace Sys2Proof.Machine

variable {s t u : State} {p : Params}

/-! ### The transmit queue -/

/-- R157: the pairs of kinds of which one cancels the other. -/
theorem cancelledKind_iff {a b : Nat} : cancelledKind a = some b ↔ (a, b) ∈ [(4, 3), (3, 4), (8, 7), (7, 8)] := by
  unfold cancelledKind
  split <;> grind

section Enqueue
variable {f : TxFrame} {q : List TxFrame}

/-- R157 step 3: the queue without the frame that a request cancels. -/
def uncancelled (f : TxFrame) (q : List TxFrame) : List TxFrame :=
  q.filter fun g => decide (cancelledKind (txKind f) ≠ some (txKind g))

theorem mem_uncancelled {g : TxFrame} : g ∈ uncancelled f q ↔ g ∈ q ∧ cancelledKind (txKind f) ≠ some (txKind g) := by
  simp [uncancelled]

theorem enqueue_replaces (h : ∃ g ∈ q, txKind g = txKind f) :
    enqueue f q = q.map fun g => if txKind g = txKind f then f else g := by
  unfold enqueue
  rw [if_pos]
  obtain ⟨g, hg, hk⟩ := h
  exact List.any_eq_true.mpr ⟨g, hg, by simp [hk]⟩

theorem enqueue_new (h : ∀ g ∈ q, txKind g ≠ txKind f) : enqueue f q = (
    if (uncancelled f q).length < 8 then insertFrame f (uncancelled f q)
    else match (uncancelled f q).getLast? with
      | some g => if txKind f < txKind g then insertFrame f (uncancelled f q).dropLast else uncancelled f q
      | none => insertFrame f (uncancelled f q)) := by
  unfold enqueue
  rw [if_neg]
  · rfl
  · rw [List.any_eq_true]
    rintro ⟨g, hg, hk⟩
    exact h g hg (by simpa using hk)

theorem enqueue_joins (h : ∀ g ∈ q, txKind g ≠ txKind f) (hl : (uncancelled f q).length < 8) :
    enqueue f q = insertFrame f (uncancelled f q) := by
  rw [enqueue_new h, if_pos hl]

/-- A full queue of which nothing is cancelled takes a frame in the place of its last, or discards it. -/
theorem enqueue_full (h : ∀ g ∈ q, txKind g ≠ txKind f) (hc : ∀ g ∈ q, cancelledKind (txKind f) ≠ some (txKind g))
    (hl : q.length = 8) {last : TxFrame} (hlast : q.getLast? = some last) :
    enqueue f q = if txKind f < txKind last then insertFrame f q.dropLast else q := by
  have hq : uncancelled f q = q := List.filter_eq_self.mpr fun g hg => by simpa using hc g hg
  rw [enqueue_new h, hq, if_neg (by omega), hlast]

theorem length_uncancelled (h : ∃ g ∈ q, cancelledKind (txKind f) = some (txKind g)) :
    (uncancelled f q).length < q.length := by
  refine List.length_filter_lt_length_iff_exists.mpr ?_
  obtain ⟨g, hg, hc⟩ := h
  exact ⟨g, hg, by simp [hc]⟩

theorem uncancelled_room (hl : q.length ≤ 8) (h : q.length < 8 ∨ ∃ g ∈ q, cancelledKind (txKind f) = some (txKind g)) :
    (uncancelled f q).length < 8 := by
  rcases h with h | h
  · exact Nat.lt_of_le_of_lt (List.length_filter_le _ q) h
  · exact Nat.lt_of_lt_of_le (length_uncancelled h) hl

theorem mem_enqueue_replaced (h : ∃ g ∈ q, txKind g = txKind f) : f ∈ enqueue f q := by
  rw [enqueue_replaces h]
  obtain ⟨g, hg, hk⟩ := h
  exact List.mem_map.mpr ⟨g, hg, if_pos hk⟩

theorem mem_enqueue_kept {g : TxFrame} (h : ∃ x ∈ q, txKind x = txKind f) (hg : g ∈ q) (hk : txKind g ≠ txKind f) :
    g ∈ enqueue f q := by
  rw [enqueue_replaces h]
  exact List.mem_map.mpr ⟨g, hg, if_neg hk⟩

/-- A frame of the lowest kind joins every queue. -/
theorem mem_enqueue_lowest (hl : q.length ≤ 8) (h : ∀ g ∈ q, txKind f ≤ txKind g) : f ∈ enqueue f q := by
  by_cases hsame : ∃ g ∈ q, txKind g = txKind f
  · exact mem_enqueue_replaced hsame
  · have hnew : ∀ g ∈ q, txKind g ≠ txKind f := fun g hg hk => hsame ⟨g, hg, hk⟩
    by_cases hroom : q.length < 8 ∨ ∃ g ∈ q, cancelledKind (txKind f) = some (txKind g)
    · rw [enqueue_joins hnew (uncancelled_room hl hroom), mem_insertFrame]
      exact .inl rfl
    · obtain ⟨hfull, hc⟩ := not_or.mp hroom
      have hne : q ≠ [] := by rintro rfl; simp at hfull
      obtain ⟨last, hlast⟩ : ∃ last, q.getLast? = some last := ⟨_, List.getLast?_eq_some_getLast hne⟩
      have hm := List.mem_of_getLast? hlast
      rw [enqueue_full hnew (fun g hg k => hc ⟨g, hg, k⟩) (by omega) hlast,
        if_pos (Nat.lt_of_le_of_ne (h last hm) (hnew last hm).symm), mem_insertFrame]
      exact .inl rfl

/-- Settles O56: the request's four ways, frame of its kind replaced, frame cancelled, room, and a full queue. -/
theorem queueKeepsItsOrder : Obligations.QueueKeepsItsOrder := by
  intro f q hl horder cancels
  have hcancels (g : TxFrame) : cancels g ↔ cancelledKind (txKind f) = some (txKind g) := cancelledKind_iff.symm
  refine ⟨length_enqueue f hl, enqueue_inOrder f horder, fun g hg => mem_of_mem_enqueue hg, mem_enqueue_lowest hl,
    mem_enqueue_self, fun hsame => ⟨mem_enqueue_replaced hsame, fun g hg hk => mem_enqueue_kept hsame hg hk⟩, fun hnew => ?_⟩
  refine ⟨fun g hg hc hm => ?_, fun hroom => ?_, fun hfull hc last hlast => ?_⟩
  · have hroom := uncancelled_room hl (.inr ⟨g, hg, (hcancels g).mp hc⟩)
    rw [enqueue_joins hnew hroom, mem_insertFrame] at hm
    rcases hm with rfl | hm
    · exact hnew g hg rfl
    · exact (mem_uncancelled.mp hm).2 ((hcancels g).mp hc)
  · have hroom := uncancelled_room hl (hroom.imp_right fun ⟨g, hg, hc⟩ => ⟨g, hg, (hcancels g).mp hc⟩)
    rw [enqueue_joins hnew hroom]
    refine ⟨(mem_insertFrame _ _ _).mpr (.inl rfl), fun g hg hc => (mem_insertFrame _ _ _).mpr (.inr ?_)⟩
    exact mem_uncancelled.mpr ⟨hg, fun k => hc ((hcancels g).mpr k)⟩
  · have hfull := enqueue_full hnew (fun g hg k => hc g hg ((hcancels g).mpr k)) hfull hlast
    have hsplit : q.dropLast ++ [last] = q := List.dropLast_append_getLast? last hlast
    refine ⟨fun hlt => ?_, fun hgt => by rw [hfull, if_neg (by omega)]⟩
    rw [hfull, if_pos hlt]
    refine ⟨(mem_insertFrame _ _ _).mpr (.inl rfl), fun hm => ?_, fun g hg hne => (mem_insertFrame _ _ _).mpr (.inr ?_)⟩
    · rcases (mem_insertFrame _ _ _).mp hm with rfl | hm
      · omega
      · rw [← hsplit] at horder
        have := (List.pairwise_append.mp horder).2.2 last hm last (by simp)
        omega
    · rw [← hsplit] at hg
      rcases List.mem_append.mp hg with hg | hg
      · exact hg
      · exact absurd (List.mem_singleton.mp hg) hne

end Enqueue

/-! ### Prelube by time -/

theorem phaseLimit_due {ph : Phase} {limit us : Nat} (he : s.seq.engine = .starting ph)
    (ht : s.seq.phaseTimer = some us) (h : limit * 1000000 ≤ us) : phaseLimit ph limit s = true := by
  unfold phaseLimit
  rw [he, timerReached_due (ms := limit * 1000) ht (by rw [Nat.mul_assoc]; exact h)]
  simp

theorem phaseLimit_short {ph : Phase} {limit us : Nat} (ht : s.seq.phaseTimer = some us) (h : us < limit * 1000000) :
    phaseLimit ph limit s = false := by
  unfold phaseLimit
  rw [timerReached_short (ms := limit * 1000) ht (by rw [Nat.mul_assoc]; exact h)]
  simp

/-- The state in which the prelube-done mark has just been set. -/
def markPrelubed (s : State) : State := { s with seq := { s.seq with prelubeDone := true } }

theorem markPrelubed_quiet (q : Quiet p s) : Quiet p (markPrelubed s) := ⟨q.moving, q.ungranted, q.unwatched⟩

theorem prelubeTimeExpiry_eq (hp : s.reader.applied = some p) : exec .prelubeTimeExpiry s =
    .next (if phaseLimit .prep (profileOf p s).prelubeTime s ∧ (profileOf p s).mode = .timed ∧ !s.seq.prelubeDone then
      settle p (markPrelubed s) else s) :=
  next_withParams hp _

/-- Settles O28: at the prelube time of TIMED mode the mark is set, and in a quiet station it stands. -/
theorem prelubeTimeSetsDone : Obligations.PrelubeTimeSetsDone := by
  intro p s us hp hprep hmode hdone htimer
  refine ⟨fun hdue => ⟨settle p (markPrelubed s), ?_, settle_judged hp, fun q => ?_⟩, fun hshort => ?_⟩
  · rw [prelubeTimeExpiry_eq hp, if_pos ⟨phaseLimit_due hprep htimer (by omega), hmode, by simp [hdone]⟩]
  · have q' := markPrelubed_quiet q
    have hprep' : (markPrelubed s).seq.engine = .starting .prep := hprep
    rw [settle_prelubeDone hprep' q', settle_engine_quiet q']
    exact ⟨rfl, hprep⟩
  · rw [prelubeTimeExpiry_eq hp, if_neg]
    rintro ⟨h, -⟩
    rw [phaseLimit_short htimer (by omega)] at h
    cases h

/-! ### Lost, failed and sent frames -/

/-- Settles O52: each outcome of a try that is on the line. -/
theorem transmitOutcomes : Obligations.TransmitOutcomes := by
  intro p s b hp hb hline
  have error : exec .transmitError s = .next { s with link := { s.link with
      buffer := if b.tries < 3 then some { b with tries := b.tries + 1, onLine := false } else none
      receive := .receiving } } := by
    refine (next_withParams hp _).trans ?_
    rw [hb]
    dsimp only
    rw [if_pos hline]
  have hsending : sending s = true := by
    unfold sending
    rw [hb]
    exact hline
  refine ⟨?_, fun h => by rw [error, if_pos h], fun h => by rw [error, if_neg (by omega)], ?_⟩
  · refine (next_withParams hp _).trans ?_
    rw [hb]
    dsimp only
    rw [if_pos hline]
  · generalize hv : placeStation { s with link := { s.link with buffer := none, receive := .waitingIdle } } = v
    have hplaced : v = { s with
        link := { s.link with buffer := none, receive := .waitingIdle }
        arb := { s.arb with
          rotation := v.arb.rotation, placed := true, crossing := v.arb.crossing } }
        ∧ v.arb.rotation = (if s.arb.placed then s.arb.rotation else toTail .own s.arb.rotation) := by
      rw [← hv]
      unfold placeStation
      by_cases h : s.arb.placed
      · rw [if_pos (show ({ s with link := { s.link with buffer := none, receive := .waitingIdle } } : State).arb.placed = true from h), if_pos h]
        refine ⟨?_, rfl⟩
        conv_lhs => rw [show s.arb = { s.arb with placed := true } from by rw [← h]]
      · rw [if_neg (show ¬({ s with link := { s.link with buffer := none, receive := .waitingIdle } } : State).arb.placed = true from h), if_neg h]
        exact ⟨rfl, rfl⟩
    have hk := settle_kept p v
    have hplace : v.arb.placed = true := by rw [hplaced.1]
    have happlied : v.reader.applied = some p := by rw [hplaced.1]; exact hp
    refine ⟨settle p v, (next_withParams hp _).trans (by rw [if_pos hsending, hv]), ?_, ?_, hk.placed.trans hplace,
      hk.rotation.trans hplaced.2, ?_⟩
    · rw [hk.link, hplaced.1]
    · rw [hk.link, hplaced.1]
    · have e : ({ s with
          link := { (settle p v).link with queue := s.link.queue }
          arb := { s.arb with
            rotation := (settle p v).arb.rotation, placed := true, crossing := (settle p v).arb.crossing } } : State) = v := by
        rw [hk.link, hk.rotation, hk.crossing]
        exact (congrArg (fun w : State => ({ s with
          link := { w.link with queue := s.link.queue }
          arb := { s.arb with rotation := w.arb.rotation, placed := true, crossing := w.arb.crossing } } : State))
            hplaced.1).trans hplaced.1.symm
      rw [e]
      exact settle_judged happlied

end Sys2Proof.Machine

/-! PROOFS. What a run of the make-up calculator gives (R127 to R131). -/

namespace Sys2Proof.Machine

variable {s : State} {p : Params}

theorem makeUpTop_val (p : Params) (h v : Row) :
    (makeUpTop p h v).val = min (min (h.val + p.step.makeUpLimit) 9) v.val := by
  have : ((Fin.ofNat 10 (min (h.val + p.step.makeUpLimit) 9)) : Row).val = min (h.val + p.step.makeUpLimit) 9 := by
    show (min (h.val + p.step.makeUpLimit) 9) % 10 = _
    omega
  rw [makeUpTop, rowMin_val, this]

/-! ### The highest row within a power -/

theorem highestRow_ge (t : Config.NotchTable) (target : Nat) (low : Row) : ∀ n, low.val + n ≤ 9 →
    low.val ≤ (highestRow t target low n).val
  | 0, _ => Nat.le_refl _
  | n + 1, hn => by
    unfold highestRow
    dsimp only
    split
    · show low.val ≤ (min (low.val + n + 1) 9) % 10
      omega
    · exact highestRow_ge t target low n (by omega)

theorem highestRow_within {t : Config.NotchTable} {target : Nat} {low : Row} (h : powerOf t low ≤ target) : ∀ n,
    powerOf t (highestRow t target low n) ≤ target
  | 0 => h
  | n + 1 => by
    unfold highestRow
    dsimp only
    split
    · assumption
    · exact highestRow_within h n

theorem above_highestRow {t : Config.NotchTable} {target : Nat} {low : Row} : ∀ n, low.val + n ≤ 9 →
    ∀ x : Row, (highestRow t target low n).val < x.val → x.val ≤ low.val + n → target < powerOf t x
  | 0, _, x, hlt, hle => absurd (show low.val < x.val from hlt) (by omega)
  | n + 1, hn, x, hlt, hle => by
    unfold highestRow at hlt
    dsimp only at hlt
    have top : ((Fin.ofNat 10 (min (low.val + n + 1) 9)) : Row).val = low.val + n + 1 := by
      show (min (low.val + n + 1) 9) % 10 = _
      omega
    split at hlt
    · omega
    · next hover =>
      by_cases hx : x.val = low.val + n + 1
      · rw [Fin.ext (hx.trans top.symm)]
        omega
      · exact above_highestRow n (by omega) x hlt (by omega)

theorem makeUpRowOf_some {t : Config.NotchTable} {h v r : Row} {extra : Nat}
    (hr : makeUpRowOf p t h v extra = some r) :
    extra ≠ 0 ∧ h.val < r.val ∧ r.val ≤ v.val ∧ powerOf t r ≤ powerOf t h + extra
    ∧ ∀ x : Row, r.val < x.val → x.val ≤ h.val + p.step.makeUpLimit → x.val ≤ v.val →
        powerOf t h + extra < powerOf t x := by
  have top := makeUpTop_val p h v
  unfold makeUpRowOf at hr
  split at hr
  · cases hr
  · next hextra =>
    dsimp only at hr
    split at hr
    · cases hr
    · next hne =>
      rw [← Option.some.inj hr]
      have room : h.val + ((makeUpTop p h v).val - h.val) ≤ 9 := by omega
      have hge := highestRow_ge t (powerOf t h + extra) h _ room
      have hle := highestRow_le t (powerOf t h + extra) h ((makeUpTop p h v).val - h.val)
      have hlt := Nat.lt_of_le_of_ne hge fun e => hne (Fin.ext e.symm)
      exact ⟨hextra, hlt, by omega, highestRow_within (by omega) _,
        fun x hx hM hv => above_highestRow _ room x hx (by omega)⟩

theorem makeUpRowOf_none {t : Config.NotchTable} {h v : Row} {extra : Nat}
    (hr : makeUpRowOf p t h v extra = none) : extra = 0 ∨ ∀ x : Row, h.val < x.val →
      x.val ≤ h.val + p.step.makeUpLimit → x.val ≤ v.val → powerOf t h + extra < powerOf t x := by
  have top := makeUpTop_val p h v
  unfold makeUpRowOf at hr
  split at hr
  · next hextra => exact .inl hextra
  · dsimp only at hr
    split at hr
    · next hsame =>
      have room : h.val + ((makeUpTop p h v).val - h.val) ≤ 9 := by omega
      exact .inr fun x hx hM hv => above_highestRow _ room x (by rw [hsame]; exact hx) (by omega)
    · cases hr

/-! ### The extra and the sums -/

theorem extraOf_le (p : Params) (h : Row) (shortfall total headroom : Nat) :
    extraOf p h shortfall total headroom ≤ headroom := by
  unfold extraOf
  split
  · exact Nat.min_le_left _ _
  · exact Nat.zero_le _

theorem of_extraOf_ne_zero {h : Row} {shortfall total headroom : Nat} (he : extraOf p h shortfall total headroom ≠ 0) :
    2 ≤ h.val ∧ 0 < shortfall ∧ 0 < headroom := by
  unfold extraOf at he
  split at he
  · next hc =>
    obtain ⟨-, -, hrow, hshort, -, hroom⟩ := hc
    exact ⟨hrow, hshort, hroom⟩
  · exact absurd rfl he

/-- A figure of the status part of an entry, 0 without one. -/
def peerFigure (f : StatusContent → Nat) (e : RosterEntry) : Nat :=
  match e.status with
  | some c => f c
  | none => 0

theorem countedPeers_sum (f : StatusContent → Nat) (s : State) :
    ((countedPeers s).map fun e => f e.2).sum = (s.roster.entries.map (peerFigure f)).sum := by
  unfold countedPeers
  induction s.roster.entries with
  | nil => rfl
  | cons e es ih =>
    rw [List.filterMap_cons]
    cases he : e.status with
    | none => simp [peerFigure, he, ih]
    | some c => simp [peerFigure, he, ih]

theorem countedPeers_units (s : State) :
    (countedPeers s).map (·.1) = (s.roster.entries.filter (·.status.isSome)).map (·.unit) := by
  unfold countedPeers
  induction s.roster.entries with
  | nil => rfl
  | cons e es ih =>
    rw [List.filterMap_cons]
    cases he : e.status with
    | none => simp [he, ih]
    | some c => simp [he, ih]

theorem sum_peerFigure_le {f : StatusContent → Nat} {es : List RosterEntry} {b : Nat} (hlen : es.length ≤ 7)
    (hb : ∀ e ∈ es, ∀ c, e.status = some c → f c ≤ b) : (es.map (peerFigure f)).sum ≤ 7 * b := by
  have each : ∀ n ∈ es.map (peerFigure f), n ≤ b := by
    intro n hn
    obtain ⟨e, he, rfl⟩ := List.mem_map.mp hn
    cases hc : e.status with
    | none => simp [peerFigure, hc]
    | some c => simpa [peerFigure, hc] using hb e he c hc
  calc (es.map (peerFigure f)).sum ≤ (es.map (peerFigure f)).length * b := List.sum_le_card_nsmul _ _ each
    _ ≤ 7 * b := Nat.mul_le_mul_right _ (by rw [List.length_map]; exact hlen)

theorem makeUpRun_shortfall : (makeUpRun p s).shortfall =
    (s.roster.entries.map (peerFigure fun c => c.rated - c.avail)).sum :=
  countedPeers_sum (fun c => c.rated - c.avail) s

theorem makeUpRun_total : (makeUpRun p s).total =
    (makeUpRun p s).headroom + (s.roster.entries.map (peerFigure (·.headroom))).sum :=
  congrArg (_ + ·) (countedPeers_sum (·.headroom) s)

/-! ### The own figures -/

/-- R127: a station gives power while it is in RUNNING and not isolated. -/
theorem gives_iff : (isRunning s && !isolated s) = true ↔ s.seq.engine = .running ∧ isolated s = false := by
  simp [isRunning]

theorem ownFigures_low (h : (demandInForce s).row.val < 2) :
    ownFigures p s = { rated := 0, avail := 0, headroom := 0 } := if_pos h

theorem ownFigures_demand (h : 2 ≤ (demandInForce s).row.val) : ownFigures p s =
    { rated := powerOf (tableInForce p s) (demandInForce s).row
      avail := if (isRunning s && !isolated s && !linkSilent s) = true then
          powerOf (tableInForce p s) (rowMin (demandInForce s).row s.prot.available) else 0
      headroom := if (isRunning s && !isolated s && decide ((demandInForce s).row.val ≤ s.prot.available.val)
            && p.step.makeUpEnable) = true then
          powerOf (tableInForce p s) (makeUpTop p (demandInForce s).row s.prot.available)
            - powerOf (tableInForce p s) (demandInForce s).row else 0 } :=
  if_neg (by omega)

/-- Settles O46: a run's figures, sums, extra and row, each from its own function's lemma. -/
theorem makeUpStaysWithinLimits : Obligations.MakeUpStaysWithinLimits := by
  intro p s m t h v gives
  have hgives : (isRunning s && !isolated s) = true ↔ gives := gives_iff
  refine ⟨fun hlow => ?_, fun hrow => ⟨?_, fun hg hl => ?_, fun hn => ?_, fun top hg hv he htop => ?_, fun hn => ?_⟩,
    makeUpRun_shortfall, makeUpRun_total, countedPeers_units s, rfl, extraOf_le _ _ _ _ _, fun r hr => ?_,
    makeUpRowOf_none, fun hlen hb => ?_⟩
  · have own := ownFigures_low (p := p) hlow
    exact ⟨congrArg (·.rated) own, congrArg (·.avail) own, congrArg (·.headroom) own⟩
  · exact congrArg (·.rated) (ownFigures_demand hrow)
  · refine (congrArg (·.avail) (ownFigures_demand hrow)).trans (if_pos ?_)
    rw [hgives.mpr hg, hl]
    rfl
  · refine (congrArg (·.avail) (ownFigures_demand hrow)).trans (if_neg fun hc => ?_)
    obtain ⟨hg, hs⟩ := Bool.and_eq_true_iff.mp hc
    rcases hn with hn | hn
    · exact hn (hgives.mp hg)
    · rw [hn] at hs
      cases hs
  · have htop' : makeUpTop p h v = top := Fin.ext ((makeUpTop_val p h v).trans htop.symm)
    refine (congrArg (·.headroom) (ownFigures_demand hrow)).trans ((if_pos ?_).trans (by rw [htop']))
    rw [hgives.mpr hg, decide_eq_true hv, he]
    rfl
  · refine (congrArg (·.headroom) (ownFigures_demand hrow)).trans (if_neg fun hc => ?_)
    obtain ⟨hc, he⟩ := Bool.and_eq_true_iff.mp hc
    obtain ⟨hg, hv⟩ := Bool.and_eq_true_iff.mp hc
    rcases hn with hn | hn | hn
    · exact hn (hgives.mp hg)
    · exact absurd (of_decide_eq_true hv) (by omega)
    · rw [hn] at he
      cases he
  · obtain ⟨hextra, hlt, hv, hpow, habove⟩ := makeUpRowOf_some hr
    obtain ⟨hrow, hshort, hroom⟩ := of_extraOf_ne_zero hextra
    exact ⟨hrow, hlt, makeUpRowOf_le hr, hv, hpow, hshort, hroom, habove⟩
  · have hshort := sum_peerFigure_le (f := fun c => c.rated - c.avail) (b := 1000) hlen
      fun e he c hc => Nat.le_trans (Nat.sub_le _ _) (hb e he c hc).1
    have htotal := sum_peerFigure_le (f := (·.headroom)) (b := 1000) hlen fun e he c hc => (hb e he c hc).2
    rw [← makeUpRun_shortfall (p := p)] at hshort
    have total := makeUpRun_total (p := p) (s := s)
    show (makeUpRun p s).shortfall ≤ 7000 ∧ (makeUpRun p s).total ≤ 7000 + (makeUpRun p s).headroom
    omega

end Sys2Proof.Machine

/-! PROOFS. Sense returns, a peer's crank limit, the protection timers and the silence of a peer. -/

namespace Sys2Proof.Machine

variable {s t u : State} {p : Params}

/-! ### Lines under the judgements -/

theorem sensed_congr (hr : t.reader = s.reader) {out : Output}
    (hs : (outputOf t.lines out).sense = (outputOf s.lines out).sense) : sensed t out = sensed s out := by
  unfold sensed
  rw [hr, hs]

theorem Apart.sensed (h : Apart s t) (out : Output) : sensed t out = sensed s out := sensed_congr h.reader (h.sense out)

theorem Apart.sensedOn (h : Apart s t) (out : Output) : sensedOn t out = sensedOn s out := by
  unfold Machine.sensedOn
  rw [h.sensed]

theorem settleRound_judgeLine (p : Params) (s : State) (out : Output) : ∃ l,
    outputOf (settleRound p s).lines out = judgeLine (outputOf (settleRound p s).lines out).command (sensedOn s out) l := by
  obtain ⟨v, hv, hk⟩ : ∃ v, settleRound p s = settleLamps (settleOutputs p v) ∧ Kept s (settleLamps (settleOutputs p v)) :=
    ⟨_, rfl, settleRound_kept p s⟩
  have hline : outputOf (settleLamps (settleOutputs p v)).lines out
      = judgeLine (resolvedCommand v out) (sensedOn v out) (outputOf v.lines out) := by cases out <;> rfl
  have hsense : sensedOn v out = sensedOn s out := by
    rw [← hk.apart.sensedOn out]
    unfold sensedOn
    exact congrArg (·.getD false) (sensed_congr (s := settleLamps (settleOutputs p v)) (t := v) rfl
      ((congrArg (·.sense) hline).trans (judgeLine_sense _ _ _)).symm)
  rw [hv]
  exact ⟨outputOf v.lines out, by rw [hline, judgeLine_command, hsense]⟩

/-- A line whose command agrees with its sense return has neither mismatch timer nor present fault. -/
theorem settle_agrees {out : Output} (h : (outputOf (settle p s).lines out).command = sensedOn s out) :
    (outputOf (settle p s).lines out).mismatch = none ∧ (outputOf (settle p s).lines out).present = .none := by
  obtain ⟨l, hl⟩ := settleRound_judgeLine p (settleRound p (settleRound p s)) out
  have hs : sensedOn (settleRound p (settleRound p s)) out = sensedOn s out :=
    ((settleRound_kept p s).trans (settleRound_kept p _)).apart.sensedOn out
  rw [show settleRound p (settleRound p (settleRound p s)) = settle p s from rfl, h, hs] at hl
  rw [hl, judgeLine, if_pos rfl]
  exact ⟨rfl, rfl⟩

/-! ### A block that the command itself moved -/

theorem Apart.own_arb {b : Arbiter} (h : Apart { s with arb := b } t) : Apart { s with arb := t.arb } t :=
  { h with joinTimer := rfl, placed := rfl, expired := rfl, peerClaims := rfl }

theorem Apart.own_roster_arb {r : Roster} {b : Arbiter} (h : Apart { s with roster := r, arb := b } t) :
    Apart { s with roster := t.roster, arb := t.arb } t :=
  { h with roster := rfl, joinTimer := rfl, placed := rfl, expired := rfl, peerClaims := rfl }

theorem Apart.own_lines {l : LineDriver} (h : Apart { s with lines := l } t) : Apart { s with lines := t.lines } t :=
  { h with driven := rfl, polarities := rfl, sense := fun _ => rfl, last := fun _ => rfl }

/-! ### Sense returns -/

theorem updateOutput_only (out : Output) (f : OutputLine → OutputLine) (s : State) :
    updateOutput out f s = { s with lines := (updateOutput out f s).lines } := rfl

theorem updateOutput_others {f : OutputLine → OutputLine} {α : Type} (g : OutputLine → α) (hg : ∀ l, g (f l) = g l)
    (out o : Output) (s : State) : g (outputOf (updateOutput out f s).lines o) = g (outputOf s.lines o) := by
  by_cases h : o = out
  · rw [h, outputOf_updateOutput_self, hg]
  · rw [outputOf_updateOutput_other (s := s) f h]

theorem debounceDue_iff (d : Debounce) : debounceDue d = true ↔ 20000 ≤ d.stable ∧ d.settled ≠ some d.raw := by
  unfold debounceDue
  simp

theorem rawChange_eq (level : Bool) (d : Debounce) :
    rawChange level d = if d.raw = level then d else { d with raw := level, stable := 0 } := by
  unfold rawChange
  simp only [eq_comm]

/-- The state with one sense return's debounced level taken. -/
def senseTaken (out : Output) (s : State) : State := updateOutput out (fun l => { l with sense := debounceTaken l.sense }) s

theorem senseTaken_sense (out : Output) (s : State) :
    (outputOf (senseTaken out s).lines out).sense = debounceTaken (outputOf s.lines out).sense := by
  unfold senseTaken
  rw [outputOf_updateOutput_self]

theorem senseTaken_other {out o : Output} (h : o ≠ out) (s : State) :
    outputOf (senseTaken out s).lines o = outputOf s.lines o := outputOf_updateOutput_other (s := s) _ h

theorem senseTaken_same {α : Type} (g : OutputLine → α) (hg : ∀ (l : OutputLine) d, g { l with sense := d } = g l)
    (out o : Output) (s : State) : g (outputOf (senseTaken out s).lines o) = g (outputOf s.lines o) :=
  updateOutput_others g (fun l => hg l _) out o s

theorem senseDebounce_due {out : Output} (h : debounceDue (outputOf s.lines out).sense = true) :
    exec (.senseDebounceTimeout out) s = .next (match s.reader.applied with
      | none => senseTaken out s
      | some p => settle p (senseTaken out s)) := by
  show execSenseDebounceTimeout out s = _
  unfold execSenseDebounceTimeout
  rw [if_pos h]
  rfl

/-- Settles O49: before handover only the debounced level changes; after it the judgements follow, which leave every
sense return and last fault. -/
theorem senseIsDebounced : Obligations.SenseIsDebounced := by
  intro s out level d
  refine ⟨⟨_, rfl, updateOutput_only _ _ s, ?_, fun o ho => outputOf_updateOutput_other (s := s) _ ho⟩, fun hd hne => ?_,
    fun h => ?_⟩
  · rw [outputOf_updateOutput_self, rawChange_eq]
  · have run := senseDebounce_due (s := s) ((debounceDue_iff d).mpr ⟨hd, hne⟩)
    have last (o : Output) := senseTaken_same (·.last) (fun _ _ => rfl) out o s
    cases happ : s.reader.applied with
    | none =>
      rw [happ] at run
      refine ⟨senseTaken out s, run, senseTaken_sense out s, fun o ho => congrArg (·.sense) (senseTaken_other ho s), last,
        fun _ => ⟨rfl, fun o => ⟨?_, senseTaken_same (·.command) (fun _ _ => rfl) out o s,
          senseTaken_same (·.mismatch) (fun _ _ => rfl) out o s, senseTaken_same (·.present) (fun _ _ => rfl) out o s⟩⟩,
        fun p hp => (by cases hp), .of_blocks⟩
      unfold sensed
      rw [show (senseTaken out s).reader = s.reader from rfl, happ]
    | some p =>
      rw [happ] at run
      dsimp only at run
      have k := settle_kept p (senseTaken out s)
      have hsense : (outputOf (settle p (senseTaken out s)).lines out).sense = { d with settled := some d.raw } :=
        (k.sense out).trans (senseTaken_sense out s)
      have hother (o : Output) (ho : o ≠ out) : (outputOf (settle p (senseTaken out s)).lines o).sense
          = (outputOf s.lines o).sense := (k.sense o).trans (congrArg (·.sense) (senseTaken_other ho s))
      have hsensed : sensed (senseTaken out s) out = some (levelOn (outputParams p.lines out).sensePolarity d.raw) := by
        unfold sensed
        rw [show (senseTaken out s).reader = s.reader from rfl, happ, senseTaken_sense]
        rfl
      refine ⟨_, run, hsense, hother, fun o => (k.last o).trans (last o), nofun, fun q hq => ?_, ?_⟩
      · cases hq
        refine ⟨(k.apart.sensed out).trans hsensed,
          fun o ho => (k.apart.sensed o).trans (sensed_congr (s := s) (t := senseTaken out s) rfl (congrArg (·.sense) (senseTaken_other ho s))), fun hc => settle_agrees (hc.trans ?_)⟩
        unfold sensedOn
        rw [hsensed]
        rfl
      · exact Apart.own_lines (l := (senseTaken out s).lines) k.apart
  · show execSenseDebounceTimeout out s = _
    unfold execSenseDebounceTimeout
    rw [if_neg]
    rw [debounceDue_iff]
    rintro ⟨hd, hne⟩
    rcases h with h | h
    · exact absurd hd (Nat.not_le.mpr h)
    · exact hne h

/-! ### Limits in milliseconds and seconds -/

theorem not_timerReached {o : Timer} {us ms : Nat} (h : o = some us) (hd : us < ms * 1000) : ¬timerReached o ms = true := by
  rw [timerReached_short h hd]
  exact Bool.false_ne_true

theorem timerReached_secs {o : Timer} {us n : Nat} (h : o = some us) (hd : n * 1000000 ≤ us) :
    timerReached o (n * 1000) = true :=
  timerReached_due h (by rw [Nat.mul_assoc]; exact hd)

theorem not_timerReached_secs {o : Timer} {us n : Nat} (h : o = some us) (hd : us < n * 1000000) :
    ¬timerReached o (n * 1000) = true :=
  not_timerReached h (by rw [Nat.mul_assoc]; exact hd)

/-! ### Peers too long CRANKING (R116) -/

theorem crankingAge_cranking {u : UnitNo} {c : Claim} {us : Nat} (hc : claimOf (.unit u) s.arb.claims = some c)
    (hs : c.state = .cranking us) : crankingAge u s.arb = some us := by
  unfold crankingAge
  rw [hc]
  dsimp only
  rw [hs]

theorem expireClaim_arb {u : UnitNo} {c : Claim} (hc : claimOf (.unit u) s.arb.claims = some c) :
    ∃ b : Arbiter, expireClaim u s = { s with arb := b } ∧ b.claims = dropClaim (.unit u) s.arb.claims
      ∧ { unit := u, serial := c.serial } ∈ b.expired ∧ b.rotation = s.arb.rotation := by
  refine ⟨(expireClaim u s).arb, ?_⟩
  unfold expireClaim
  rw [hc]
  exact ⟨rfl, rfl, List.mem_append_right _ (List.mem_singleton.mpr rfl), rfl⟩

/-- Settles O42: the peer's entry goes over to the expired list, and the overlap timer stops. -/
theorem crankLimitsOfPeers : Obligations.CrankLimitsOfPeers := by
  intro p s us hp
  have peer (u : UnitNo) : exec (.peerCrankLimitExpiry u) s = .next (if timerReached (crankingAge u s.arb)
      (p.crank.peerCrankLimit * 1000) then settle p (expireClaim u s) else s) := next_withParams hp _
  have window : exec .overlapWindowExpiry s = .next (if timerReached s.arb.overlapTimer p.crank.overlapWindow then
      { s with arb := { s.arb with overlapTimer := none } } else s) := next_withParams hp _
  refine ⟨fun u c hc hs => ⟨fun hdue => ?_, fun hshort => ?_⟩, fun ht => ⟨fun hdue => ?_, fun hshort => ?_⟩⟩
  · rw [peer, if_pos (timerReached_secs (crankingAge_cranking hc hs) hdue)]
    obtain ⟨b, hb, hclaims, hexpired, hrotation⟩ := expireClaim_arb hc
    rw [hb]
    have k := settle_kept p { s with arb := b }
    refine ⟨_, rfl, ?_, ?_, k.rotation.trans hrotation, (settle_apart p _).own_arb, (settle_judged (s := { s with arb := b }) hp).outputs⟩
    · rw [k.peerClaim u, hclaims]
      exact claimOf_dropClaim_self _ _
    · rw [k.expired]
      exact hexpired
  · rw [peer, if_neg (not_timerReached_secs (crankingAge_cranking hc hs) hshort)]
  · rw [window, if_pos (timerReached_due ht hdue)]
  · rw [window, if_neg (not_timerReached ht hshort)]

/-! ### The protection timers -/

theorem lubeTripHolds_running (h : lubeTripHolds p s = true) : s.seq.engine = .running :=
  eq_of_beq (Bool.and_eq_true_iff.mp h).1

theorem hotStopHolds_running (h : hotStopHolds s = true) : s.seq.engine = .running :=
  eq_of_beq (Bool.and_eq_true_iff.mp h).2

/-- A trip of the running station that has settled. -/
theorem settle_trip_running (h : s.seq.engine = .running) (reason : LockReason) :
    Tripped { reason, source := none, engine := .running, row := s.step.current, speed := s.meas.speed
              stalled := s.meas.stalled, cool := freshValue s.meas.cool, lube := freshValue s.meas.lube }
        (settle p (trip reason none s))
      ∧ (settle p (trip reason none s)).seq.engine = tripEngine p s reason ∧ Apart s (settle p (trip reason none s)) := by
  have hi : isInhibited s = false := by
    unfold isInhibited
    rw [h]
  have hr := settle_trip_tripped (p := p) reason none hi
  unfold tripRecordOf at hr
  rw [h, if_pos rfl] at hr
  exact ⟨hr, (settle_trip_engine reason none hi).1, (trip_apart reason none s).trans (settle_apart p _)⟩

/-- Settles O33: the two trips of RUNNING at their delays, and the fuel-cut hold. -/
theorem protectionTimersAct : Obligations.ProtectionTimersAct := by
  intro p s us hp r
  have lube : exec .lubeTripDelayExpiry s = .next (if lubeTripHolds p s ∧ timerReached s.prot.lubeTimer
      (p.protect.lubeDelay * 1000) then settle p (trip .lube none s) else s) := next_withParams hp _
  have hot : exec .hotStopDelayExpiry s = .next (if hotStopHolds s ∧ timerReached s.prot.hotTimer
      (p.protect.hotDelay * 1000) then settle p (trip .hot none s) else s) := next_withParams hp _
  refine ⟨fun ht hc hdue => ?_, fun ht hshort => ?_, fun ht hc hdue => ?_, fun ht hshort => ?_, fun ht hdue => ?_,
    fun ht hshort => ?_⟩
  · rw [lube, if_pos ⟨hc, timerReached_secs ht hdue⟩]
    exact ⟨_, rfl, settle_trip_running (lubeTripHolds_running hc) .lube⟩
  · rw [lube, if_neg fun h => not_timerReached_secs ht hshort h.2]
  · rw [hot, if_pos ⟨hc, timerReached_secs ht hdue⟩]
    exact ⟨_, rfl, settle_trip_running (hotStopHolds_running hc) .hot⟩
  · rw [hot, if_neg fun h => not_timerReached_secs ht hshort h.2]
  · refine ⟨_, (next_withParams hp _).trans (congrArg _ (if_pos (timerReached_secs ht hdue))), settle_judged hp⟩
  · exact (next_withParams hp _).trans (congrArg _ (if_neg (not_timerReached_secs ht hshort)))

/-! ### A silent peer -/

theorem entryAge_of {u : UnitNo} {e : RosterEntry} (h : entryOf u s.roster.entries = some e) : entryAge u s = some e.age := by
  unfold entryAge
  rw [h]
  rfl

theorem leaveRoster_eq (u : UnitNo) (s : State) : leaveRoster u s =
    { s with roster := (leaveRoster u s).roster, arb := (leaveRoster u s).arb } := rfl

/-- Settles O39: the silent peer's entries go, and the judgements that follow leave what is left of them. -/
theorem silenceRemovesPeer : Obligations.SilenceRemovesPeer := by
  intro p s u e hp he
  have run : exec (.silenceTimeout u) s = .next (if timerReached (entryAge u s) (silenceMs p) then
      settle p (leaveRoster u s) else s) := next_withParams hp _
  refine ⟨fun hdue => ?_, fun hshort => ?_⟩
  · rw [run, if_pos (timerReached_due (entryAge_of he) hdue)]
    have k := settle_kept p (leaveRoster u s)
    refine ⟨_, rfl, k.roster, ?_, k.rotation, ?_, fun x hx => ?_, k.crankCount, ?_, fun v hv => ?_,
      (settle_judged (s := leaveRoster u s) hp).outputs⟩
    · rw [k.peerClaim u]
      exact claimOf_dropClaim_self _ _
    · rw [k.crossing]
      exact fun h => by simpa using (List.mem_filter.mp h).2
    · rw [k.expired] at hx
      simpa using (List.mem_filter.mp hx).2
    · exact Apart.own_roster_arb (r := (leaveRoster u s).roster) (b := (leaveRoster u s).arb) (settle_apart p (leaveRoster u s))
    · rw [k.peerClaim v]
      exact claimOf_dropClaim_other (fun h => hv (Who.unit.inj h)) _
  · rw [run, if_neg (not_timerReached (entryAge_of he) hshort)]

end Sys2Proof.Machine

/-! PROOFS. Counted failures, the retry and the grant (Chapter 2). -/

namespace Sys2Proof.Machine

variable {s t u : State} {p : Params}

/-! ### A stop that leads to RETRY-WAIT or LOCKED-OUT -/

/-- The engine state at rest of a stop toward RETRY-WAIT or LOCKED-OUT. -/
def haltOf : StopDest → Option EngineState
  | .retryWait => some .retryWait
  | .lockedOut r => some (.lockedOut r)
  | _ => none

theorem arriveAt_halt {d : StopDest} {e : EngineState} (h : haltOf d = some e) (s : State) :
    arriveAt d s = enterState e s ∧ (arriveAt d s).seq.engine = e ∧ restful e = true := by
  rw [arriveAt_engine]
  cases d <;> simp only [haltOf, Option.some.injEq, reduceCtorEq] at h <;> subst h <;> exact ⟨rfl, rfl, rfl⟩

/-- The judgements of such a stop are those of a state that stands still. -/
theorem settle_halt {d : StopDest} {e : EngineState} (h : s.seq.engine = .stopping d) (hd : haltOf d = some e) :
    ∃ w, settle p s = settle p w ∧ Quiet p w ∧ w.seq.engine = (if atRest p s then e else .stopping d)
      ∧ w.arb = s.arb ∧ w.link = s.link ∧ w.seq.attempts = s.seq.attempts ∧ w.seq.record = s.seq.record
      ∧ w.seq.keptSerial = s.seq.keptSerial := by
  cases hr : atRest p s with
  | false => exact ⟨s, rfl, quiet_stopping h hr, h, rfl, rfl, rfl, rfl, rfl⟩
  | true =>
    obtain ⟨harrive, hengine, hrest⟩ := arriveAt_halt hd (settleOutputs p s)
    refine ⟨_, settle_arrival h hr, quiet_of_restful (by rw [hengine]; exact hrest), hengine, ?_⟩
    rw [harrive, enterState_arb, enterState_link, enterState_seq]
    exact ⟨rfl, rfl, rfl, rfl, rfl⟩

theorem settle_halted_kept {d : StopDest} {e : EngineState} (h : s.seq.engine = .stopping d) (hd : haltOf d = some e) :
    (settle p s).seq.keptSerial = s.seq.keptSerial := by
  obtain ⟨w, hw, q, -, -, -, -, -, hkept⟩ := settle_halt (p := p) h hd
  rw [hw, (settle_still q).seq]
  exact hkept

/-- Where it leads, what stands, and every output off. -/
theorem settle_halted {d : StopDest} {e : EngineState} (h : s.seq.engine = .stopping d) (hd : haltOf d = some e) :
    (settle p s).seq.engine = (if atRest p s then e else .stopping d) ∧ (settle p s).arb = s.arb
      ∧ (settle p s).seq.attempts = s.seq.attempts ∧ (settle p s).seq.record = s.seq.record ∧ allOff (settle p s) := by
  obtain ⟨w, hw, q, hengine, harb, -, hattempts, hrecord, -⟩ := settle_halt (p := p) h hd
  have hstill := settle_still q
  have he : (settle p s).seq.engine = (if atRest p s then e else .stopping d) := by rw [hw, settle_engine_quiet q, hengine]
  refine ⟨he, by rw [hw, hstill.arb, harb], by rw [hw, hstill.seq]; exact hattempts,
    by rw [hw, hstill.seq]; exact hrecord, ?_⟩
  have hrest := (arriveAt_halt hd s).2.2
  apply settle_allOff
  all_goals
    rw [he]
    cases d <;> simp only [haltOf, Option.some.injEq, reduceCtorEq] at hd <;> subst hd <;> split <;> simp

theorem asked_settle_halt {d : StopDest} {e : EngineState} {c : Content} (h : t.seq.engine = .stopping d)
    (hd : haltOf d = some e) (hs : openLink s) (hq : t.link.queue = queueAfter (.made c) s)
    (hK : contentKind c ∉ [5, 6, 7, 8]) : asked c (settle p t) := by
  obtain ⟨w, hw, q, -, -, hlink, -, -⟩ := settle_halt (p := p) h hd
  rw [hw]
  exact asked_settle_quiet hs (by rw [hlink]; exact hq) hK q

/-! ### A counted failure (R31) -/

theorem closeClaim_seq {phase : Phase} (b : Byte) (h : s.seq.engine = .starting phase) :
    (closeClaim phase b s).seq = { s.seq with crankCount := s.seq.crankCount + cranksEnded s } := by
  unfold cranksEnded
  cases phase with
  | crank =>
    rw [if_pos h]
    unfold closeClaim
    rw [endCrankCounted_eq]
  | prep =>
    rw [if_neg (by rw [h]; simp)]
    unfold closeClaim
    rw [withdrawClaim_eq]
    simp
  | fire | confirm =>
    rw [if_neg (by rw [h]; simp)]
    simp [closeClaim]

theorem closeClaim_claims {phase : Phase} (b : Byte) (h : s.seq.engine = .starting phase) :
    (s.seq.engine = .starting .prep ∨ s.seq.engine = .starting .crank →
        claimOf .own (closeClaim phase b s).arb.claims = none)
      ∧ (closeClaim phase b s).arb.rotation
        = (if s.seq.engine = .starting .crank then toTail .own s.arb.rotation else s.arb.rotation) := by
  rw [h]
  cases phase with
  | prep =>
    unfold closeClaim
    rw [withdrawClaim_eq]
    exact ⟨fun _ => claimOf_dropClaim_self _ _, rfl⟩
  | crank =>
    unfold closeClaim
    rw [endCrankCounted_eq]
    exact ⟨fun _ => claimOf_dropClaim_self _ _, rfl⟩
  | fire => exact ⟨fun k => by simp at k, rfl⟩
  | confirm => exact ⟨fun k => by simp at k, rfl⟩

/-- R31: where a counted failure stops toward. -/
def failDest (p : Params) (s : State) : StopDest :=
  if p.crank.maxAttempts ≤ s.seq.attempts + 1 then .lockedOut .attempts else .retryWait

theorem haltOf_failDest (p : Params) (s : State) : haltOf (failDest p s)
    = some (if p.crank.maxAttempts ≤ s.seq.attempts + 1 then .lockedOut .attempts else .retryWait) := by
  unfold failDest
  split <;> rfl

theorem failAttempt_state {phase : Phase} (result : AttemptResult) (h : s.seq.engine = .starting phase) :
    (failAttempt p result s).seq.engine = .stopping (failDest p s)
      ∧ (failAttempt p result s).seq.attempts = s.seq.attempts + 1
      ∧ (failAttempt p result s).seq.record = (endAttempt result s).seq.record
      ∧ (failAttempt p result s).seq.crankCount = s.seq.crankCount + cranksEnded s
      ∧ (failAttempt p result s).arb = (closeClaim phase failedByte s).arb
      ∧ (failAttempt p result s).link = (closeClaim phase failedByte s).link := by
  have hseq := closeClaim_seq failedByte h
  have hmeas := (closeClaim_apart phase failedByte s).meas
  have hrecord : (endAttempt result (closeClaim phase failedByte s)).seq.record = (endAttempt result s).seq.record := by
    rw [endAttempt_record, endAttempt_record, hmeas, phaseElapsed, hseq]
    rfl
  rw [failAttempt_starting result h, enterState_arb, enterState_link, enterState_seq]
  exact ⟨rfl, rfl, hrecord, congrArg Sequencer.crankCount hseq, rfl, rfl⟩

/-- R31: what a counted failure leaves once every block has judged. -/
theorem settle_failAttempt {phase : Phase} (result : AttemptResult) (h : s.seq.engine = .starting phase) :
    (settle p (failAttempt p result s)).seq.engine = failedEngine p s s.meas.speed
      ∧ (settle p (failAttempt p result s)).seq.attempts = s.seq.attempts + 1
      ∧ attemptClosed result s (settle p (failAttempt p result s)) ∧ failedClaim s (settle p (failAttempt p result s))
      ∧ allOff (settle p (failAttempt p result s)) ∧ Apart s (settle p (failAttempt p result s)) := by
  obtain ⟨hengine, hattempts, hrecord, hcount, harb, -⟩ := failAttempt_state (p := p) result h
  obtain ⟨he, ha, hatt, hrec, hoff⟩ := settle_halted (p := p) hengine (haltOf_failDest p s)
  have hapart := (failAttempt_apart p result s).trans (settle_apart p _)
  obtain ⟨hown, hrotation⟩ := closeClaim_claims failedByte h
  refine ⟨he.trans ?_, hatt.trans hattempts, attemptClosed_of (by rw [hapart.meas]) (hrec.trans hrecord),
    ⟨hapart.peerClaims, fun k => ?_, ?_, (settle_kept p _).crankCount.trans hcount⟩, hoff, hapart⟩
  · unfold atRest failedEngine failDest
    rw [(failAttempt_apart p result s).meas]
    simp only [decide_eq_true_eq]
    split_ifs <;> rfl
  · rw [ha, harb]
    exact hown k
  · rw [ha, harb]
    exact hrotation

/-- R31: the frame a counted failure asks for in PREP and in CRANK. -/
theorem asked_failAttempt {phase : Phase} {c : Claim} (result : AttemptResult) (h : s.seq.engine = .starting phase)
    (hc : claimOf .own s.arb.claims = some c) (hs : openLink s) :
    (phase = .prep → asked (.withdraw c.serial) (settle p (failAttempt p result s)))
      ∧ (phase = .crank → asked (.crankOff 1 (levelByte c.level) c.serial (s.seq.crankCount + 1))
          (settle p (failAttempt p result s))) := by
  obtain ⟨hengine, -, -, -, -, hlink⟩ := failAttempt_state (p := p) result h
  have hown := ownClaim_of_claimOf hc
  constructor <;> rintro rfl <;> refine asked_settle_halt hengine (haltOf_failDest p s) hs ?_ (by simp [contentKind]) <;>
    rw [hlink, ← hown]
  · unfold closeClaim
    rw [withdrawClaim_eq]
  · unfold closeClaim
    rw [endCrankCounted_eq]
    rfl

theorem phaseLimit_starting {phase : Phase} {limit : Nat} (h : phaseLimit phase limit s = true) :
    s.seq.engine = .starting phase := eq_of_beq (Bool.and_eq_true_iff.mp h).1

theorem failureDue_starting {cmd : Instr} {phase : Phase} {result : AttemptResult} (hf : failureOf cmd = some (phase, result))
    (hd : failureDue p s cmd = true) : s.seq.engine = .starting phase := by
  unfold failureOf at hf
  split at hf <;> simp only [Option.some.injEq, Prod.mk.injEq, reduceCtorEq] at hf <;> obtain ⟨rfl, -⟩ := hf
  · exact phaseLimit_starting (Bool.and_eq_true_iff.mp (Bool.and_eq_true_iff.mp hd).1).1
  · exact phaseLimit_starting (Bool.and_eq_true_iff.mp hd).1
  · exact phaseLimit_starting hd
  · exact phaseLimit_starting hd
  · exact phaseLimit_starting hd

theorem exec_failure {cmd : Instr} {phase : Phase} {result : AttemptResult} (hp : s.reader.applied = some p)
    (hf : failureOf cmd = some (phase, result)) :
    exec cmd s = .next (if failureDue p s cmd then settle p (failAttempt p result s) else s) := by
  unfold failureOf at hf
  split at hf <;> simp only [Option.some.injEq, Prod.mk.injEq, reduceCtorEq] at hf <;> obtain ⟨-, rfl⟩ := hf <;>
    refine (next_withParams hp _).trans (congrArg _ ?_)
  · simp [failureDue, and_assoc]
  · simp [failureDue]
  · rfl
  · rfl
  · rfl

/-- Settles O30: the five expiries are one counted failure, each under its own condition. -/
theorem countedFailureEndsAttempt : Obligations.CountedFailureEndsAttempt := by
  intro p s cmd phase result hp hf
  rw [exec_failure hp hf]
  refine ⟨fun hd => ?_, fun hd => by rw [if_neg (by rw [hd]; exact Bool.false_ne_true)]⟩
  have h := failureDue_starting hf hd
  rw [if_pos hd]
  obtain ⟨hengine, hattempts, hclosed, hclaim, hoff, hapart⟩ := settle_failAttempt (p := p) result h
  exact ⟨_, rfl, h, hengine, hattempts, hclosed, hclaim, hoff, hapart, fun c hc hs => asked_failAttempt result h hc hs⟩

/-! ### The retry (R32, R33) -/

theorem Apart.applied (h : Apart s t) (hp : s.reader.applied = some p) : t.reader.applied = some p := by
  rw [h.reader]
  exact hp

theorem settle_follows (h : s.reader.applied = some p) : outputsFollow (settle p s) := (settle_judged h).outputs

theorem levelNum_retryLevel (o : Level) (n : Nat) : levelNum (retryLevel o n) = levelNum o - (n - 1) / 2 := by
  have room : levelNum o - (n - 1) / 2 ≤ 3 := by
    have : levelNum o ≤ 3 := by cases o <;> decide
    omega
  unfold retryLevel
  generalize levelNum o - (n - 1) / 2 = k at room ⊢
  interval_cases k <;> rfl

theorem enterPrep_apart (s : State) : Apart s (enterPrep s) := (enterPrep_kept s).apart

/-- The state in which a level has been chosen for the next attempt. -/
def atLevel (level : Level) (s : State) : State := { s with seq := { s.seq with startLevel := some level } }

theorem recrankIntervalExpiry_eq (hp : s.reader.applied = some p) : exec .recrankIntervalExpiry s =
    .next (if s.seq.engine = .retryWait ∧ timerReached s.seq.recrankTimer (p.crank.recrank * 1000) then
      settle p (enterPrep (atLevel (retryLevel (s.seq.origLevel.getD .routine) s.seq.attempts) s)) else s) :=
  next_withParams hp _

/-- What entering PREP at a chosen level leaves once every block has judged. -/
theorem settle_enterPrep_atLevel (level : Level) (hc : 0 < p.crank.claimSettle) :
    let t := settle p (enterPrep (atLevel level s))
    t.seq.engine = .starting .prep ∧ t.seq.startLevel = some level
      ∧ claimOf .own t.arb.claims
        = some { who := .own, level, serial := s.seq.keptSerial.getD (s.arb.ownSerial + 1), state := .waiting }
      ∧ t.seq.record = some { level, number := s.seq.attempts + 1
                              phases := [{ elapsed := 0, speed := none }], result := none }
      ∧ t.seq.attempts = s.seq.attempts ∧ t.seq.recrankTimer = none ∧ Apart s t := by
  intro t
  have hstill := settle_still (enterPrep_quiet hc (atLevel level s))
  have hseq := enterPrep_seq (atLevel level s)
  refine ⟨(settle_engine_quiet (enterPrep_quiet hc _)).trans (enterPrep_engine _), ?_, ?_, ?_, ?_, ?_, ?_⟩
  · rw [hstill.seq, hseq]
    rfl
  · rw [hstill.arb, enterPrep_arb, claimOf_putClaim, if_pos rfl]
    rfl
  · rw [hstill.seq, hseq]
    rfl
  · rw [hstill.seq, hseq]
    rfl
  · rw [hstill.seq, hseq]
    rfl
  · exact Apart.trans (t := atLevel level s) .of_blocks ((enterPrep_apart _).trans (settle_apart p _))

/-- Settles O32: the retry enters PREP at the level of its count. -/
theorem recrankLevelFallsByHalves : Obligations.RecrankLevelFallsByHalves := by
  intro p s us o hp hwait ht ho _ hc
  rw [recrankIntervalExpiry_eq hp, ho, Option.getD_some]
  refine ⟨fun hdue => ?_, fun hshort => ?_⟩
  · rw [if_pos ⟨hwait, timerReached_secs ht hdue⟩]
    have hfollow := settle_follows ((enterPrep_apart (atLevel (retryLevel o s.seq.attempts) s)).applied hp)
    have hleft := settle_enterPrep_atLevel (s := s) (retryLevel o s.seq.attempts) hc
    generalize settle p (enterPrep (atLevel (retryLevel o s.seq.attempts) s)) = t at hfollow hleft ⊢
    obtain ⟨hengine, hlevel, hclaim, hrecord, hattempts, htimer, hapart⟩ := hleft
    exact ⟨t, _, _, _, rfl, hengine, levelNum_retryLevel o _, hlevel, hclaim, rfl, rfl, hrecord, rfl, rfl, hattempts,
      htimer, hapart, hfollow⟩
  · rw [if_neg fun h => not_timerReached_secs ht hshort h.2]

end Sys2Proof.Machine

/-! PROOFS. The grant (R118) and the entry to CRANK (R24). -/

namespace Sys2Proof.Machine

variable {s t u v : State} {p : Params}

/-! ### The queue of an open link -/

theorem Grows.kinds {K : List Nat} {q : List TxFrame} (h : Grows K [] q) : kindsWithin K q := by
  induction h with
  | refl => exact ⟨List.nodup_nil, by simp⟩
  | tail _ hstep ih =>
    obtain ⟨f, hf, rfl⟩ := hstep
    exact kindsWithin_enqueue ih hf

theorem kindsWithin.mono {K L : List Nat} {q : List TxFrame} (h : kindsWithin K q) (hK : ∀ k ∈ K, k ∈ L) : kindsWithin L q :=
  ⟨h.1, fun f hf => hK _ (h.2 f hf)⟩

/-- A frame asked for beside the frames of every engine state waits in the queue. -/
theorem held_beside {f : TxFrame} (hs : openLink s) (ha : Asks restingKinds s v) (hup : v.link.state = .up)
    (hq : t.link.queue = queueAfter f v) : Held f t := by
  have hkinds : kindsWithin restingKinds v.link.queue := by
    have h := ha.grows
    rw [hs.2] at h
    exact h.kinds
  have hlen : v.link.queue.length < 8 := Nat.lt_of_le_of_lt hkinds.length (by decide)
  constructor <;> rw [hq, queueAfter, if_pos hup]
  · exact mem_enqueue_self hlen
  · exact kindsWithin_enqueue (hkinds.mono fun k hk => List.mem_cons_of_mem _ hk) (List.mem_cons_self ..)

/-! ### The grant conditions -/

theorem grantHolds_congr (he : v.seq.engine = s.seq.engine) (hd : s.seq.prelubeDone = true → v.seq.prelubeDone = true)
    (ha : v.arb = s.arb) (hm : v.meas = s.meas) (h : grantHolds p s = true) : grantHolds p v = true := by
  have hdone : s.seq.prelubeDone = true := by
    unfold grantHolds at h
    simp only [Bool.and_eq_true] at h
    obtain ⟨⟨⟨⟨⟨⟨⟨-, h⟩, -⟩, -⟩, -⟩, -⟩, -⟩, -⟩ := h
    exact h
  unfold grantHolds ownFirst atRest at h ⊢
  rw [he, hd hdone, ha, hm]
  rw [hdone] at h
  exact h

theorem ownFirst_of {c : Claim} (hc : claimOf .own s.arb.claims = some c) (hw : c.state = .waiting)
    (h : ∀ d ∈ s.arb.claims, d.who ≠ .own → d.state = .waiting → claimAhead p.unit s.arb c d = true) :
    ownFirst p s = true := by
  unfold ownFirst
  rw [hc]
  refine Bool.and_eq_true_iff.mpr ⟨by simp [isCranking, hw], List.all_eq_true.mpr fun d hd => ?_⟩
  by_cases hown : d.who = .own
  · simp [hown]
  · cases hstate : d.state with
    | waiting => simp [h d hd hown hstate]
    | cranking age => simp [isCranking, hstate]

/-! ### Entry to CRANK -/

theorem enterCrank_arb (s : State) : (enterCrank s).arb = { s.arb with
    claims := putClaim { ownClaim s with state := .cranking 0 } s.arb.claims, overlapTimer := some 0 } := by
  unfold enterCrank requestMade
  rw [requestFrame_eq]
  rfl

theorem enterCrank_record (s : State) : (enterCrank s).seq.record = s.seq.record.map fun r =>
    { r with phases := closeLast (phaseElapsed s) s.meas.speed r.phases ++ [{ elapsed := 0, speed := none }] } := by
  rw [enterCrank_seq]
  unfold enterPhase closePhase
  simp [Function.comp_def]

/-- The station has entered CRANK from a state that differs from `s` in what a round before the grant writes. -/
structure Granted (p : Params) (s t : State) : Prop where
  path : ∃ v, Still s v ∧ Kept s v ∧ Asks restingKinds s v ∧ Still (enterCrank v) t ∧ Kept (enterCrank v) t
    ∧ ∀ g : TxFrame, txKind g ∉ [5, 6, 7, 8] → Held g (enterCrank v) → Held g t

theorem enterCrank_restful (s : State) : Quiet p (enterCrank s) :=
  quiet_of_restful (by rw [(enterCrank_blocks s).2.2.1]; rfl)

theorem Granted.of_enterCrank (s : State) : Granted p s (settle p (enterCrank s)) :=
  ⟨s, ⟨rfl, rfl, id, rfl⟩, .refl s, .of_queue, settle_still (enterCrank_restful s), settle_kept p _,
    fun _ hg h => h.settle hg (enterCrank_restful s)⟩

/-- Outside STOPPED and LAYOVER the restart watch moves only its own level. -/
theorem settleWatch_idle (h : ¬(s.seq.engine = .stopped ∨ s.seq.engine = .layover)) :
    Still s (settleWatch p s) ∧ (settleWatch p s).link = s.link := by
  unfold settleWatch
  split
  · exact ⟨⟨rfl, rfl, id, rfl⟩, rfl⟩
  · rename_i old hw
    have hn : s.layover.watch ≠ .inactive := by rw [hw]; simp
    dsimp only
    split
    · exact ⟨⟨rfl, rfl, fun k => absurd k hn, rfl⟩, rfl⟩
    · split
      · rw [startRequest_refused (by exact h)]
        exact ⟨⟨rfl, rfl, fun k => absurd k hn, rfl⟩, rfl⟩
      · exact ⟨⟨rfl, rfl, fun k => absurd k hn, rfl⟩, rfl⟩

/-- R118: the first round of the judgements grants. -/
theorem Granted.of_settle (h : grantHolds p s = true) : Granted p s (settle p s) := by
  have hprep := grantHolds_prep h
  obtain ⟨w, e, hk, hstill, hasks, hseq⟩ := settleRound_split p s
  rw [settleArrival_of_not_stopping (by simp [hprep])] at hk hstill hasks hseq
  obtain ⟨hwatch, hlink⟩ := settleWatch_idle (p := p) (s := w) (by rw [hstill.engine, hprep]; simp)
  have hkw := settleWatch_kept p w
  have hseqw : (settleWatch p w).seq = w.seq := settleWatch_seq (by rw [hstill.engine, hprep]; simp)
  have hasks' : Asks restingKinds s (settleWatch p w) := hasks.then (congrArg Link.queue hlink)
  generalize settleWatch p w = v at e hwatch hkw hseqw hasks'
  have hgrant : settleGrant p v = enterCrank v := by
    unfold settleGrant
    rw [if_pos]
    refine grantHolds_congr (by rw [hseqw, hseq]) (fun hd => ?_) (hwatch.arb.trans hstill.arb) (hwatch.meas.trans hstill.meas) h
    rw [hseqw, hseq, hd]
    rfl
  rw [hgrant] at e
  have q0 := enterCrank_restful (p := p) v
  have k0 : Still (enterCrank v) (settleRound p s) := by
    rw [e]
    exact settleLines_still p _
  have q1 := k0.quiet q0
  have k1 := settleRound_still q1
  have q2 := k1.quiet q1
  have kept0 : Kept (enterCrank v) (settleRound p s) := by
    rw [e]
    exact (settleOutputs_kept p _).trans (settleLamps_kept _)
  refine ⟨v, hstill.trans hwatch, hk.trans hkw, hasks', (k0.trans k1).trans (settleRound_still q2),
    (kept0.trans (settleRound_kept p _)).trans (settleRound_kept p _), fun g hg hheld => ?_⟩
  have h0 : Held g (settleRound p s) := by
    rw [e]
    exact hheld.of_link rfl
  exact (h0.settleRound hg q1).settleRound hg q2

/-- R24: what a granted station has once every block has judged. -/
theorem Granted.outcome {c : Claim} (h : Granted p s t) (hc : claimOf .own s.arb.claims = some c) :
    t.seq.engine = .starting .crank ∧ t.seq.phaseTimer = some 0
      ∧ claimOf .own t.arb.claims = some { c with state := .cranking 0 }
      ∧ t.arb.overlapTimer = some 0 ∧ t.arb.rotation = s.arb.rotation
      ∧ t.seq.record = s.seq.record.map (fun r => { r with
          phases := closeLast (phaseElapsed s) s.meas.speed r.phases ++ [{ elapsed := 0, speed := none }] })
      ∧ (openLink s → asked (.crankOn (levelByte c.level) c.serial) t) ∧ Apart s t := by
  obtain ⟨v, hsv, hkv, hasks, hstill, hkept, hheld⟩ := h.path
  have hown : ownClaim v = c := ownClaim_of_claimOf (by rw [hsv.arb]; exact hc)
  have harb : t.arb = { s.arb with claims := putClaim { c with state := .cranking 0 } s.arb.claims, overlapTimer := some 0 } := by
    rw [hstill.arb, enterCrank_arb, hown, hsv.arb]
  have hwho : c.who = .own := claimOf_who hc
  refine ⟨hstill.engine.trans (enterCrank_blocks v).2.2.1, ?_, ?_, by rw [harb], by rw [harb], ?_, fun hs => ?_,
    (hkv.trans ((enterCrank_kept v).trans hkept)).apart⟩
  · rw [hstill.seq, enterCrank_seq]
    rfl
  · rw [harb, claimOf_putClaim, if_pos hwho.symm]
  · have hphase : phaseElapsed v = phaseElapsed s := by
      unfold phaseElapsed
      rw [hsv.seq]
    rw [hstill.seq]
    refine (enterCrank_record v).trans ?_
    rw [hphase, hsv.meas, hsv.seq]
  · have hup : v.link.state = .up := by
      rw [hkv.link]
      exact hs.1
    obtain ⟨-, -, -, -, -, hq⟩ := enterCrank_blocks v
    rw [hown] at hq
    exact (hheld (.made (.crankOn (levelByte c.level) c.serial)) (by simp [txKind, contentKind])
      (held_beside hs hasks hup hq)).mem

/-- Settles O29: each of the three commands grants, by itself or with the judgements that follow it. -/
theorem grantEntersCrank : Obligations.GrantEntersCrank := by
  intro p s cmd c claimed joined resv hcmd hp hprep hdone hclaimed hsettle hjoined hjoin hc hw hahead hroom hfresh hresv
    hpressure hrest
  have hg : grantHolds p s = true := by
    unfold grantHolds crankingCount freshAtLeast freshValue atRest
    rw [ownFirst_of hc hw hahead, timerReached_due hclaimed hsettle,
      timerReached_due (ms := 2 * p.link.statusPeriod) hjoined hjoin, hprep, hdone, hfresh, hresv]
    simp [hroom, hpressure, hrest]
  have run : ∃ t, exec cmd s = .next t ∧ Granted p s t ∧ outputsFollow t := by
    have byRule : Granted p s (settle p (enterCrank s)) ∧ outputsFollow (settle p (enterCrank s)) :=
      ⟨.of_enterCrank s, settle_follows ((enterCrank_kept s).apart.applied hp)⟩
    have byJudgement : Granted p s (settle p s) ∧ outputsFollow (settle p s) := ⟨.of_settle hg, settle_follows hp⟩
    rcases hcmd with rfl | rfl | rfl
    · exact ⟨_, (next_withParams hp _).trans (congrArg _ (if_pos hg)), byRule⟩
    · exact ⟨_, (next_withParams hp _).trans (congrArg _ (if_pos (timerReached_due hclaimed hsettle))), byJudgement⟩
    · exact ⟨_, (next_withParams hp _).trans (congrArg _ (if_pos (timerReached_due (ms := 2 * p.link.statusPeriod)
        hjoined hjoin))), byJudgement⟩
  obtain ⟨t, hexec, hgranted, hfollow⟩ := run
  obtain ⟨hengine, hphase, hclaim, hoverlap, hrotation, hrecord, hasked, hapart⟩ := hgranted.outcome hc
  exact ⟨t, hexec, hengine, hphase, hclaim, hoverlap, hrotation, hrecord, hasked, hapart, hfollow⟩

end Sys2Proof.Machine

/-! PROOFS. The own record, the debounced input lines, the handle and the demand source (Chapter 4). -/

namespace Sys2Proof.Machine

variable {s t u v : State} {p : Params}

/-! ### The own record (R65) -/

theorem settleStepper_viewed (p : Params) (s : State) :
    Viewed (settleReport (settleTarget (settleLowIdle p s))) (settleStepper p s) :=
  (settleSteps_viewed p 9 _).trans ⟨rfl, rfl, rfl, rfl, rfl, rfl, rfl, rfl, rfl, rfl, rfl⟩

theorem settleStepper_demand (p : Params) (s : State) : (settleStepper p s).demand = s.demand := by
  rw [(settleStepper_viewed p s).demand]
  unfold settleReport
  split <;> rfl

theorem enterState_demand (e : EngineState) (s : State) : (enterState e s).demand = s.demand := by
  unfold enterState changeLayover endIntent clearStepper startStepper
  dsimp only
  split_ifs <;> rfl

theorem enterPrep_demand (s : State) : (enterPrep s).demand = s.demand := by
  unfold enterPrep postOwnClaim requestMade
  rw [requestFrame_eq]
  exact enterState_demand _ s

theorem settleArrival_demand (p : Params) (s : State) : (settleArrival p s).demand = s.demand := by
  unfold settleArrival
  split
  · split
    · unfold arriveAt
      split
      · rw [enterState_demand]
        rfl
      · rw [enterState_demand]
        rfl
      · rw [enterState_demand]
        rfl
      · rw [enterState_demand]
        rfl
      · rw [enterPrep_demand]
        rfl
    · rfl
  · rfl

theorem settleRound_demand (p : Params) (s : State) :
    (settleRound p s).demand = (settleOwnRecord p (settleArrival p s)).demand := by
  have e : (settleRound p s).demand
      = (settleStepper p (settleMakeUp p (settleCaps p (settleOwnRecord p (settleArrival p s))))).demand := by
    unfold settleRound
    dsimp only
    generalize settleStepper p (settleMakeUp p (settleCaps p (settleOwnRecord p (settleArrival p s)))) = b
    have hb := (settlePrelube_viewed p b).demand
    rw [← hb]
    have h := ((settleEligible_later p (settleHotTimer (settleLubeTimer p (settleConfirm p (settlePrelube p b))))).trans
      (settleWatch_later p _)).trans (settleGrant_later p _)
    exact h.demand
  rw [e, settleStepper_demand]
  rfl

theorem settleOwnRecord_ownRecord (p : Params) (s : State) : (settleOwnRecord p s).demand.ownRecord = ownRecordNow p s := by
  unfold settleOwnRecord requestMade
  dsimp only
  split
  · rename_i h
    exact h.symm
  · split
    · rw [requestFrame_eq]
    · rfl

theorem Kept.ownRecordNow (h : Kept s t) (p : Params) : ownRecordNow p t = ownRecordNow p s := by
  unfold Machine.ownRecordNow lineOn
  rw [h.demand]

theorem settleRound_ownRecord (p : Params) (s : State) : (settleRound p s).demand.ownRecord = ownRecordNow p s := by
  rw [settleRound_demand, settleOwnRecord_ownRecord, (settleArrival_kept p s).ownRecordNow]

/-- After the judgements the own record is that of its four parts. -/
theorem settle_ownRecord (p : Params) (s : State) : (settle p s).demand.ownRecord = ownRecordNow p s := by
  have h := (settleRound_kept p s).trans (settleRound_kept p _)
  exact (settleRound_ownRecord p _).trans (h.ownRecordNow p)

theorem settle_demand (p : Params) (s : State) :
    (settle p s).demand = { s.demand with ownRecord := ownRecordNow p s } := by
  rw [(settle_kept p s).demand, settle_ownRecord]

theorem settleOwnRecord_current (h : s.demand.ownRecord = ownRecordNow p s) : settleOwnRecord p s = s := by
  unfold settleOwnRecord
  exact if_pos h.symm

/-- Where the own record stands as its parts do, the judgements ask for no DEMAND. -/
theorem settle_asks_current (h : s.demand.ownRecord = ownRecordNow p s) : Asks [1, 3, 6, 7, 8] s (settle p s) := by
  have round {v : State} (h : v.demand.ownRecord = ownRecordNow p v) :
      Asks [1, 3, 6, 7, 8] v (settleRound p v) ∧ (settleRound p v).demand.ownRecord = ownRecordNow p (settleRound p v) := by
    refine ⟨settleRound_asks_of (fun _ => id) p v ?_, ?_⟩
    · rw [settleOwnRecord_current]
      · exact .of_queue
      · rw [(settleArrival_kept p v).ownRecordNow, settleArrival_demand]
        exact h
    · rw [(settleRound_kept p v).ownRecordNow]
      exact settleRound_ownRecord p v
  obtain ⟨a1, h1⟩ := round h
  obtain ⟨a2, h2⟩ := round h1
  obtain ⟨a3, -⟩ := round h2
  exact (a1.trans a2).trans a3

/-! ### Debounced input lines (R58 to R61) -/

/-- The state with one line's debounced level taken. -/
def inputTaken (line : InputLine) (s : State) : State := updateInput line debounceTaken s

theorem inputTaken_only (line : InputLine) (s : State) :
    inputTaken line s = { s with demand := { s.demand with inputs := (inputTaken line s).demand.inputs } } := rfl

theorem inputTaken_lineOn (p : Params) (line : InputLine) (s : State) :
    lineOn p (inputTaken line s) line = levelOn (inputPolarity p.lines line) (inputOf s.demand.inputs line).raw := by
  unfold lineOn inputTaken
  rw [updateInput_inputOf]
  rfl

theorem debounceTimeout_due {line : InputLine} (hp : s.reader.applied = some p)
    (hd : debounceDue (inputOf s.demand.inputs line) = true) :
    exec (.debounceTimeout line) s = .next (takeLevel p line s) := by
  show execDebounceTimeout line s = _
  unfold execDebounceTimeout
  rw [if_pos hd, hp]

/-- A line that goes on is handed on as on. -/
theorem debounceTimeout_goesOn {line : InputLine} (hp : s.reader.applied = some p) (h : goesOn p s line) :
    exec (.debounceTimeout line) s = .next (settle p (handOn p s line true (inputTaken line s))) := by
  obtain ⟨hd, hoff, hon⟩ := h
  rw [debounceTimeout_due hp hd]
  have hl := inputTaken_lineOn p line s
  rw [hon] at hl
  unfold inputTaken at hl ⊢
  unfold takeLevel
  dsimp only
  rw [hl, hoff, if_neg (by decide)]

/-- A line that goes off is handed on as off. -/
theorem debounceTimeout_goesOff {line : InputLine} (hp : s.reader.applied = some p) (h : goesOff p s line) :
    exec (.debounceTimeout line) s = .next (settle p (handOn p s line false (inputTaken line s))) := by
  obtain ⟨hd, hon, hoff⟩ := h
  rw [debounceTimeout_due hp hd]
  have hl := inputTaken_lineOn p line s
  rw [hoff] at hl
  unfold inputTaken at hl ⊢
  unfold takeLevel
  dsimp only
  rw [hl, hon, if_neg (by decide)]

/-! ### The handle (R62, R63) -/

theorem handleCode_congr (h : t.demand.inputs = s.demand.inputs) : handleCode p t = handleCode p s := by
  unfold handleCode lineOn
  rw [h]

theorem handleOfCode_iff (c4 c3 c2 c1 : Bool) (r : Row) : handleOfCode c4 c3 c2 c1 = some r ↔ (r.val, c4, c3, c2, c1) ∈
    [(1, false, false, false, false), (2, false, false, false, true), (3, false, false, true, true),
     (4, false, false, true, false), (5, false, true, true, false), (6, false, true, true, true),
     (7, false, true, false, true), (8, false, true, false, false), (9, true, true, false, false)] := by
  revert r
  cases c4 <;> cases c3 <;> cases c2 <;> cases c1 <;> decide

theorem takeCode_demand (p : Params) (s : State) :
    (takeCode p s).demand.inputs = s.demand.inputs
      ∧ (∀ r, handleCode p s = some r → (takeCode p s).demand.handle = r ∧ (takeCode p s).demand.invalidTimer = none
          ∧ (takeCode p s).demand.handleFault = false)
      ∧ (handleCode p s = none → (takeCode p s).demand.handle = s.demand.handle
          ∧ (takeCode p s).demand.handleFault = s.demand.handleFault
          ∧ (takeCode p s).demand.invalidTimer = (if s.demand.invalidTimer = none ∧ s.demand.handleFault = false
              then some 0 else s.demand.invalidTimer)) := by
  unfold takeCode
  cases hc : handleCode p s with
  | some r => exact ⟨rfl, fun r' h => by cases h; exact ⟨rfl, rfl, rfl⟩, nofun⟩
  | none =>
    dsimp only
    refine ⟨by split <;> rfl, nofun, fun _ => ?_⟩
    by_cases h : s.demand.invalidTimer = none ∧ s.demand.handleFault = false
    · rw [if_pos (by simpa using h), if_pos h]
      exact ⟨rfl, rfl, rfl⟩
    · rw [if_neg (by simpa using h), if_neg h]
      exact ⟨rfl, rfl, rfl⟩

theorem invalidCodeTimeout_eq (hp : s.reader.applied = some p) : exec .invalidCodeTimeout s =
    .next (if timerReached s.demand.invalidTimer 500 then
      settle p { s with demand := { s.demand with handle := 1, invalidTimer := none, handleFault := true } } else s) :=
  next_withParams hp _

/-- Settles O22: the code table, the four lines' hand-over, and the invalid code's limit. -/
theorem handleCodeGivesPosition : Obligations.HandleCodeGivesPosition := by
  intro p s hp
  refine ⟨fun r => handleOfCode_iff _ _ _ _ r, fun line hline hgo => ?_, fun us ht => ⟨fun hdue => ?_, fun hshort => ?_⟩⟩
  · have run : exec (.debounceTimeout line) s = .next (settle p (takeCode p (inputTaken line s))) := by
      rcases hgo with h | h
      · rw [debounceTimeout_goesOn hp h]
        rcases hline with rfl | rfl | rfl | rfl <;> rfl
      · rw [debounceTimeout_goesOff hp h]
        rcases hline with rfl | rfl | rfl | rfl <;> rfl
    obtain ⟨hinputs, hsome, hnone⟩ := takeCode_demand p (inputTaken line s)
    have hd := settle_demand p (takeCode p (inputTaken line s))
    have hcode : handleCode p (settle p (takeCode p (inputTaken line s))) = handleCode p (inputTaken line s) :=
      handleCode_congr (by rw [hd]; exact hinputs)
    refine ⟨_, run, by rw [hd]; rfl, fun r hr => ?_, fun hr => ?_⟩
    · rw [hcode] at hr
      rw [hd]
      exact hsome r hr
    · rw [hcode] at hr
      rw [hd]
      exact hnone hr
  · rw [invalidCodeTimeout_eq hp, if_pos (timerReached_due (ms := 500) ht hdue)]
    exact ⟨_, rfl, settle_judged hp⟩
  · rw [invalidCodeTimeout_eq hp, if_neg (not_timerReached (ms := 500) ht hshort)]

/-! ### The demand source (R65 to R71) -/

theorem mem_refreshSource (who : Who) (l : List RecentSource) : { who, age := 0 } ∈ refreshSource who l := by
  unfold refreshSource
  split
  · rename_i h
    obtain ⟨e, he, hw⟩ := List.any_eq_true.mp h
    refine List.mem_map.mpr ⟨e, he, ?_⟩
    rw [if_pos (eq_of_beq hw)]
    obtain ⟨w, a⟩ := e
    rw [show w = who from eq_of_beq hw]
  · exact List.mem_append_right _ (List.mem_singleton.mpr rfl)

theorem cabOn_eq (p : Params) (s : State) : cabOn p s = { s with
    demand := (cabOn p s).demand
    link := { s.link with queue := queueAfter (.made (demandContent (ownRecordNow p s))) s } } := by
  unfold cabOn requestMade
  rw [requestFrame_eq]
  rfl

theorem cabOn_demand (p : Params) (s : State) : (cabOn p s).demand = { s.demand with
    source := .own, holdTimer := none, ownRecord := ownRecordNow p s
    remote := if s.demand.source = .current then s.demand.remote else none
    demandTimer := if s.demand.source = .current then s.demand.demandTimer else none
    recent := refreshSource .own s.demand.recent } := by
  unfold cabOn requestMade
  rw [requestFrame_eq]
  simp only [beq_iff_eq]

theorem asked_settle_demand (hs : openLink s) (hr : t.demand.ownRecord = ownRecordNow p t)
    (hq : t.link.queue = queueAfter (.made (demandContent t.demand.ownRecord)) s) :
    asked (demandContent t.demand.ownRecord) (settle p t) := by
  have h := (settle_asks_current hr).grows
  rw [hq, queueAfter_open hs] at h
  exact h.keeps (by simp) (kindsWithin_single _) (by simp [txKind, demandContent, contentKind])
    (by simp [txKind, demandContent, contentKind, cancelledKind]) (by decide)

/-- R65: the remote record is still being heard. -/
def stillHeard (p : Params) (d : DemandUnit) : Bool :=
  d.remote.isSome && d.demandTimer.isSome && !timerReached d.demandTimer p.link.demandTimeout

theorem cabOff_demand (p : Params) (s : State) : (cabOff p s).demand = { s.demand with
    source := if stillHeard p s.demand then .current else .lost
    remote := if stillHeard p s.demand then s.demand.remote else none } := rfl

theorem stillHeard_iff (p : Params) (d : DemandUnit) : stillHeard p d = true ↔
    ∃ r us, d.remote = some r ∧ d.demandTimer = some us ∧ us < p.link.demandTimeout * 1000 := by
  unfold stillHeard timerReached
  cases d.remote <;> cases d.demandTimer <;> simp

/-- Settles O23: the source after CAB-ACTIVE's change, which the judgements leave. -/
theorem cabActiveSettlesSource : Obligations.CabActiveSettlesSource := by
  intro p s hp
  refine ⟨fun hon => ?_, fun hoff => ?_⟩
  · have hd := cabOn_demand p (inputTaken .cabActive s)
    have heq := cabOn_eq p (inputTaken .cabActive s)
    have run : exec (.debounceTimeout .cabActive) s = .next (settle p (cabOn p (inputTaken .cabActive s))) :=
      debounceTimeout_goesOn hp hon
    generalize cabOn p (inputTaken .cabActive s) = c at hd heq run
    have hnow : ownRecordNow p c = ownRecordNow p (inputTaken .cabActive s) := by
      unfold ownRecordNow lineOn
      rw [hd]
    have hrec : c.demand.ownRecord = ownRecordNow p c := by rw [hnow, hd]
    have hdem : (settle p c).demand = c.demand := by rw [settle_demand, ← hrec]
    have happ : c.reader.applied = some p := by rw [heq]; exact hp
    refine ⟨settle p c, run, by rw [hdem, hd], by rw [hdem, hd], by rw [hdem, hd]; rfl, ?_, fun hs => ?_, settle_follows happ⟩
    · rw [hdem, hd]
      exact mem_refreshSource _ _
    · rw [hdem]
      refine asked_settle_demand (s := inputTaken .cabActive s) hs hrec ?_
      rw [hrec, hnow, heq]
  · have run : exec (.debounceTimeout .cabActive) s = .next (settle p (cabOff p (inputTaken .cabActive s))) :=
      debounceTimeout_goesOff hp hoff
    have hd := settle_demand p (cabOff p (inputTaken .cabActive s))
    have hin : stillHeard p (inputTaken .cabActive s).demand = stillHeard p s.demand := rfl
    rw [cabOff_demand, hin] at hd
    refine ⟨_, run, settle_follows hp, fun hheard => ?_, fun hlost => ?_⟩
    · rw [hd, (stillHeard_iff p s.demand).mpr hheard]
      exact ⟨rfl, rfl⟩
    · have hnot : stillHeard p s.demand = false := by
        rw [Bool.eq_false_iff]
        intro h
        obtain ⟨r, us, hr, ht, hshort⟩ := (stillHeard_iff p s.demand).mp h
        exact absurd (hlost r us hr ht) (by omega)
      rw [hd, hnot]
      exact ⟨rfl, rfl⟩

/-! ### The timers of the demand unit -/

theorem demandTimeout_eq (hp : s.reader.applied = some p) (ht : timerReached s.demand.demandTimer p.link.demandTimeout = true) :
    exec .demandTimeout s = .next (match s.demand.source with
      | .current => settle p (holdDemand p s)
      | .waiting => settle p { s with demand := { s.demand with source := .lost } }
      | .own => settle p { s with demand := { s.demand with demandTimer := none, remote := none } }
      | .holding | .lost => s) :=
  (next_withParams hp _).trans (congrArg _ (if_pos ht))

theorem holdDemand_eq (p : Params) (s : State) : holdDemand p s = { s with demand := { s.demand with
    source := if p.link.demandHold = 0 then .lost else .holding
    remote := if p.link.demandHold = 0 then none else s.demand.remote
    holdTimer := if p.link.demandHold = 0 then none else some 0 } } := by
  unfold holdDemand loseDemand
  split <;> rfl

/-- DEMAND-LOST follows the source state, which the judgements leave. -/
theorem settle_demandLost (h : s.demand.source = .lost) : demandLost (settle p s) = true := by
  unfold demandLost
  rw [settle_demand, h]
  rfl

/-- Settles O26: each expiry's own change, and the judgements that follow it. -/
theorem demandTimersPass : Obligations.DemandTimersPass := by
  intro p s hp
  refine ⟨fun us ht hdue => ?_, fun us ht hdue hsource => ?_, fun who us ht hdue => ?_⟩
  · have run := demandTimeout_eq hp (timerReached_due ht hdue)
    refine ⟨fun hs => ?_, fun hs => ?_, fun hs => ?_⟩
    · rw [hs] at run
      dsimp only at run
      rw [holdDemand_eq] at run
      exact ⟨_, run, settle_judged hp⟩
    · rw [hs] at run
      exact ⟨_, run, settle_judged hp, settle_demandLost rfl⟩
    · rw [hs] at run
      exact ⟨_, run, settle_judged hp⟩
  · have run : exec .demandHoldExpiry s = .next (settle p (loseDemand s)) :=
      (next_withParams hp _).trans (congrArg _ (if_pos ⟨hsource, timerReached_due ht hdue⟩))
    exact ⟨_, run, settle_judged hp, settle_demandLost rfl⟩
  · have run : exec (.recentSourceExpiry who) s
        = .next (settle p { s with demand := { s.demand with recent := dropSource who s.demand.recent } }) :=
      (next_withParams hp _).trans (congrArg _ (if_pos (timerReached_due ht hdue)))
    exact ⟨_, run, settle_judged hp⟩

end Sys2Proof.Machine

/-! PROOFS. START-PB and STOP-PB, a start that is accepted and a stop toward STOPPED (Chapter 2). -/

namespace Sys2Proof.Machine

variable {s t u v : State} {p : Params}

/-! ### An accepted start (R18 to R21) -/

/-- The state in which a start at a level has been accepted. -/
def startingAt (level : Level) (s : State) : State :=
  { s with seq := { s.seq with attempts := 0, origLevel := some level, startLevel := some level } }

theorem startRequest_accepted {level : Level} (h : acceptsStart p s) :
    startRequest p level s = enterPrep (startingAt level s) := by
  obtain ⟨hengine, hisolate, hlink, hrest⟩ := h
  unfold startRequest atRest
  rw [if_pos ⟨hengine, hisolate, by rw [hlink]; rfl, decide_eq_true hrest⟩]
  rfl

theorem startRequest_not {level : Level} (h : ¬acceptsStart p s) : startRequest p level s = s := by
  unfold startRequest atRest
  rw [if_neg]
  rintro ⟨hengine, hisolate, hlink, hrest⟩
  exact h ⟨hengine, hisolate, by simpa using hlink, of_decide_eq_true hrest⟩

theorem enterPrep_startingAt (level : Level) (s : State) (hstill : Still (enterPrep (startingAt level s)) t) : startedAt level s t := by
  have hseq := enterPrep_seq (startingAt level s)
  refine ⟨hstill.engine.trans (enterPrep_engine _), ?_, ?_, ?_, ?_, ?_, ?_⟩
  · rw [hstill.seq, hseq]
    rfl
  · rw [hstill.seq, hseq]
    rfl
  · rw [hstill.seq, hseq]
    rfl
  · rw [hstill.seq, hseq]
  · rw [hstill.seq, hseq]
    rfl
  · rw [hstill.arb, enterPrep_arb, claimOf_putClaim, if_pos rfl]
    rfl

/-- What an accepted start leaves once every block has judged. -/
theorem settle_startRequest {level : Level} (h : acceptsStart p s) (hc : 0 < p.crank.claimSettle) :
    startedAt level s (settle p (startRequest p level s)) ∧ (settle p (startRequest p level s)).layover.watch = .inactive
      ∧ (openLink s → asked (.claim (levelByte level) (s.seq.keptSerial.getD (s.arb.ownSerial + 1)))
          (settle p (startRequest p level s))) := by
  rw [startRequest_accepted h]
  have q := enterPrep_quiet hc (startingAt level s)
  have hstill := settle_still q
  obtain ⟨-, -, -, hlayover, hqueue⟩ := enterPrep_blocks (startingAt level s)
  refine ⟨enterPrep_startingAt level s hstill, hstill.watch (by rw [hlayover]; rfl), fun hs => ?_⟩
  exact asked_settle_quiet (s := startingAt level s) hs hqueue (by simp [contentKind]) q

/-! ### START-PB (R67) -/

theorem inputTaken_lineOn_other {line other : InputLine} (h : other ≠ line) (p : Params) (s : State) :
    lineOn p (inputTaken line s) other = lineOn p s other := by
  unfold lineOn inputTaken updateInput
  dsimp only
  rw [inputOf_setInput_other _ _ h]

/-- The state in which START-PB's press has been counted where the cab is active. -/
def pressCounted (p : Params) (s : State) : State :=
  if lineOn p s .cabActive then { s with demand := { s.demand with ownSerial := s.demand.ownSerial + 1 } } else s

theorem startPress_eq (p : Params) (s : State) : startPress p s = startRequest p .demand (pressCounted p s) := rfl

theorem pressCounted_only (p : Params) (s : State) :
    ∃ k, pressCounted p s = { s with demand := { s.demand with ownSerial := k } }
      ∧ k = if lineOn p s .cabActive then s.demand.ownSerial + 1 else s.demand.ownSerial := by
  unfold pressCounted
  split
  · exact ⟨_, rfl, rfl⟩
  · exact ⟨_, rfl, rfl⟩

theorem startRequest_demand (p : Params) (level : Level) (s : State) : (startRequest p level s).demand = s.demand := by
  by_cases h : acceptsStart p s
  · rw [startRequest_accepted h, enterPrep_demand]
    rfl
  · rw [startRequest_not h]

/-- Settles O24: the press is a start request, after the own serial has advanced where the cab is active. -/
theorem startButtonStartsEngine : Obligations.StartButtonStartsEngine := by
  intro p s hp hon
  have run : exec (.debounceTimeout .startPb) s
      = .next (settle p (startRequest p .demand (pressCounted p (inputTaken .startPb s)))) := debounceTimeout_goesOn hp hon
  obtain ⟨k, hk, hserial⟩ := pressCounted_only p (inputTaken .startPb s)
  rw [hk] at run
  rw [inputTaken_lineOn_other (by decide)] at hserial
  generalize hw : ({ inputTaken .startPb s with demand := { (inputTaken .startPb s).demand with ownSerial := k } } : State) = w
    at run
  have hstill : Still s w := by
    rw [← hw]
    exact ⟨rfl, rfl, id, rfl⟩
  have happ : (startRequest p .demand w).reader.applied = some p := by
    rw [(startRequest_kept p .demand w).reader, ← hw]
    exact hp
  have haccepts : acceptsStart p w ↔ acceptsStart p s := by
    have hline : lineOn p w .runIsolate = lineOn p s .runIsolate := by
      rw [← hw]
      exact inputTaken_lineOn_other (line := .startPb) (by decide) p s
    unfold acceptsStart
    rw [hline, ← hw]
    rfl
  refine ⟨_, run, settle_follows happ, ?_, fun ha hc => ?_, fun ha q => ?_⟩
  · rw [settle_demand, startRequest_demand, ← hw]
    exact hserial
  · obtain ⟨hstarted, -, hasked⟩ := settle_startRequest (level := .demand) (haccepts.mpr ha) hc
    unfold startedAt at hstarted ⊢
    rw [hstill.seq, hstill.arb] at hstarted hasked
    refine ⟨hstarted, fun hs => hasked ?_⟩
    rw [← hw]
    exact hs
  · rw [startRequest_not (mt haccepts.mp ha)]
    have h := hstill.trans (settle_still (hstill.quiet q))
    exact ⟨h.engine, h.arb, by rw [h.seq]⟩

/-! ### A stop toward STOPPED (R34, R36) -/

theorem enterStopped_quiet (v : State) : Quiet p (enterState .stopped v) := by
  have he : (enterState .stopped v).seq.engine = stoppedEngine v := by
    rw [enterState_engine]
    unfold stateReached stoppedEngine
    simp
  have hn : ∀ d, stoppedEngine v ≠ .stopping d := by
    unfold stoppedEngine
    split <;> simp
  refine ⟨fun d hd => absurd (he.symm.trans hd) (hn d), fun hd => ?_, fun _ => ?_⟩
  · rw [he] at hd
    unfold stoppedEngine at hd
    split at hd <;> simp at hd
  · rw [enterState_layover]
    unfold stateReached
    split <;> rfl

/-- STOPPED entered: what stands once every block has judged. -/
theorem settle_enterStopped (v : State) :
    (settle p (enterState .stopped v)).seq.engine = stoppedEngine v ∧ (settle p (enterState .stopped v)).arb = v.arb
      ∧ (settle p (enterState .stopped v)).seq.attempts = v.seq.attempts
      ∧ (settle p (enterState .stopped v)).seq.record = v.seq.record
      ∧ (settle p (enterState .stopped v)).seq.recrankTimer = none
      ∧ (settle p (enterState .stopped v)).layover.watch = .inactive := by
  have hstill := settle_still (enterStopped_quiet (p := p) v)
  have hreach : stateReached v .stopped ≠ .retryWait := by
    unfold stateReached
    split <;> simp
  refine ⟨?_, by rw [hstill.arb, enterState_arb], ?_, ?_, ?_, hstill.watch ?_⟩
  · rw [hstill.engine, enterState_engine]
    unfold stateReached stoppedEngine
    simp
  · rw [hstill.seq, enterState_seq]
    rfl
  · rw [hstill.seq, enterState_seq]
    rfl
  · rw [hstill.seq, enterState_seq]
    exact if_neg hreach
  · rw [enterState_layover]
    unfold stateReached
    split <;> rfl

/-- The judgements of a stop toward STOPPED are those of a state that stands still. -/
theorem settle_halt_stopped (h : s.seq.engine = .stopping .stopped) :
    ∃ w, settle p s = settle p w ∧ Quiet p w ∧ w.seq.engine = haltedEngine p s ∧ w.arb = s.arb ∧ w.link = s.link
      ∧ w.seq.record = s.seq.record ∧ w.seq.keptSerial = s.seq.keptSerial
      ∧ (s.seq.attempts = 0 → w.seq.attempts = 0) := by
  unfold haltedEngine
  cases hr : atRest p s with
  | false => exact ⟨s, rfl, quiet_stopping h hr, h, rfl, rfl, rfl, rfl, id⟩
  | true =>
    have harrive := settle_arrival h hr
    unfold arriveAt at harrive
    refine ⟨_, harrive, enterStopped_quiet _, ?_, ?_⟩
    · rw [enterState_engine]
      unfold stateReached stoppedEngine
      simp [linkSilent]
    · rw [enterState_arb, enterState_link, enterState_seq]
      exact ⟨rfl, rfl, rfl, rfl, fun _ => rfl⟩

theorem settle_halted_stopped (h : s.seq.engine = .stopping .stopped) :
    (settle p s).seq.engine = haltedEngine p s ∧ (settle p s).arb = s.arb ∧ (settle p s).seq.record = s.seq.record
      ∧ (settle p s).seq.keptSerial = s.seq.keptSerial ∧ (s.seq.attempts = 0 → (settle p s).seq.attempts = 0) := by
  obtain ⟨w, hw, q, hengine, harb, -, hrecord, hkept, hattempts⟩ := settle_halt_stopped (p := p) h
  have hstill := settle_still q
  rw [hw]
  refine ⟨hstill.engine.trans hengine, hstill.arb.trans harb, ?_, ?_, fun h0 => ?_⟩
  · rw [hstill.seq]
    exact hrecord
  · rw [hstill.seq]
    exact hkept
  · rw [hstill.seq]
    exact hattempts h0

theorem asked_settle_halt_stopped {c : Content} (h : t.seq.engine = .stopping .stopped) (hs : openLink s)
    (hq : t.link.queue = queueAfter (.made c) s) (hK : contentKind c ∉ [5, 6, 7, 8]) : asked c (settle p t) := by
  obtain ⟨w, hw, q, -, -, hlink, -⟩ := settle_halt_stopped (p := p) h
  rw [hw]
  exact asked_settle_quiet hs (by rw [hlink]; exact hq) hK q

theorem haltedEngine_congr (hm : t.meas = s.meas) (hl : t.link.state = s.link.state) :
    haltedEngine p t = haltedEngine p s := by
  unfold haltedEngine atRest stoppedEngine linkSilent
  rw [hm, hl]

/-! ### STOP-PB while STARTING (R36) -/

/-- The state in which the press has ended the attempt, before the engine state is entered. -/
def attemptStopped (phase : Phase) (s : State) : State :=
  { endAttempt .stopped (closeClaim phase stoppedByte s) with
    seq := { (endAttempt .stopped (closeClaim phase stoppedByte s)).seq with attempts := 0 } }

theorem stopPress_starting {phase : Phase} (h : s.seq.engine = .starting phase) :
    stopPress p s = enterState (if phase = .prep then .stopped else .stopping .stopped) (attemptStopped phase s) := by
  unfold stopPress
  rw [h]
  cases phase <;> rfl

theorem attemptStopped_state {phase : Phase} (h : s.seq.engine = .starting phase) :
    (attemptStopped phase s).seq.attempts = 0 ∧ (attemptStopped phase s).seq.record = (endAttempt .stopped s).seq.record
      ∧ (attemptStopped phase s).seq.crankCount = s.seq.crankCount + cranksEnded s
      ∧ (attemptStopped phase s).arb = (closeClaim phase stoppedByte s).arb
      ∧ (attemptStopped phase s).link = (closeClaim phase stoppedByte s).link
      ∧ (attemptStopped phase s).meas = s.meas := by
  have hseq := closeClaim_seq stoppedByte h
  have hmeas := (closeClaim_apart phase stoppedByte s).meas
  have hrecord : (endAttempt .stopped (closeClaim phase stoppedByte s)).seq.record = (endAttempt .stopped s).seq.record := by
    rw [endAttempt_record, endAttempt_record, hmeas, phaseElapsed, hseq]
    rfl
  exact ⟨rfl, hrecord, congrArg Sequencer.crankCount hseq, rfl, rfl, hmeas⟩

/-- R36: what the press leaves of an attempt, once every block has judged. -/
theorem settle_stopPress_starting {phase : Phase} (h : s.seq.engine = .starting phase) :
    (settle p (stopPress p s)).seq.engine = (if phase = .prep then stoppedEngine s else haltedEngine p s)
      ∧ (settle p (stopPress p s)).seq.attempts = 0 ∧ attemptClosed .stopped s (settle p (stopPress p s))
      ∧ (settle p (stopPress p s)).arb = (closeClaim phase stoppedByte s).arb
      ∧ (settle p (stopPress p s)).seq.crankCount = s.seq.crankCount + cranksEnded s := by
  obtain ⟨hattempts, hrecord, hcount, harb, hlink, hmeas⟩ := attemptStopped_state h
  have hlinkState : (attemptStopped phase s).link.state = s.link.state := by
    rw [hlink, (closeClaim_apart phase stoppedByte s).link]
  have hspeed : (settle p (stopPress p s)).meas.speed = s.meas.speed := by
    rw [((stopPress_apart p s).trans (settle_apart p _)).meas]
  have hcrank := (settle_kept p (stopPress p s)).crankCount
  rw [stopPress_starting h] at hspeed hcrank ⊢
  rw [enterState_crankCount] at hcrank
  by_cases hprep : phase = .prep
  · rw [if_pos hprep] at hspeed hcrank ⊢
    obtain ⟨he, ha, hatt, hrec, -, -⟩ := settle_enterStopped (p := p) (attemptStopped phase s)
    refine ⟨?_, hatt.trans hattempts, attemptClosed_of hspeed (hrec.trans hrecord), ha.trans harb, hcrank.trans hcount⟩
    rw [he, if_pos hprep]
    unfold stoppedEngine linkSilent
    rw [hlinkState]
  · rw [if_neg hprep] at hspeed hcrank ⊢
    have hstop : (enterState (.stopping .stopped) (attemptStopped phase s)).seq.engine = .stopping .stopped := by
      rw [enterState_engine]
      rfl
    obtain ⟨he, ha, hrec, -, hatt⟩ := settle_halted_stopped (p := p) hstop
    rw [enterState_arb] at ha
    rw [enterState_record] at hrec
    refine ⟨?_, hatt (by rw [enterState_seq]; exact hattempts), attemptClosed_of hspeed (hrec.trans hrecord), ha.trans harb,
      hcrank.trans hcount⟩
    rw [he, if_neg hprep]
    exact haltedEngine_congr ((enterState_meas _).trans hmeas) (by rw [enterState_link]; exact hlinkState)

/-- R36: the frame the press asks for in PREP and in CRANK. -/
theorem asked_stopPress {phase : Phase} {c : Claim} (h : s.seq.engine = .starting phase)
    (hc : claimOf .own s.arb.claims = some c) (hs : openLink s) :
    (phase = .prep → asked (.withdraw c.serial) (settle p (stopPress p s)))
      ∧ (phase = .crank → asked (.crankOff 2 (levelByte c.level) c.serial (s.seq.crankCount + 1))
          (settle p (stopPress p s))) := by
  obtain ⟨-, -, -, -, hlink, -⟩ := attemptStopped_state h
  have hown := ownClaim_of_claimOf hc
  rw [stopPress_starting h]
  constructor
  · rintro rfl
    refine asked_settle_quiet hs ?_ (by simp [contentKind]) (enterStopped_quiet _)
    rw [enterState_link, hlink, ← hown]
    unfold closeClaim
    rw [withdrawClaim_eq]
  · rintro rfl
    refine asked_settle_halt_stopped (by rw [enterState_engine]; rfl) hs ?_ (by simp [contentKind])
    rw [enterState_link, hlink, ← hown]
    unfold closeClaim
    rw [endCrankCounted_eq]
    rfl

/-! ### STOP-PB in the other states (R36) -/

theorem stopPress_stops {d : StopDest} (h : s.seq.engine = .running ∨ s.seq.engine = .stopping d)
    (hd : ∀ r, d ≠ .lockedOut r) : stopPress p s = enterState (.stopping .stopped) s
      ∨ s.seq.engine = .stopping .prep ∧ stopPress p s = enterState (.stopping .stopped) (discardKept s) := by
  unfold stopPress
  rcases h with h | h
  · rw [h]
    exact .inl rfl
  · rw [h]
    cases d with
    | lockedOut r => exact absurd rfl (hd r)
    | prep => exact .inr ⟨rfl, rfl⟩
    | stopped | retryWait | layover => exact .inl rfl

theorem discardKept_link_state (s : State) : (discardKept s).link.state = s.link.state := by
  rw [(discardKept_apart s).link]

theorem settle_stopPress_stops {d : StopDest} (h : s.seq.engine = .running ∨ s.seq.engine = .stopping d)
    (hd : ∀ r, d ≠ .lockedOut r) : (settle p (stopPress p s)).seq.engine = haltedEngine p s
      ∧ (settle p (stopPress p s)).arb = s.arb := by
  have stop (w : State) : (enterState (.stopping .stopped) w).seq.engine = .stopping .stopped := by
    rw [enterState_engine]
    rfl
  rcases stopPress_stops (p := p) h hd with e | ⟨-, e⟩
  · obtain ⟨he, ha, -⟩ := settle_halted_stopped (p := p) (stop s)
    rw [e]
    exact ⟨he.trans (haltedEngine_congr (enterState_meas _) (by rw [enterState_link])), by rw [ha, enterState_arb]⟩
  · obtain ⟨he, ha, -⟩ := settle_halted_stopped (p := p) (stop (discardKept s))
    rw [e]
    refine ⟨he.trans (haltedEngine_congr ?_ ?_), by rw [ha, enterState_arb, discardKept_arb]⟩
    · rw [enterState_meas, discardKept_meas]
    · rw [enterState_link, discardKept_link_state]

/-- R36: the kept serial of a yield is discarded, and its WITHDRAW asked for. -/
theorem settle_stopPress_kept (h : s.seq.engine = .stopping .prep) :
    (settle p (stopPress p s)).seq.keptSerial = none
      ∧ ∀ k, s.seq.keptSerial = some k → openLink s → asked (.withdraw k) (settle p (stopPress p s)) := by
  have e : stopPress p s = enterState (.stopping .stopped) (discardKept s) := by
    unfold stopPress
    rw [h]
  have hstop : (enterState (.stopping .stopped) (discardKept s)).seq.engine = .stopping .stopped := by
    rw [enterState_engine]
    rfl
  obtain ⟨-, -, -, hkept, -⟩ := settle_halted_stopped (p := p) hstop
  rw [e]
  refine ⟨hkept.trans ?_, fun k hk hs => asked_settle_halt_stopped (s := { s with seq := { s.seq with keptSerial := none } })
    hstop hs ?_ (by simp [contentKind])⟩
  · rw [enterState_seq, discardKept_seq]
    rfl
  · rw [enterState_link]
    unfold discardKept requestMade
    rw [hk]
    dsimp only
    rw [requestFrame_eq]

theorem stopPress_waits (h : s.seq.engine = .retryWait ∨ s.seq.engine = .layover) : stopPress p s = enterState .stopped s := by
  unfold stopPress
  rcases h with h | h <;> rw [h]

theorem stopPress_lockedOut {r : LockReason} (h : s.seq.engine = .lockedOut r) : stopPress p s
    = if atRest p s ∧ !fuelHold s then
        enterState .stopped { s with prot := { s.prot with tripLatch := false, groundOff := false } }
      else s := by
  unfold stopPress
  rw [h]

theorem stopPress_idle (h : s.seq.engine = .stopped ∨ isInhibited s = true ∨ ∃ r, s.seq.engine = .stopping (.lockedOut r)) :
    stopPress p s = s := by
  unfold stopPress
  unfold isInhibited at h
  rcases h with h | h | ⟨r, h⟩
  · rw [h]
  · split at h
    · rename_i k hk
      rw [hk]
    · cases h
  · rw [h]

/-- What a press leaves of each engine state, once every block has judged: the statement of R36 on one state. -/
theorem settle_stopPress (p : Params) (s : State) :
    (∀ c, s.seq.engine = .starting .prep → claimOf .own s.arb.claims = some c →
      (settle p (stopPress p s)).seq.engine = stoppedEngine s ∧ (settle p (stopPress p s)).seq.attempts = 0
      ∧ attemptClosed .stopped s (settle p (stopPress p s))
      ∧ claimOf .own (settle p (stopPress p s)).arb.claims = none
      ∧ (settle p (stopPress p s)).seq.crankCount = s.seq.crankCount
      ∧ (openLink s → asked (.withdraw c.serial) (settle p (stopPress p s))))
    ∧ (∀ c, s.seq.engine = .starting .crank → claimOf .own s.arb.claims = some c →
      (settle p (stopPress p s)).seq.engine = haltedEngine p s ∧ (settle p (stopPress p s)).seq.attempts = 0
      ∧ attemptClosed .stopped s (settle p (stopPress p s))
      ∧ claimOf .own (settle p (stopPress p s)).arb.claims = none
      ∧ (settle p (stopPress p s)).arb.rotation = toTail .own s.arb.rotation
      ∧ (settle p (stopPress p s)).seq.crankCount = s.seq.crankCount + 1
      ∧ (openLink s → asked (.crankOff 2 (levelByte c.level) c.serial (s.seq.crankCount + 1))
          (settle p (stopPress p s))))
    ∧ (s.seq.engine = .starting .fire ∨ s.seq.engine = .starting .confirm →
      (settle p (stopPress p s)).seq.engine = haltedEngine p s ∧ (settle p (stopPress p s)).seq.attempts = 0
      ∧ attemptClosed .stopped s (settle p (stopPress p s)) ∧ (settle p (stopPress p s)).arb = s.arb
      ∧ (settle p (stopPress p s)).seq.crankCount = s.seq.crankCount) := by
  have counts (h : s.seq.engine = .starting .crank) : cranksEnded s = 1 := if_pos h
  have uncounted (phase : Phase) (h : s.seq.engine = .starting phase) (hne : phase ≠ .crank) :
      s.seq.crankCount + cranksEnded s = s.seq.crankCount := by
    unfold cranksEnded
    rw [h, if_neg (by simpa using hne)]
    simp
  refine ⟨fun c h hc => ?_, fun c h hc => ?_, fun h => ?_⟩
  · obtain ⟨he, hatt, hclosed, harb, hcount⟩ := settle_stopPress_starting (p := p) h
    refine ⟨he, hatt, hclosed, ?_, hcount.trans (uncounted _ h (by simp)), fun hs => (asked_stopPress h hc hs).1 rfl⟩
    rw [harb]
    exact (closeClaim_claims stoppedByte h).1 (.inl h)
  · obtain ⟨he, hatt, hclosed, harb, hcount⟩ := settle_stopPress_starting (p := p) h
    obtain ⟨hown, hrotation⟩ := closeClaim_claims stoppedByte h
    refine ⟨he, hatt, hclosed, ?_, ?_, hcount.trans (by rw [counts h]), fun hs => (asked_stopPress h hc hs).2 rfl⟩
    · rw [harb]
      exact hown (.inr h)
    · rw [harb, hrotation, if_pos h]
  · rcases h with h | h
    · obtain ⟨he, hatt, hclosed, harb, hcount⟩ := settle_stopPress_starting (p := p) h
      exact ⟨he, hatt, hclosed, harb, hcount.trans (uncounted _ h (by simp))⟩
    · obtain ⟨he, hatt, hclosed, harb, hcount⟩ := settle_stopPress_starting (p := p) h
      exact ⟨he, hatt, hclosed, harb, hcount.trans (uncounted _ h (by simp))⟩

theorem settle_stopPress_waits (h : s.seq.engine = .retryWait ∨ s.seq.engine = .layover) :
    (settle p (stopPress p s)).seq.engine = stoppedEngine s ∧ (settle p (stopPress p s)).seq.recrankTimer = none
      ∧ (settle p (stopPress p s)).layover.watch = .inactive := by
  rw [stopPress_waits h]
  obtain ⟨he, -, -, -, htimer, hwatch⟩ := settle_enterStopped (p := p) s
  exact ⟨he, htimer, hwatch⟩

theorem settle_stopPress_lockedOut {r : LockReason} (h : s.seq.engine = .lockedOut r) :
    (atRest p s = true → fuelHold s = false → (settle p (stopPress p s)).seq.engine = stoppedEngine s
        ∧ (settle p (stopPress p s)).prot.tripLatch = false)
      ∧ (atRest p s = false ∨ fuelHold s = true → (settle p (stopPress p s)).seq.engine = .lockedOut r
        ∧ (settle p (stopPress p s)).prot.tripLatch = s.prot.tripLatch) := by
  rw [stopPress_lockedOut h]
  refine ⟨fun hr hf => ?_, fun hn => ?_⟩
  · rw [if_pos ⟨hr, by rw [hf]; rfl⟩]
    have hstopped : stoppedEngine { s with prot := { s.prot with tripLatch := false, groundOff := false } } = stoppedEngine s := rfl
    have hlatch : ({ s with prot := { s.prot with tripLatch := false, groundOff := false } } : State).prot.tripLatch = false := rfl
    generalize ({ s with prot := { s.prot with tripLatch := false, groundOff := false } } : State) = v at hstopped hlatch ⊢
    have hkept := (enterState_kept .stopped v).trans (settle_kept p _)
    exact ⟨(settle_enterStopped v).1.trans hstopped, hkept.tripLatch.trans hlatch⟩
  · rw [if_neg]
    · exact ⟨(settle_engine_quiet (quiet_of_restful (by rw [h]; rfl))).trans h, (settle_kept p s).tripLatch⟩
    · rintro ⟨hr, hf⟩
      rcases hn with hn | hn
      · rw [hn] at hr
        cases hr
      · rw [hn] at hf
        cases hf

/-- Settles O25: the press by engine state. -/
theorem stopButtonByState : Obligations.StopButtonByState := by
  intro p s hp hon
  have run : exec (.debounceTimeout .stopPb) s = .next (settle p (stopPress p (inputTaken .stopPb s))) :=
    debounceTimeout_goesOn hp hon
  have hfollow := settle_follows ((stopPress_apart p (inputTaken .stopPb s)).applied hp)
  obtain ⟨prep, crank, later⟩ := settle_stopPress p (inputTaken .stopPb s)
  have stops {d : StopDest} := settle_stopPress_stops (s := inputTaken .stopPb s) (p := p) (d := d)
  have keeps := settle_stopPress_kept (s := inputTaken .stopPb s) (p := p)
  have waits := settle_stopPress_waits (s := inputTaken .stopPb s) (p := p)
  have locked {r : LockReason} := settle_stopPress_lockedOut (s := inputTaken .stopPb s) (p := p) (r := r)
  have idle := stopPress_idle (s := inputTaken .stopPb s) (p := p)
  refine ⟨_, run, hfollow, prep, crank, later, fun h => stops (d := .stopped) (.inl h) nofun, fun d h hd => stops (.inr h) hd,
    keeps, fun r h hr => ?_, waits, fun r h => locked h, fun q h => ?_⟩
  · rw [idle (.inr (.inr ⟨r, h⟩))]
    exact settle_stopping h hr
  · rw [idle (h.imp_right .inl)]
    have q' : Quiet p (inputTaken .stopPb s) := ⟨q.moving, q.ungranted, q.unwatched⟩
    exact ⟨settle_engine_quiet q', (settle_still q').arb⟩

end Sys2Proof.Machine

/-! PROOFS. Frames heard from another unit (R97, R160), DEMAND (R68) and FUEL-CUT (R53). -/

namespace Sys2Proof.Machine

variable {s t u v : State} {p : Params}

/-! ### A frame heard (R155, R160) -/

theorem receiveContent_heard {src : UnitNo} {c : Content} (h : heard p src s) (hc : contentValid c = true) :
    receiveContent src c s = settle p (takeValid p src c (frameEnded s)) := by
  obtain ⟨hp, hup, hsrc⟩ := h
  unfold receiveContent
  rw [withParams_some s _ hp, if_neg hup, if_neg (by rw [hc]; decide), if_neg hsrc]

/-- R97: a join or a refresh moves the roster and the rotation only. -/
theorem joinOrRefresh_only (w : UnitNo) (s : State) : joinOrRefresh w s = { s with
    roster := (joinOrRefresh w s).roster
    arb := { s.arb with rotation := (joinOrRefresh w s).arb.rotation } } := by
  unfold joinOrRefresh updateEntry
  split_ifs <;> rfl

/-- R97: DEMAND and FUEL-CUT only join or refresh. -/
theorem rosterTake_joins {src : UnitNo} {c : Content} (hc : ∀ p v, actOnKind p src c v = v) (s : State) :
    ∃ r w, rosterTake p src c s = { s with roster := r, arb := { s.arb with rotation := w } } := by
  unfold rosterTake
  split
  · exact ⟨s.roster, s.arb.rotation, rfl⟩
  · dsimp only
    rw [hc, ite_self]
    exact ⟨_, _, joinOrRefresh_only src s⟩

/-- A command that moves the demand unit, the link, the roster and the rotation before the blocks judge. -/
theorem Apart.own_frames {d : DemandUnit} {l : Link} {r : Roster} {w : List Who}
    (h : Apart { s with demand := d, link := l, roster := r, arb := { s.arb with rotation := w } } t) :
    Apart { s with demand := t.demand, link := t.link, roster := t.roster } t :=
  { h with demand := rfl, link := rfl, roster := rfl }

theorem Apart.own_demand_roster {d : DemandUnit} {l : Link} {r : Roster} {w : List Who}
    (h : Apart { s with demand := d, link := l, roster := r, arb := { s.arb with rotation := w } } t) :
    Apart { s with demand := t.demand, link := l, roster := t.roster } t :=
  { h with demand := rfl, roster := rfl }

/-! ### DEMAND (R68) -/

/-- The record of a DEMAND whose row is ID to N8. -/
theorem takeDemand_row {src : UnitNo} {row rev brake serial : Byte} {r : Row} (hr : 1 ≤ r.val) (h : row.toNat = r.val)
    (s : State) : takeDemand p src row rev brake serial s =
      (let s1 := { s with demand := { s.demand with recent := refreshSource (.unit src) s.demand.recent } }
       let s2 := { s1 with demand := { s1.demand with remote := some (remoteOf src r rev brake serial) } }
       followDemand (if consistStart (remoteOf src r rev brake serial) s1 then startRequest p .demand s2 else s2)) := by
  have hrow : 1 ≤ row.toNat ∧ row.toNat < 10 := by omega
  have hfin : (⟨row.toNat, hrow.2⟩ : Row) = r := Fin.ext h
  unfold takeDemand
  rw [dif_pos hrow, hfin]

theorem takeDemand_outside {src : UnitNo} {row rev brake serial : Byte} (h : row.toNat = 0 ∨ 10 ≤ row.toNat) (s : State) :
    takeDemand p src row rev brake serial s = s := by
  unfold takeDemand
  rw [dif_neg (by omega)]

/-- The state in which a DEMAND's source has been refreshed and its record taken. -/
def demandHeard (src : UnitNo) (r : RemoteRecord) (s : State) : State :=
  { s with demand := { s.demand with recent := refreshSource (.unit src) s.demand.recent, remote := some r } }

/-- The state in which a DEMAND's source has been refreshed. -/
def sourceHeard (src : UnitNo) (s : State) : State :=
  { s with demand := { s.demand with recent := refreshSource (.unit src) s.demand.recent } }

/-- R68: the demand unit's part of a DEMAND whose row is ID to N8. -/
def demandFollowed (p : Params) (src : UnitNo) (r : RemoteRecord) (s : State) : State :=
  followDemand (if consistStart r (sourceHeard src s) then startRequest p .demand (demandHeard src r s) else demandHeard src r s)

theorem consistStart_iff (r : RemoteRecord) (src : UnitNo) (s : State) : consistStart r (sourceHeard src s) = true ↔
    (∃ old, s.demand.remote = some old ∧ old.source = r.source ∧ old.serial ≠ r.serial)
      ∧ (s.demand.source = .current ∨ s.demand.source = .holding)
      ∧ (refreshSource (.unit src) s.demand.recent).length < 2 := by
  unfold consistStart demandConflict sourceHeard
  dsimp only
  cases s.demand.remote <;> simp [and_assoc]

theorem demandFollowed_demand (p : Params) (src : UnitNo) (r : RemoteRecord) (s : State) :
    (demandFollowed p src r s).demand = { s.demand with
      recent := refreshSource (.unit src) s.demand.recent, remote := some r, demandTimer := some 0
      source := if s.demand.source = .own then .own else .current
      holdTimer := if s.demand.source = .holding then none else s.demand.holdTimer } := by
  have e : (if consistStart r (sourceHeard src s) then startRequest p .demand (demandHeard src r s)
      else demandHeard src r s).demand = (demandHeard src r s).demand := by
    split
    · exact startRequest_demand p _ _
    · rfl
  unfold demandFollowed followDemand
  dsimp only
  rw [e]
  rfl

theorem followDemand_still (s : State) : Still s (followDemand s) := ⟨rfl, rfl, id, rfl⟩

theorem Apart.with_demand (h : Apart s t) (d : DemandUnit) : Apart { s with demand := d } { t with demand := d } :=
  { h with demand := rfl }

theorem demandFollowed_apart (p : Params) (src : UnitNo) (r : RemoteRecord) (s : State) :
    Apart { s with demand := (demandFollowed p src r s).demand } (demandFollowed p src r s) := by
  have h : Apart (demandHeard src r s) (if consistStart r (sourceHeard src s) then startRequest p .demand (demandHeard src r s)
      else demandHeard src r s) := .ite (fun _ => (startRequest_kept p _ _).apart) fun _ => .refl _
  exact h.with_demand (demandFollowed p src r s).demand

/-- A consist start that is accepted (R68, R19). -/
theorem settle_consistStart {src : UnitNo} {r : RemoteRecord} (hc : consistStart r (sourceHeard src s) = true)
    (ha : acceptsStart p s) (hsettle : 0 < p.crank.claimSettle) : startedAt .demand s (settle p (demandFollowed p src r s)) := by
  have ha' : acceptsStart p (demandHeard src r s) := ha
  have q := enterPrep_quiet hsettle (startingAt .demand (demandHeard src r s))
  have hstill := followDemand_still (enterPrep (startingAt .demand (demandHeard src r s)))
  unfold demandFollowed
  rw [if_pos hc, startRequest_accepted ha']
  exact enterPrep_startingAt .demand (demandHeard src r s) (hstill.trans (settle_still (hstill.quiet q)))

theorem demandFollowed_still {src : UnitNo} {r : RemoteRecord} (hc : consistStart r (sourceHeard src s) = false) :
    Still s (demandFollowed p src r s) := by
  unfold demandFollowed
  rw [hc]
  exact ⟨rfl, rfl, id, rfl⟩

/-- Settles O27: the roster hears the DEMAND, then the demand unit follows it. -/
theorem demandFrameIsFollowed : Obligations.DemandFrameIsFollowed := by
  intro p s src row rev brake serial hheard hrev hbrake hserial
  have hp := hheard.1
  have hvalid : contentValid (.demand row rev brake serial) = true := by
    simp [contentValid, hrev, hbrake, hserial]
  obtain ⟨r, w, hr⟩ := rosterTake_joins (p := p) (src := src) (c := .demand row rev brake serial) (fun _ _ => rfl) (frameEnded s)
  generalize hv : ({ frameEnded s with roster := r, arb := { (frameEnded s).arb with rotation := w } } : State) = v at hr
  have run : exec (.demand src row rev brake serial) s = .next (settle p (takeDemand p src row rev brake serial v)) := by
    show Host.Outcome.next (receiveContent src (.demand row rev brake serial) s) = _
    rw [receiveContent_heard hheard hvalid, takeValid, takeGeneral, hr]
  have hdem : v.demand = s.demand := by rw [← hv]; rfl
  have happ : v.reader.applied = some p := by rw [← hv]; exact hp
  have hquiet (q : Quiet p s) : Quiet p v := by
    rw [← hv]
    exact ⟨q.moving, q.ungranted, q.unwatched⟩
  have frame {x : State} (h : Apart { v with demand := x.demand } (settle p x)) : Apart { s with
      demand := (settle p x).demand, link := { s.link with receive := .waitingIdle }, roster := (settle p x).roster }
      (settle p x) := by
    rw [← hv] at h
    exact Apart.own_demand_roster (r := r) (w := w) h
  refine ⟨_, run, ?_⟩
  by_cases hrow : 1 ≤ row.toNat ∧ row.toNat < 10
  · have heq := takeDemand_row (p := p) (src := src) (rev := rev) (brake := brake) (serial := serial)
      (r := ⟨row.toNat, hrow.2⟩) hrow.1 rfl v
    rw [show takeDemand p src row rev brake serial v
      = demandFollowed p src (remoteOf src ⟨row.toNat, hrow.2⟩ rev brake serial) v from heq]
    have hapart := demandFollowed_apart p src (remoteOf src ⟨row.toNat, hrow.2⟩ rev brake serial) v
    refine ⟨settle_follows (hapart.applied happ), frame (hapart.trans (settle_apart p _)), fun k hk hkr => ?_,
      fun h => absurd hrow (by omega)⟩
    obtain rfl : (⟨row.toNat, hrow.2⟩ : Row) = k := Fin.ext hkr
    have hd := settle_demand p (demandFollowed p src (remoteOf src ⟨row.toNat, hrow.2⟩ rev brake serial) v)
    rw [demandFollowed_demand, hdem] at hd
    rw [hd]
    refine ⟨rfl, rfl, rfl, mem_refreshSource _ _, fun old ho hsource hne hstate hlen ha hc => ?_, fun hnone q => ?_⟩
    · have hstart : consistStart (remoteOf src ⟨row.toNat, hrow.2⟩ rev brake serial) (sourceHeard src v) = true := by
        rw [consistStart_iff, hdem]
        exact ⟨⟨old, ho, hsource, hne⟩, hstate, hlen⟩
      have ha' : acceptsStart p v := by rw [← hv]; exact ha
      have h := settle_consistStart hstart ha' hc
      generalize settle p (demandFollowed p src _ v) = x at h ⊢
      rw [← hv] at h
      exact h
    · have hstart : consistStart (remoteOf src ⟨row.toNat, hrow.2⟩ rev brake serial) (sourceHeard src v) = false := by
        rw [Bool.eq_false_iff]
        intro h
        obtain ⟨⟨old, ho, -⟩, -⟩ := (consistStart_iff _ _ _).mp h
        rw [hdem, hnone] at ho
        cases ho
      have hstill := demandFollowed_still (p := p) hstart
      rw [settle_engine_quiet (hstill.quiet (hquiet q)), hstill.engine, ← hv]
      rfl
  · rw [takeDemand_outside (by omega)]
    refine ⟨settle_follows happ, frame (x := v) (settle_apart p v), fun k hk hkr => absurd hrow (by omega), fun _ => ?_⟩
    rw [settle_demand, hdem]

end Sys2Proof.Machine

/-! PROOFS. ESTOP and FUEL-CUT (R53, R54). -/

namespace Sys2Proof.Machine

variable {s t u v : State} {p : Params}

/-! ### FUEL-CUT in the queue (R157) -/

/-- No request replaces, cancels or displaces a FUEL-CUT, but another FUEL-CUT. -/
theorem fuelCut_mem_enqueue {f : TxFrame} {q : List TxFrame} (hf : txKind f ≠ 0) (h : .made .fuelCut ∈ q) :
    .made .fuelCut ∈ enqueue f q := by
  by_cases hsame : ∃ g ∈ q, txKind g = txKind f
  · exact mem_enqueue_kept hsame h (Ne.symm hf)
  · have hnew : ∀ g ∈ q, txKind g ≠ txKind f := fun g hg hk => hsame ⟨g, hg, hk⟩
    have hmem : .made .fuelCut ∈ uncancelled f q := by
      refine mem_uncancelled.mpr ⟨h, fun hc => ?_⟩
      have := cancelledKind_iff.mp hc
      simp [txKind, contentKind] at this
    rw [enqueue_new hnew]
    split
    · exact (mem_insertFrame _ _ _).mpr (.inr hmem)
    · split
      · rename_i last hlast
        split
        · rename_i hlt
          refine (mem_insertFrame _ _ _).mpr (.inr ?_)
          rw [← List.dropLast_append_getLast? last hlast] at hmem
          rcases List.mem_append.mp hmem with hm | hm
          · exact hm
          · rw [← List.mem_singleton.mp hm] at hlt
            exact absurd hlt (Nat.not_lt_zero _)
        · exact hmem
      · exact (mem_insertFrame _ _ _).mpr (.inr hmem)

theorem asked_fuelCut_settle (h : asked .fuelCut s) : asked .fuelCut (settle p s) := by
  have grow {q r : List TxFrame} (g : Grows judgedKinds q r) (hq : .made .fuelCut ∈ q) : .made .fuelCut ∈ r := by
    induction g with
    | refl => exact hq
    | tail _ hstep ih =>
      obtain ⟨f, hf, rfl⟩ := hstep
      exact fuelCut_mem_enqueue (fun h0 => by rw [h0] at hf; exact absurd hf (by decide)) ih
  exact grow (settle_asks p s).grows h

/-! ### The queue a trip leaves (R157) -/

/-- A queue no longer than 8 stays so under the requests. -/
theorem length_queueAfter (f : TxFrame) (h : s.link.queue.length ≤ 8) : (queueAfter f s).length ≤ 8 := by
  unfold queueAfter
  split
  · exact length_enqueue f h
  · exact h

theorem trip_queue (r : LockReason) (src : Option CutSource) (h : s.link.queue.length ≤ 8) :
    (trip r src s).link.queue.length ≤ 8 := by
  have close (ph : Phase) (w : State) (hw : w.link.queue.length ≤ 8) : (closeClaim ph failedByte w).link.queue.length ≤ 8 := by
    cases ph with
    | prep =>
      unfold closeClaim
      rw [withdrawClaim_eq]
      exact length_queueAfter _ hw
    | crank =>
      unfold closeClaim
      rw [endCrankCounted_eq]
      exact length_queueAfter _ hw
    | fire | confirm => exact hw
  have request (w : State) (hw : w.link.queue.length ≤ 8) : (tripRequest r w).link.queue.length ≤ 8 := by
    by_cases hst : ∃ ph, w.seq.engine = .starting ph
    · obtain ⟨ph, hst⟩ := hst
      rw [tripRequest_starting r hst, enterState_link]
      exact close ph w hw
    · unfold tripRequest
      split
      · exact absurd ⟨_, ‹_›⟩ hst
      · rwa [enterState_link]
      · rwa [enterState_link]
      · rwa [enterState_link]
      · rwa [enterState_link]
      · split
        · exact hw
        · rw [enterState_link]
          unfold discardKept requestMade
          split
          · exact hw
          · rw [requestFrame_eq]
            exact length_queueAfter _ hw
        · rwa [enterState_link]
        · rwa [enterState_link]
        · rwa [enterState_link]
      · exact hw
      · exact hw
  unfold trip
  split
  · exact h
  · exact request _ h

/-! ### A trip, and what follows it in the same step -/

/-- The engine state after a trip's request is locked out or inhibited, or stops toward a lockout. -/
theorem tripRequest_halts (r : LockReason) (s : State) : (∃ k, (tripRequest r s).seq.engine = .stopping (.lockedOut k))
    ∨ restful (tripRequest r s).seq.engine = true := by
  rw [tripRequest_engine]
  split
  · exact .inr rfl
  · exact .inr rfl
  · exact .inl ⟨_, rfl⟩
  · exact .inl ⟨_, rfl⟩

/-- A state with the engine state and the speed of a trip's request goes where the trip leads. -/
theorem settle_tripEngine {r : LockReason} (he : v.seq.engine = (tripRequest r s).seq.engine) (hm : v.meas = s.meas) :
    (settle p v).seq.engine = tripEngine p s r := by
  rw [← settle_tripRequest_engine (s := s)]
  have hrest : atRest p v = atRest p (tripRequest r s) := by
    unfold atRest
    rw [tripRequest_meas, hm]
  rcases tripRequest_halts r s with ⟨k, hk⟩ | hk
  · rw [settle_stopping_lockedOut hk, settle_stopping_lockedOut (he.trans hk), hrest]
  · rw [settle_engine_quiet (quiet_of_restful hk), settle_engine_quiet (quiet_of_restful (by rw [he]; exact hk)), he]

/-- R54: the engine state, the crank count and the protection unit of a trip, once every block has judged. -/
theorem settle_after_trip {r : LockReason} {src : Option CutSource} (h : isInhibited s = false)
    (hseq : v.seq = (trip r src s).seq) (hprot : v.prot = (trip r src s).prot) (hmeas : v.meas = s.meas) :
    Tripped (tripRecordOf r src s) (settle p v) ∧ (settle p v).seq.engine = tripEngine p s r
      ∧ (settle p v).seq.crankCount = s.seq.crankCount + cranksEnded s := by
  have k := settle_kept p v
  obtain ⟨hlatch, hhold, hrecord, -⟩ := trip_prot r src h
  have hengine : v.seq.engine = (tripRequest r s).seq.engine := by
    rw [hseq, trip, if_neg (by rw [h]; decide), tripRequest_engine, tripRequest_engine]
  have hcount : v.seq.crankCount = s.seq.crankCount + cranksEnded s := by
    rw [hseq, trip, if_neg (by rw [h]; decide)]
    exact tripRequest_crankCount r
  rw [← hprot] at hlatch hhold hrecord
  exact ⟨⟨k.tripRecord.trans hrecord, k.tripLatch.trans hlatch, k.holdTimer.trans hhold, settle_allOff_of_latch hlatch⟩,
    settle_tripEngine hengine hmeas, k.crankCount.trans hcount⟩

/-- In INHIBITED a trip changes nothing, nor do the judgements move engine state, trip latch or record. -/
theorem settle_inhibited (h : isInhibited s = true) (hseq : v.seq = s.seq) (hprot : v.prot = s.prot) :
    (settle p v).seq.engine = s.seq.engine ∧ (settle p v).prot.record = s.prot.record
      ∧ (settle p v).prot.tripLatch = s.prot.tripLatch := by
  have k := settle_kept p v
  have hrest : restful v.seq.engine = true := by
    rw [hseq]
    unfold isInhibited at h
    split at h
    · rename_i r hr
      rw [hr]
      rfl
    · cases h
  exact ⟨(settle_engine_quiet (quiet_of_restful hrest)).trans (by rw [hseq]), k.tripRecord.trans (by rw [hprot]),
    k.tripLatch.trans (by rw [hprot])⟩

/-- Settles O34: the frame by way of the roster, ESTOP by way of its line; either is one trip. -/
theorem fuelCutTrips : Obligations.FuelCutTrips := by
  intro p s cmd source hp hcmd
  obtain ⟨w, v, run, hw, hseq, hprot, hapart, hasked⟩ : ∃ w v : State, exec cmd s = .next (settle p v)
      ∧ (∃ d l r a, w = { s with demand := d, link := l, roster := r, arb := { s.arb with rotation := a } })
      ∧ v.seq = (trip .fuelCut (some source) w).seq ∧ v.prot = (trip .fuelCut (some source) w).prot ∧ Apart w v
      ∧ (source = .localEstop → s.link.state = .up → queueSound s.link → asked .fuelCut v) := by
    rcases hcmd with ⟨rfl, rfl, hon⟩ | ⟨src, rfl, rfl, hheard⟩
    · refine ⟨inputTaken .estop s, estopOn (inputTaken .estop s), debounceTimeout_goesOn hp hon, ⟨_, _, _, _, rfl⟩, ?_, ?_, ?_,
        fun _ hup hq => ?_⟩
      · unfold estopOn requestMade
        rw [requestFrame_eq]
      · unfold estopOn requestMade
        rw [requestFrame_eq]
      · exact (trip_apart _ _ _).trans (requestFrame_kept _ _).apart
      · have hlink := (trip_apart .fuelCut (some .localEstop) (inputTaken .estop s)).link
        have hlen := trip_queue .fuelCut (some .localEstop) (s := inputTaken .estop s) hq.1
        unfold asked estopOn requestMade
        rw [requestFrame_eq]
        show _ ∈ queueAfter _ _
        unfold queueAfter
        rw [if_pos (by rw [hlink]; exact hup)]
        exact mem_enqueue_lowest hlen fun _ _ => Nat.zero_le _
    · obtain ⟨r, a, hr⟩ := rosterTake_joins (p := p) (src := src) (c := .fuelCut) (fun _ _ => rfl) (frameEnded s)
      refine ⟨_, _, ?_, ⟨s.demand, (frameEnded s).link, r, a, rfl⟩, rfl, rfl, trip_apart _ _ _, nofun⟩
      show Host.Outcome.next (receiveContent src .fuelCut s) = _
      rw [receiveContent_heard hheard rfl, takeValid, takeGeneral, hr]
      rfl
  obtain ⟨d, l, r, a, rfl⟩ := hw
  refine ⟨fun hi => ?_, fun hi => ⟨_, run, settle_inhibited (s := s) hi (hseq.trans ?_) (hprot.trans ?_)⟩⟩
  · obtain ⟨htripped, hengine, hcount⟩ := settle_after_trip (p := p)
      (s := { s with demand := d, link := l, roster := r, arb := { s.arb with rotation := a } }) hi hseq hprot hapart.meas
    exact ⟨_, run, htripped, hengine, hcount, (hapart.trans (settle_apart p v)).own_frames,
      fun hs hup hq => asked_fuelCut_settle (hasked hs hup hq)⟩
  · rw [trip, if_pos (by exact hi)]
  · rw [trip, if_pos (by exact hi)]

end Sys2Proof.Machine

/-! PROOFS. What a general frame does to the roster (R97 to R99), and CLAIM, WITHDRAW and CRANK-OFF (R112 to R115). -/

namespace Sys2Proof.Machine

variable {s t u v : State} {p : Params} {src : UnitNo}

/-! ### Roster entries -/

theorem entryOf_cons (w : UnitNo) (e : RosterEntry) (l : List RosterEntry) :
    entryOf w (e :: l) = if e.unit = w then some e else entryOf w l := by
  unfold entryOf
  rw [List.find?_cons]
  by_cases h : e.unit = w
  · simp [h]
  · simp [beq_eq_false_iff_ne.mpr h, h]

theorem entryOf_mapEntry (x w : UnitNo) {f : RosterEntry → RosterEntry} (hf : ∀ e, (f e).unit = e.unit)
    (l : List RosterEntry) : entryOf w (mapEntry x f l) = if w = x then (entryOf w l).map f else entryOf w l := by
  induction l with
  | nil => simp [mapEntry, entryOf]
  | cons e es ih =>
    have hunit : (if e.unit = x then f e else e).unit = e.unit := by
      split
      · exact hf e
      · rfl
    show entryOf w ((if e.unit = x then f e else e) :: mapEntry x f es) = _
    rw [entryOf_cons, entryOf_cons, hunit, ih]
    by_cases hw : e.unit = w
    · subst hw
      by_cases hx : e.unit = x <;> simp [hx]
    · simp [hw]

theorem entryOf_insertEntry {e : RosterEntry} {l : List RosterEntry} (hnew : entryOf e.unit l = none) (w : UnitNo) :
    entryOf w (insertEntry e l) = if w = e.unit then some e else entryOf w l := by
  induction l with
  | nil =>
    show entryOf w [e] = _
    rw [entryOf_cons]
    simp only [eq_comm]
  | cons d ds ih =>
    rw [entryOf_cons] at hnew
    split at hnew
    · cases hnew
    · rename_i hne
      unfold insertEntry
      split
      · rw [entryOf_cons]
        simp only [eq_comm]
      · rw [entryOf_cons, entryOf_cons, ih hnew]
        by_cases hw : d.unit = w
        · subst hw
          simp [hne]
        · simp [hw]

theorem entryOf_insertEntry_new {w : UnitNo} {l : List RosterEntry} (hnew : entryOf w l = none) (x : UnitNo) :
    entryOf x (insertEntry (newEntry w) l) = if x = w then some (newEntry w) else entryOf x l :=
  entryOf_insertEntry (e := newEntry w) (l := l) hnew x

theorem mapEntry_ordered (x : UnitNo) {f : RosterEntry → RosterEntry} (hf : ∀ e, (f e).unit = e.unit)
    {l : List RosterEntry} (h : l.Pairwise (fun d e => d.unit.val < e.unit.val)) :
    (mapEntry x f l).Pairwise (fun d e => d.unit.val < e.unit.val) := by
  have hu := mapEntry_units x hf l
  rw [← List.pairwise_map (f := RosterEntry.unit) (R := fun a b : UnitNo => a.val < b.val)] at h ⊢
  rw [hu]
  exact h

/-! ### A general frame heard (R97, R98) -/

/-- The state in which a unit's frame has ended and its entry has joined or been refreshed. -/
def heardBy (src : UnitNo) (s : State) : State := joinOrRefresh src (frameEnded s)

theorem heardBy_only (src : UnitNo) (s : State) : heardBy src s = { s with
    link := { s.link with receive := .waitingIdle }, roster := (heardBy src s).roster
    arb := { s.arb with rotation := (heardBy src s).arb.rotation } } := joinOrRefresh_only src (frameEnded s)

/-- R97: an entry refreshed. -/
def refreshed (e : RosterEntry) : RosterEntry := { e with age := 0 }

/-- An entry that stands is refreshed. -/
theorem heardBy_refreshed {d : RosterEntry} (h : entryOf src s.roster.entries = some d) :
    (heardBy src s).roster = { s.roster with entries := mapEntry src refreshed s.roster.entries }
      ∧ (heardBy src s).arb.rotation = s.arb.rotation := by
  unfold heardBy joinOrRefresh
  rw [if_pos (by show (entryOf src s.roster.entries).isSome = true; rw [h]; rfl)]
  exact ⟨rfl, rfl⟩

/-- A new entry joins where there is room. -/
theorem heardBy_joined (h : entryOf src s.roster.entries = none) (hroom : s.roster.entries.length < 7) :
    (heardBy src s).roster = { s.roster with entries := insertEntry (newEntry src) s.roster.entries }
      ∧ (heardBy src s).arb.rotation = s.arb.rotation ++ [.unit src] := by
  unfold heardBy joinOrRefresh
  rw [if_neg (by show ¬(entryOf src s.roster.entries).isSome = true; rw [h]; simp), if_pos (by exact hroom)]
  exact ⟨rfl, rfl⟩

/-- A full roster keeps a new unit out. -/
theorem heardBy_keptOut (h : entryOf src s.roster.entries = none) (hfull : 7 ≤ s.roster.entries.length) :
    (heardBy src s).roster = { s.roster with full := true } ∧ (heardBy src s).arb.rotation = s.arb.rotation := by
  unfold heardBy joinOrRefresh
  rw [if_neg (by show ¬(entryOf src s.roster.entries).isSome = true; rw [h]; simp),
    if_neg (by exact Nat.not_lt.mpr hfull)]
  exact ⟨rfl, rfl⟩

/-- The entry of a unit that the roster has taken. -/
theorem entryOf_heardBy (h : admitted src s) : ∃ e, entryOf src (heardBy src s).roster.entries = some e ∧ e.age = 0
    ∧ (∀ d, entryOf src s.roster.entries = some d → e = refreshed d ∧ (heardBy src s).arb.rotation = s.arb.rotation)
    ∧ (entryOf src s.roster.entries = none → e = newEntry src) := by
  cases hd : entryOf src s.roster.entries with
  | some d =>
    obtain ⟨hr, hrot⟩ := heardBy_refreshed hd
    refine ⟨refreshed d, ?_, rfl, fun x hx => ?_, nofun⟩
    · rw [hr]
      dsimp only
      rw [entryOf_mapEntry src src (f := refreshed) (fun _ => rfl), if_pos rfl, hd]
      rfl
    · cases hx
      exact ⟨rfl, hrot⟩
  | none =>
    have hroom : s.roster.entries.length < 7 := by
      obtain ⟨-, h | h⟩ := h
      · rw [hd] at h
        cases h
      · exact h
    obtain ⟨hr, -⟩ := heardBy_joined hd hroom
    refine ⟨newEntry src, ?_, rfl, fun d hd => (by cases hd), fun _ => rfl⟩
    rw [hr]
    dsimp only
    rw [entryOf_insertEntry_new hd, if_pos rfl]

theorem rosterTake_heard {c : Content} (h0 : src ≠ 0) : rosterTake p src c (frameEnded s)
    = if (entryOf src (heardBy src s).roster.entries).isSome then actOnKind p src c (heardBy src s) else heardBy src s := by
  unfold rosterTake
  rw [if_neg h0]
  rfl

/-- A general frame but DEMAND and FUEL-CUT, from a unit that the roster takes. -/
theorem receive_admitted {c : Content} (h : heard p src s) (ha : admitted src s) (hvalid : contentValid c = true)
    (hc : ∀ v, takeValid p src c v = rosterTake p src c v) :
    receiveContent src c s = settle p (actOnKind p src c (heardBy src s)) := by
  obtain ⟨e, he, -⟩ := entryOf_heardBy ha
  rw [receiveContent_heard h hvalid, hc, rosterTake_heard ha.1, he]
  rfl

/-- A command that moves the receive state, the roster and the arbiter before the blocks judge. -/
theorem Apart.own_heard {l : Link} {r : Roster} {b : Arbiter} (h : Apart { s with link := l, roster := r, arb := b } t) :
    Apart { s with link := l, roster := t.roster, arb := t.arb } t :=
  { h with roster := rfl, joinTimer := rfl, placed := rfl, expired := rfl, peerClaims := rfl }

/-- What every command leaves that moved, beside the receive state, only the roster and the arbiter. -/
theorem exec_heard {cmd : Instr} {r : Roster} {b : Arbiter} (hp : s.reader.applied = some p)
    (run : exec cmd s = .next (settle p { s with link := { s.link with receive := .waitingIdle }, roster := r, arb := b })) :
    ∃ t, exec cmd s = .next t ∧ outputsFollow t
      ∧ Apart { s with link := { s.link with receive := .waitingIdle }, roster := t.roster, arb := t.arb } t
      ∧ t.roster = r ∧ (∀ w : UnitNo, claimOf (.unit w) t.arb.claims = claimOf (.unit w) b.claims)
      ∧ t.arb.rotation = b.rotation := by
  generalize hv : ({ s with link := { s.link with receive := .waitingIdle }, roster := r, arb := b } : State) = v at run
  have hk := settle_kept p v
  have happ : v.reader.applied = some p := by rw [← hv]; exact hp
  have hfollow := settle_follows happ
  have ha := hk.apart
  generalize settle p v = t at *
  refine ⟨t, run, hfollow, ?_, by rw [hk.roster, ← hv], fun w => by rw [hk.peerClaim, ← hv], by rw [hk.rotation, ← hv]⟩
  rw [← hv] at ha
  exact ha.own_heard

theorem heardBy_with_arb (src : UnitNo) (s : State) (b : Arbiter) : ({ heardBy src s with arb := b } : State)
    = { s with link := { s.link with receive := .waitingIdle }, roster := (heardBy src s).roster, arb := b } := by
  rw [heardBy_only]

theorem heardBy_with (src : UnitNo) (s : State) (r : Roster) (b : Arbiter) : ({ heardBy src s with roster := r, arb := b } : State)
    = { s with link := { s.link with receive := .waitingIdle }, roster := r, arb := b } := by
  rw [heardBy_only]

end Sys2Proof.Machine

/-! PROOFS. CLAIM, WITHDRAW and CRANK-OFF of a peer (R103, R112 to R116). -/

namespace Sys2Proof.Machine

variable {s t u v : State} {p : Params} {src : UnitNo}

/-! ### Levels and expired pairs -/

theorem levelOfByte_levelByte (l : Level) : levelOfByte (levelByte l) = some l := by cases l <;> rfl

theorem levelOfByte_above {b : Byte} (h : 3 < b.toNat) : levelOfByte b = none := by
  unfold levelOfByte
  split
  · omega
  · omega
  · omega
  · omega
  · rfl

/-- R116: a serial that stands in no expired pair of the unit is not kept out. -/
theorem blocked_false {serial : Byte} {a : Arbiter} (h : ∀ x ∈ a.expired, x.unit = src → x.serial ≠ serial) :
    blocked src serial a = false := by
  unfold blocked
  rw [Bool.and_eq_false_iff]
  refine .inl (List.any_eq_false.mpr fun x hx => ?_)
  simpa using h x hx

/-- R116: an expired pair keeps its serial out where the unit has no entry with it. -/
theorem blocked_true {serial : Byte} {a : Arbiter} (h : { unit := src, serial } ∈ a.expired)
    (hc : ∀ c, claimOf (.unit src) a.claims = some c → c.serial ≠ serial) : blocked src serial a = true := by
  unfold blocked
  rw [Bool.and_eq_true_iff]
  refine ⟨List.any_eq_true.mpr ⟨_, h, by simp⟩, ?_⟩
  cases hd : claimOf (.unit src) a.claims with
  | none => rfl
  | some c => simpa using hc c hd

/-- R116: the arbiter without the unit's pairs of another serial. -/
def withoutExpired (src : UnitNo) (serial : Byte) (a : Arbiter) : Arbiter :=
  { a with expired := a.expired.filter (fun e => !(e.unit == src && e.serial != serial)) }

theorem dropExpired_eq (src : UnitNo) (serial : Byte) (s : State) :
    dropExpired src serial s = { s with arb := withoutExpired src serial s.arb } := rfl

theorem blocked_withoutExpired (src : UnitNo) (serial : Byte) (a : Arbiter) :
    blocked src serial (withoutExpired src serial a) = blocked src serial a := by
  have h : (withoutExpired src serial a).expired.any (fun e => e.unit == src && e.serial == serial)
      = a.expired.any (fun e => e.unit == src && e.serial == serial) := by
    show (List.filter _ a.expired).any _ = _
    rw [List.any_filter]
    refine congrArg a.expired.any (funext fun e => ?_)
    by_cases hu : e.unit = src <;> by_cases hs : e.serial = serial <;> simp [hu, hs]
  unfold blocked
  rw [h]
  rfl

/-! ### CLAIM and WITHDRAW (R112, R113) -/

/-- R112: the state that a CLAIM's entry takes. -/
def claimState (src : UnitNo) (serial : Byte) (l : List Claim) : ClaimState :=
  match claimOf (.unit src) l with
  | some c => if isCranking c ∧ c.serial = serial then c.state else .waiting
  | none => .waiting

/-- The arbiter with a peer's entry made or replaced, unless R116 keeps it out. -/
def withClaim (w : UnitNo) (l : Level) (serial : Byte) (st : ClaimState) (a : Arbiter) : Arbiter :=
  if blocked w serial a then a
  else { a with claims := putClaim { who := .unit w, level := l, serial, state := st } a.claims }

theorem withClaim_claims {w : UnitNo} {serial : Byte} {a : Arbiter} (h : blocked w serial a = false) (l : Level) (st : ClaimState) :
    (withClaim w l serial st a).claims = putClaim { who := .unit w, level := l, serial, state := st } a.claims := by
  unfold withClaim
  rw [h]
  rfl

theorem withClaim_blocked {w : UnitNo} {serial : Byte} {a : Arbiter} (h : blocked w serial a = true) (l : Level) (st : ClaimState) :
    withClaim w l serial st a = a := if_pos h

theorem makeClaim_arb (w : UnitNo) (l : Level) (serial : Byte) (st : ClaimState) (s : State) :
    makeClaim w l serial st s = { s with arb := withClaim w l serial st s.arb } := by
  unfold makeClaim withClaim
  split <;> rfl

theorem takeClaim_arb (l : Level) (serial : Byte) (s : State) : takeClaim src (levelByte l) serial s
    = { s with arb := withClaim src l serial (claimState src serial s.arb.claims) (withoutExpired src serial s.arb) } := by
  have hclaims : (withoutExpired src serial s.arb).claims = s.arb.claims := rfl
  unfold takeClaim claimState
  rw [levelOfByte_levelByte, dropExpired_eq]
  dsimp only
  rw [hclaims]
  cases claimOf (.unit src) s.arb.claims with
  | none =>
    dsimp only
    rw [makeClaim_arb]
  | some c =>
    dsimp only
    by_cases h : isCranking c ∧ c.serial = serial
    · rw [if_pos h, if_pos h, makeClaim_arb]
    · rw [if_neg h, if_neg h, makeClaim_arb]

theorem takeClaim_above {level : Byte} (h : 3 < level.toNat) (serial : Byte) (s : State) : takeClaim src level serial s = s := by
  unfold takeClaim
  rw [levelOfByte_above h]

theorem claimState_waiting {serial : Byte} {l : List Claim}
    (h : ∀ d us, claimOf (.unit src) l = some d → d.state = .cranking us → d.serial ≠ serial) :
    claimState src serial l = .waiting := by
  unfold claimState
  split
  · rename_i c hc
    rw [if_neg]
    rintro ⟨hk, hs⟩
    unfold isCranking at hk
    split at hk
    · rename_i us hus
      exact h c us hc hus hs
    · cases hk
  · rfl

theorem claimState_cranking {serial : Byte} {l : List Claim} {d : Claim} {us : Nat} (hd : claimOf (.unit src) l = some d)
    (hs : d.state = .cranking us) (hserial : d.serial = serial) : claimState src serial l = .cranking us := by
  unfold claimState
  rw [hd]
  dsimp only
  rw [if_pos ⟨by unfold isCranking; rw [hs], hserial⟩, hs]

theorem takeWithdraw_arb (serial : Byte) (s : State) : ∃ b, takeWithdraw src serial s = { s with arb := b }
    ∧ claimOf (.unit src) b.claims = (claimOf (.unit src) s.arb.claims).filter (fun d => d.serial != serial)
    ∧ ∀ w : UnitNo, w ≠ src → claimOf (.unit w) b.claims = claimOf (.unit w) s.arb.claims := by
  unfold takeWithdraw
  split
  · rename_i c hc
    split
    · rename_i hs
      refine ⟨_, rfl, ?_, fun w hw => claimOf_dropClaim_other (fun h => hw (Who.unit.inj h)) _⟩
      rw [hc]
      rw [Option.filter_some, if_neg (by simp [hs])]
      exact claimOf_dropClaim_self _ _
    · rename_i hs
      refine ⟨_, rfl, ?_, fun _ _ => rfl⟩
      rw [hc, Option.filter_some, if_pos (by simp [hs])]
  · rename_i hc
    refine ⟨_, rfl, ?_, fun _ _ => rfl⟩
    rw [hc]
    rfl

/-- The claims and pairs of the arbiter stand through a join or a refresh. -/
theorem heardBy_arb (src : UnitNo) (s : State) :
    (heardBy src s).arb = { s.arb with rotation := (heardBy src s).arb.rotation } := by
  rw [heardBy_only]

theorem heardBy_claims (src : UnitNo) (s : State) :
    (heardBy src s).arb.claims = s.arb.claims ∧ (heardBy src s).arb.expired = s.arb.expired := by
  rw [heardBy_arb]
  exact ⟨rfl, rfl⟩

/-- Settles O43: the two frames' changes of the claim list, which the judgements leave. -/
theorem claimAndWithdraw : Obligations.ClaimAndWithdraw := by
  intro p s src serial hheard ha
  have hp := hheard.1
  obtain ⟨hclaims, hexpired⟩ := heardBy_claims src s
  have claim (level : Byte) : exec (.claim src level serial) s
      = .next (settle p (takeClaim src level serial (heardBy src s))) := by
    show Host.Outcome.next (receiveContent src (.claim level serial) s) = _
    rw [receive_admitted hheard ha rfl fun _ => rfl, actOnKind]
  have withdraw : exec (.withdraw src serial) s = .next (settle p (takeWithdraw src serial (heardBy src s))) := by
    show Host.Outcome.next (receiveContent src (.withdraw serial) s) = _
    rw [receive_admitted hheard ha rfl fun _ => rfl, actOnKind]
  refine ⟨fun l hl => ?_, fun l hnone hx => ?_, fun level hlevel => ?_, ?_⟩
  · have hb : blocked src serial (withoutExpired src serial (heardBy src s).arb) = false := by
      rw [blocked_withoutExpired]
      exact blocked_false (by rw [hexpired]; exact hl)
    have run := claim (levelByte l)
    rw [takeClaim_arb, heardBy_with_arb, hclaims] at run
    have hmade := withClaim_claims hb l (claimState src serial s.arb.claims)
    obtain ⟨t, hexec, hfollow, hapart, -, hclaim, -⟩ := exec_heard hp run
    rw [hmade] at hclaim
    have hown := hclaim src
    rw [claimOf_putClaim, if_pos rfl] at hown
    refine ⟨t, _, hexec, hfollow, hapart, hown, rfl, rfl, fun h => claimState_waiting h,
      fun d us hd hus hs => claimState_cranking hd hus hs, fun w hw => ?_⟩
    rw [hclaim w, claimOf_putClaim, if_neg fun h => hw (Who.unit.inj h)]
    exact congrArg (claimOf (.unit w)) hclaims
  · have hb : blocked src serial (withoutExpired src serial (heardBy src s).arb) = true := by
      rw [blocked_withoutExpired]
      exact blocked_true (by rw [hexpired]; exact hx) (by rw [hclaims, hnone]; nofun)
    have run := claim (levelByte l)
    rw [takeClaim_arb, heardBy_with_arb, withClaim_blocked hb] at run
    obtain ⟨t, hexec, -, -, -, hclaim, -⟩ := exec_heard hp run
    exact ⟨t, hexec, (hclaim src).trans ((congrArg (claimOf (.unit src)) hclaims).trans hnone)⟩
  · have run := claim level
    rw [takeClaim_above hlevel, heardBy_only] at run
    obtain ⟨t, hexec, -, -, -, hclaim, -⟩ := exec_heard hp run
    exact ⟨t, hexec, hclaim⟩
  · obtain ⟨b, hb, hown, hother⟩ := takeWithdraw_arb (src := src) serial (heardBy src s)
    rw [hb, heardBy_with_arb] at withdraw
    obtain ⟨t, hexec, hfollow, hapart, -, hclaim, -⟩ := exec_heard hp withdraw
    rw [hclaims] at hown hother
    exact ⟨t, hexec, hfollow, hapart, (hclaim src).trans hown, fun w hw => (hclaim w).trans (hother w hw)⟩

/-! ### CRANK-OFF (R103, R115) -/

/-- R103: an entry whose last-seen count is shown. -/
def counted (n : Byte) (e : RosterEntry) : RosterEntry := { e with lastCount := some n }

/-- R103: whether a count differs from the last seen; `joins` says whether an absent one counts as different. -/
def countDiffers (n : Byte) (joins : Bool) (e : RosterEntry) : Bool :=
  match e.lastCount with
  | none => joins
  | some c => c != n

/-- R103: the crank count of a roster unit, shown. -/
theorem takeCount_eq {e : RosterEntry} (he : entryOf src s.roster.entries = some e) (n : Byte) (joins : Bool) :
    takeCount src n joins s = if countDiffers n joins e then moveToTail (.unit src) (updateEntry src (counted n) s)
      else updateEntry src (counted n) s := by
  unfold takeCount
  rw [he]
  rfl

theorem takeCount_state {e : RosterEntry} (he : entryOf src s.roster.entries = some e) (n : Byte) (joins : Bool) :
    ∃ b : Arbiter, takeCount src n joins s = { s with
        roster := { s.roster with entries := mapEntry src (counted n) s.roster.entries }, arb := b }
      ∧ b.claims = s.arb.claims ∧ b.expired = s.arb.expired
      ∧ b.rotation = if countDiffers n joins e then toTail (.unit src) s.arb.rotation else s.arb.rotation := by
  rw [takeCount_eq he]
  cases countDiffers n joins e with
  | true => exact ⟨_, rfl, rfl, rfl, rfl⟩
  | false => exact ⟨_, rfl, rfl, rfl, rfl⟩

/-- R115: the claims after a CRANK-OFF. -/
def crankOffClaims (src : UnitNo) (l : Level) (result serial : Byte) (claims : List Claim) : List Claim :=
  if result = yieldedByte then putClaim { who := .unit src, level := l, serial, state := .waiting } claims
  else dropClaim (.unit src) claims

theorem takeCrankOff_state {e : RosterEntry} (he : entryOf src s.roster.entries = some e) (l : Level)
    (result serial count : Byte) : ∃ b : Arbiter, takeCrankOff src result (levelByte l) serial count s = { s with
        roster := { s.roster with entries := mapEntry src (counted count) s.roster.entries }, arb := b }
      ∧ b.claims = crankOffClaims src l result serial s.arb.claims
      ∧ b.rotation = if countDiffers count true e then toTail (.unit src) s.arb.rotation else s.arb.rotation := by
  obtain ⟨b, hb, hclaims, -, hrotation⟩ := takeCount_state he count true
  unfold takeCrankOff crankOffClaims
  rw [levelOfByte_levelByte, hb]
  dsimp only
  rw [← hclaims]
  split
  · exact ⟨_, rfl, rfl, hrotation⟩
  · exact ⟨_, rfl, rfl, hrotation⟩

/-- Settles O45: the count shown, then the claim returned or removed. -/
theorem crankOffEndsPeerCrank : Obligations.CrankOffEndsPeerCrank := by
  intro p s src l result serial count hheard ha hresult
  have hp := hheard.1
  have hvalid : contentValid (.crankOff result (levelByte l) serial count) = true := by
    simp [contentValid, levelByte_valid, hresult]
  have run : exec (.crankOff src result (levelByte l) serial count) s
      = .next (settle p (takeCrankOff src result (levelByte l) serial count (heardBy src s))) := by
    show Host.Outcome.next (receiveContent src (.crankOff result (levelByte l) serial count) s) = _
    rw [receive_admitted hheard ha hvalid fun _ => rfl, actOnKind]
  obtain ⟨e, he, hage, hold, -⟩ := entryOf_heardBy ha
  obtain ⟨b, hb, hclaims, hrotation⟩ := takeCrankOff_state he l result serial count
  rw [hb, heardBy_with] at run
  obtain ⟨t, hexec, hfollow, hapart, hroster, hclaim, hrot⟩ := exec_heard hp run
  have hentry : entryOf src t.roster.entries = some (counted count e) := by
    rw [hroster]
    dsimp only
    rw [entryOf_mapEntry src src (f := counted count) (fun _ => rfl), if_pos rfl, he]
    rfl
  have hown := hclaim src
  rw [hclaims, crankOffClaims] at hown
  refine ⟨t, _, hexec, hfollow, hapart, hentry, rfl, hage, fun h => ?_, fun h => ?_, fun d hd => ?_⟩
  · rw [hown, if_pos (show result = yieldedByte from h), claimOf_putClaim, if_pos rfl]
  · rw [hown, if_neg (show ¬result = yieldedByte from h), claimOf_dropClaim_self]
  · obtain ⟨he', hrot'⟩ := hold d hd
    have hcount : countDiffers count true e = true ↔ d.lastCount ≠ some count := by
      rw [he']
      unfold countDiffers refreshed
      dsimp only
      cases d.lastCount <;> simp
    rw [hrot, hrotation, hrot']
    by_cases h : d.lastCount = some count
    · rw [if_pos h, if_neg (by rw [hcount]; exact not_not.mpr h)]
    · rw [if_neg h, if_pos (hcount.mpr h)]

end Sys2Proof.Machine

/-! PROOFS. STEP, LAYOVER-INTENT and LAYOVER-CANCEL of a peer (R87, R104, R105, R138). -/

namespace Sys2Proof.Machine

variable {s t u v : State} {p : Params} {src : UnitNo}

/-! ### What acting on a frame leaves of the roster -/

/-- The unit's entry changed by `f`, every other as it was. -/
structure EntryChanged (src : UnitNo) (f : RosterEntry → RosterEntry) (r r' : Roster) : Prop where
  entry : entryOf src r'.entries = (entryOf src r.entries).map f
  others : ∀ w, w ≠ src → entryOf w r'.entries = entryOf w r.entries
  units : r'.entries.map (·.unit) = r.entries.map (·.unit)
  full : r'.full = r.full
  absent : entryOf src r.entries = none → r' = r

/-- An absent unit's entry changes nothing. -/
theorem mapEntry_absent {f : RosterEntry → RosterEntry} {l : List RosterEntry} (h : entryOf src l = none) :
    mapEntry src f l = l := by
  rw [entryOf_eq_none] at h
  unfold mapEntry
  refine (List.map_congr_left fun e he => ?_).trans (List.map_id l)
  rw [if_neg (h e he)]
  rfl

theorem EntryChanged.of_updateEntry {f g : RosterEntry → RosterEntry} (hg : ∀ e, (g e).unit = e.unit) {r : Roster}
    (hfg : ∀ e, entryOf src r.entries = some e → g e = f e) :
    EntryChanged src f r { r with entries := mapEntry src g r.entries } where
  entry := by
    dsimp only
    rw [entryOf_mapEntry src src hg, if_pos rfl]
    cases he : entryOf src r.entries with
    | none => rfl
    | some e => exact congrArg some (hfg e he)
  others w hw := by
    dsimp only
    rw [entryOf_mapEntry src w hg, if_neg hw]
  units := mapEntry_units src hg _
  full := rfl
  absent h := by rw [mapEntry_absent h]

theorem EntryChanged.of_same {f : RosterEntry → RosterEntry} {r : Roster}
    (hf : ∀ e, entryOf src r.entries = some e → f e = e) : EntryChanged src f r r where
  entry := by
    cases he : entryOf src r.entries with
    | none => rfl
    | some e => exact congrArg some (hf e he).symm
  others _ _ := rfl
  units := rfl
  full := rfl
  absent _ := rfl

theorem ordered_of_units {l m : List RosterEntry} (hu : m.map (·.unit) = l.map (·.unit))
    (h : l.Pairwise (fun d e => d.unit.val < e.unit.val)) : m.Pairwise (fun d e => d.unit.val < e.unit.val) := by
  rw [← List.pairwise_map (f := RosterEntry.unit) (R := fun a b : UnitNo => a.val < b.val)] at h ⊢
  rw [hu]
  exact h

/-- R97 to R99: the roster and the rotation after a frame that changes the sender's entry by `f`. -/
theorem rosterHears_of {f : RosterEntry → RosterEntry} (hr : EntryChanged src f (heardBy src s).roster t.roster)
    (hrot : t.arb.rotation = (heardBy src s).arb.rotation) : RosterHears src f s t where
  refreshed e he := by
    obtain ⟨hroster, hrotation⟩ := heardBy_refreshed he
    refine ⟨?_, hrot.trans hrotation, hr.full.trans (by rw [hroster])⟩
    rw [hr.entry, hroster]
    dsimp only
    rw [entryOf_mapEntry src src (f := refreshed) (fun _ => rfl), if_pos rfl, he]
    rfl
  joined hnone hroom := by
    obtain ⟨hroster, hrotation⟩ := heardBy_joined hnone hroom
    refine ⟨?_, ?_, hrot.trans hrotation, hr.full.trans (by rw [hroster])⟩
    · rw [hr.entry, hroster]
      dsimp only
      rw [entryOf_insertEntry_new hnone, if_pos rfl]
      rfl
    · have h := congrArg List.length hr.units
      rw [List.length_map, List.length_map, hroster] at h
      exact h.trans (length_insertEntry _ _)
  keptOut hnone hfull := by
    obtain ⟨hroster, hrotation⟩ := heardBy_keptOut hnone hfull
    refine ⟨(hr.absent ?_).trans hroster, hrot.trans hrotation⟩
    rw [hroster]
    exact hnone
  others w hw := by
    rw [hr.others w hw]
    cases he : entryOf src s.roster.entries with
    | some e =>
      rw [(heardBy_refreshed he).1]
      dsimp only
      rw [entryOf_mapEntry src w (f := refreshed) (fun _ => rfl), if_neg hw]
    | none =>
      by_cases hroom : s.roster.entries.length < 7
      · rw [(heardBy_joined he hroom).1]
        dsimp only
        rw [entryOf_insertEntry_new he, if_neg hw]
      · rw [(heardBy_keptOut he (by omega)).1]
  order h := by
    refine ordered_of_units hr.units ?_
    cases he : entryOf src s.roster.entries with
    | some e =>
      rw [(heardBy_refreshed he).1]
      exact mapEntry_ordered src (f := refreshed) (fun _ => rfl) h
    | none =>
      by_cases hroom : s.roster.entries.length < 7
      · rw [(heardBy_joined he hroom).1]
        exact insertEntry_sorted h (entryOf_eq_none.mp he)
      · rw [(heardBy_keptOut he (by omega)).1]
        exact h

/-- Acting on the frame of a unit that the roster keeps out changes nothing more. -/
def actedOn (p : Params) (src : UnitNo) (c : Content) (s : State) : State :=
  if (entryOf src (heardBy src s).roster.entries).isSome then actOnKind p src c (heardBy src s) else heardBy src s

theorem receive_roster {c : Content} (h : heard p src s) (h0 : src ≠ 0) (hvalid : contentValid c = true)
    (hc : ∀ v, takeValid p src c v = rosterTake p src c v) : receiveContent src c s = settle p (actedOn p src c s) := by
  rw [receiveContent_heard h hvalid, hc, rosterTake_heard h0]
  rfl

/-- What a general frame leaves once every block has judged, where acting on its kind changes the sender's entry by
`f` and, beside the roster, only what the blocks may move. -/
theorem settle_actedOn {c : Content} {f : RosterEntry → RosterEntry} (hp : s.reader.applied = some p)
    (hentry : EntryChanged src f (heardBy src s).roster (actedOn p src c s).roster)
    (hapart : ∃ b, Apart { s with link := { s.link with receive := .waitingIdle }, roster := (actedOn p src c s).roster, arb := b }
      (actedOn p src c s))
    (hrot : (actedOn p src c s).arb.rotation = (heardBy src s).arb.rotation) :
    Apart { s with
        link := { s.link with receive := .waitingIdle }
        roster := (settle p (actedOn p src c s)).roster, arb := (settle p (actedOn p src c s)).arb }
      (settle p (actedOn p src c s))
      ∧ outputsFollow (settle p (actedOn p src c s)) ∧ RosterHears src f s (settle p (actedOn p src c s)) := by
  obtain ⟨b, hb⟩ := hapart
  have hk := settle_kept p (actedOn p src c s)
  have hfollow := settle_follows (hb.applied hp)
  have ha := hb.trans hk.apart
  generalize actedOn p src c s = w at *
  generalize settle p w = t at *
  exact ⟨ha.own_heard, hfollow, rosterHears_of (by rw [hk.roster]; exact hentry) (hk.rotation.trans hrot)⟩

/-! ### The stagger timer under the judgements (R87) -/

theorem settleSteps_stagger (p : Params) : ∀ (n : Nat) (s : State), (settleSteps p n s).step.stagger = s.step.stagger
  | 0, _ => rfl
  | n + 1, s => by
    have row (v : State) : (settleRow p v).step.stagger = v.step.stagger := by
      unfold settleRow
      split
      · rfl
      · split <;> rfl
    unfold settleSteps
    split
    · rfl
    · rename_i r _
      split
      · rw [settleSteps_stagger p n, afterStep, row]
        unfold stepUp requestMade
        rw [settleLubeTimer, requestFrame_eq]
        rfl
      · split
        · rw [settleSteps_stagger p n, afterStep, row]
          rfl
        · rfl

theorem settleStepper_stagger (p : Params) (s : State) : (settleStepper p s).step.stagger = s.step.stagger := by
  have h : (settleReport (settleTarget (settleLowIdle p s))).step.stagger = s.step.stagger := by
    unfold settleReport
    split <;> rfl
  exact (settleSteps_stagger p 9 _).trans h

theorem settleOwnRecord_step (p : Params) (s : State) : (settleOwnRecord p s).step = s.step := by
  unfold settleOwnRecord requestMade
  dsimp only
  split_ifs
  · rfl
  · rw [requestFrame_eq]
  · rfl

theorem settleArrival_step (p : Params) (s : State) : (settleArrival p s).step = s.step := by
  unfold settleArrival
  split
  · rename_i d hd
    have hn : (settleOutputs p s).seq.engine ≠ .running := by
      show s.seq.engine ≠ .running
      rw [hd]
      simp
    have reach {w : State} {e : EngineState} (he : e ≠ .running) : stateReached w e ≠ .running := by
      unfold stateReached
      split
      · simp
      · exact he
    split
    · unfold arriveAt
      split
      · exact enterState_step (by exact hn) (reach (by simp))
      · exact enterState_step hn (reach (by simp))
      · exact enterState_step hn (reach (by simp))
      · exact enterState_step hn (reach (by simp))
      · unfold enterPrep postOwnClaim requestMade
        rw [requestFrame_eq]
        exact enterState_step hn (reach (by simp))
    · rfl
  · rfl

/-- What a round leaves of the stepper is what the stepper leaves. -/
theorem settleRound_step (p : Params) (s : State) : (settleRound p s).step
    = (settleStepper p (settleMakeUp p (settleCaps p (settleOwnRecord p (settleArrival p s))))).step := by
  unfold settleRound
  dsimp only
  generalize settleStepper p (settleMakeUp p (settleCaps p (settleOwnRecord p (settleArrival p s)))) = b
  have hb := (settlePrelube_held p b).step
  have h := ((settleEligible_held p (settleHotTimer (settleLubeTimer p (settleConfirm p (settlePrelube p b))))).trans
    (settleWatch_held p _)).trans (settleGrant_held p _)
  exact h.step.trans hb

theorem settle_stagger (p : Params) (s : State) : (settle p s).step.stagger = s.step.stagger := by
  have round (v : State) : (settleRound p v).step.stagger = v.step.stagger := by
    rw [settleRound_step, settleStepper_stagger]
    exact congrArg Stepper.stagger ((settleOwnRecord_step p _).trans (settleArrival_step p v))
  exact ((round _).trans (round _)).trans (round s)

end Sys2Proof.Machine

/-! PROOFS. STEP, LAYOVER-INTENT and LAYOVER-CANCEL of a peer (R87, R104, R105, R138), continued. -/

namespace Sys2Proof.Machine

variable {s t u v : State} {p : Params} {src : UnitNo}

/-! ### The layover unit under the judgements -/

theorem settleArrival_layover_of {Q : LayoverUnit → Prop} (hafter : ∀ b e l, Q l → Q (layoverAfter b e l))
    (h : Q s.layover) : Q (settleArrival p s).layover := by
  have enter (e : EngineState) (w : State) (hw : Q w.layover) : Q (enterState e w).layover := by
    rw [enterState_layover]
    exact hafter _ _ _ hw
  unfold settleArrival
  split
  · split
    · unfold arriveAt
      split
      · exact enter _ _ h
      · exact enter _ _ h
      · exact enter _ _ h
      · exact enter _ _ h
      · obtain ⟨-, -, -, hlayover, -⟩ := enterPrep_blocks (settleOutputs p s)
        rw [hlayover]
        exact hafter _ _ _ h
    · exact h
  · exact h

theorem settleWatch_layover_of {Q : LayoverUnit → Prop} (hafter : ∀ b e l, Q l → Q (layoverAfter b e l))
    (hwatch : ∀ w l, Q l → Q { l with watch := w }) (h : Q s.layover) : Q (settleWatch p s).layover := by
  have start (level : Level) (v : State) (hv : Q v.layover) : Q (startRequest p level v).layover := by
    by_cases ha : acceptsStart p v
    · rw [startRequest_accepted ha]
      obtain ⟨-, -, -, hlayover, -⟩ := enterPrep_blocks (startingAt level v)
      rw [hlayover]
      exact hafter _ _ _ hv
    · rwa [startRequest_not ha]
  unfold settleWatch
  split
  · exact h
  · dsimp only
    split
    · exact hwatch _ _ h
    · split
      · exact start _ _ (hwatch _ _ h)
      · exact hwatch _ _ h

/-- What every change of engine state, the restart watch and the judgement of eligibility leave of the layover unit
stands through a round. -/
theorem settleRound_layover_of {Q : LayoverUnit → Prop} (hafter : ∀ b e l, Q l → Q (layoverAfter b e l))
    (hwatch : ∀ w l, Q l → Q { l with watch := w })
    (heligible : ∀ v : State, Q v.layover → Q (settleEligible p v).layover) (h : Q s.layover) :
    Q (settleRound p s).layover := by
  have ha := settleArrival_layover_of (p := p) hafter h
  rw [← settleOwnRecord_layover p] at ha
  unfold settleRound
  dsimp only
  generalize settleOwnRecord p (settleArrival p s) = a at ha ⊢
  have hb : Q (settleStepper p (settleMakeUp p (settleCaps p a))).layover := by
    rw [settleStepper_layover]
    exact ha
  generalize settleStepper p (settleMakeUp p (settleCaps p a)) = b at hb ⊢
  have hc : Q (settleHotTimer (settleLubeTimer p (settleConfirm p (settlePrelube p b)))).layover := by
    show Q (settlePrelube p b).layover
    rwa [settlePrelube_layover]
  generalize settleHotTimer (settleLubeTimer p (settleConfirm p (settlePrelube p b))) = c at hc ⊢
  have hd := settleWatch_layover_of (p := p) hafter hwatch (heligible c hc)
  show Q (settleGrant p (settleWatch p (settleEligible p c))).layover
  unfold settleGrant
  split
  · obtain ⟨-, -, -, -, hlayover, -⟩ := enterCrank_blocks (settleWatch p (settleEligible p c))
    rwa [hlayover]
  · exact hd

/-- No intent stands, and none is due. -/
def Unannounced (l : LayoverUnit) : Prop :=
  l.phase = .none ∧ l.ownIntent = none ∧ l.holdTimer = none ∧ l.idle ≠ .reached

theorem idleAfter_unreached {l : LayoverUnit} (h : l.idle ≠ .reached) (e : Bool) : idleAfter l e ≠ .reached := by
  unfold idleAfter
  split_ifs
  · simp
  · simp
  · exact h

/-- Where no intent stands and none is due, eligibility is judged and nothing follows of it. -/
theorem settleEligible_unannounced (h : Unannounced s.layover) : settleEligible p s = { s with
    layover := { s.layover with
      q := countNow p s, eligible := eligibleNow p s, idle := idleAfter s.layover (eligibleNow p s) } } := by
  obtain ⟨hphase, -, -, hidle⟩ := h
  unfold settleEligible
  dsimp only
  rw [if_neg (by rw [hphase]; simp), if_neg fun hdue => idleAfter_unreached hidle _ hdue.2.1]

theorem Unannounced.layoverAfter {l : LayoverUnit} (h : Unannounced l) (b e : EngineState) :
    Unannounced (layoverAfter b e l) := by
  obtain ⟨hphase, hown, hhold, hidle⟩ := h
  unfold Machine.layoverAfter
  rw [if_neg (by rw [hphase]; simp)]
  exact ⟨hphase, hown, hhold, hidle⟩

theorem Unannounced.settleEligible (h : Unannounced s.layover) : Unannounced (settleEligible p s).layover := by
  rw [settleEligible_unannounced h]
  obtain ⟨hphase, hown, hhold, hidle⟩ := h
  exact ⟨hphase, hown, hhold, idleAfter_unreached hidle _⟩

theorem Unannounced.settleRound (h : Unannounced s.layover) : Unannounced (settleRound p s).layover :=
  settleRound_layover_of (fun b e _ h => h.layoverAfter b e) (fun _ _ h => h) (fun _ h => h.settleEligible) h

theorem Unannounced.settle (h : Unannounced s.layover) : Unannounced (settle p s).layover :=
  h.settleRound.settleRound.settleRound

/-- The kinds the judgements may ask for where no intent stands and none is due. -/
def unannouncedKinds : List Nat := [1, 3, 5, 6]

theorem settleRound_asks_unannounced (h : Unannounced s.layover) : Asks unannouncedKinds s (settleRound p s) :=
  settleRound_asks_parts (by decide) (by decide) p s (settleOwnRecord_asks (by decide) p _)
    (settleStepper_asks (by decide) p _) fun v hv => by
      rw [settleEligible_unannounced (by
        rw [hv]
        exact settleArrival_layover_of (Q := Unannounced) (fun b e _ h => h.layoverAfter b e) h)]
      exact .of_queue

theorem settle_asks_unannounced (h : Unannounced s.layover) : Asks unannouncedKinds s (settle p s) :=
  ((settleRound_asks_unannounced h).trans (settleRound_asks_unannounced h.settleRound)).trans
    (settleRound_asks_unannounced h.settleRound.settleRound)

/-- A LAYOVER-CANCEL asked for at an open link outlasts the judgements. -/
theorem asked_settle_cancel {own : Byte} (hs : openLink s) (h : Unannounced t.layover)
    (hq : t.link.queue = queueAfter (.made (.layoverCancel own)) s) : asked (.layoverCancel own) (settle p t) := by
  have hg := (settle_asks_unannounced (p := p) h).grows
  rw [hq, queueAfter_open hs] at hg
  exact hg.keeps (by simp) (kindsWithin_single _) (show 8 ∉ unannouncedKinds by decide)
    (show ∀ k ∈ unannouncedKinds, cancelledKind k ≠ some 8 by decide) (by decide)

/-- R138: a cancelled intent. -/
theorem cancelIntent_unannounced (s : State) : Unannounced (cancelIntent s).layover := by
  have idle : (if s.layover.eligible then IdleTimer.running 0 else .stopped) ≠ .reached := by
    split <;> simp
  unfold cancelIntent
  dsimp only
  split
  · exact ⟨rfl, rfl, rfl, idle⟩
  · unfold requestMade
    rw [requestFrame_eq]
    exact ⟨rfl, rfl, rfl, idle⟩

theorem cancelIntent_queue {own : Byte} (h : s.layover.ownIntent = some own) :
    (cancelIntent s).link.queue = queueAfter (.made (.layoverCancel own)) s := by
  unfold cancelIntent
  dsimp only
  rw [h]
  dsimp only
  unfold requestMade
  rw [requestFrame_eq]
  rfl

/-! ### The three frames -/

/-- Where acting on the frame of a unit in the roster changes only its entry, and what the blocks may move. -/
theorem actedOn_of {c : Content} {f : RosterEntry → RosterEntry}
    (hact : ∀ v : State, EntryChanged src f v.roster (actOnKind p src c v).roster
      ∧ Apart { v with roster := (actOnKind p src c v).roster } (actOnKind p src c v)
      ∧ (actOnKind p src c v).arb.rotation = v.arb.rotation) :
    EntryChanged src f (heardBy src s).roster (actedOn p src c s).roster
      ∧ (∃ b, Apart { s with link := { s.link with receive := .waitingIdle }, roster := (actedOn p src c s).roster, arb := b }
        (actedOn p src c s))
      ∧ (actedOn p src c s).arb.rotation = (heardBy src s).arb.rotation := by
  have hv := hact (heardBy src s)
  unfold actedOn
  cases he : entryOf src (heardBy src s).roster.entries with
  | none =>
    refine ⟨.of_same (fun e h => by rw [he] at h; cases h), ⟨(heardBy src s).arb, ?_⟩, rfl⟩
    rw [← heardBy_with, if_neg (by simp)]
    exact .refl _
  | some e =>
    rw [if_pos (by rfl)]
    generalize actOnKind p src c (heardBy src s) = w at hv ⊢
    obtain ⟨hentry, hapart, hrot⟩ := hv
    refine ⟨hentry, ⟨(heardBy src s).arb, ?_⟩, hrot⟩
    rw [← heardBy_with]
    exact hapart

/-- R104: an intent recorded at age 0, unless it stands with its serial. -/
def withIntent (serial : Byte) (e : RosterEntry) : RosterEntry :=
  { e with intent := if e.intent.map (·.serial) = some serial then e.intent else some { serial, age := 0 } }

/-- R104: an intent of the serial dropped. -/
def withoutIntent (serial : Byte) (e : RosterEntry) : RosterEntry :=
  { e with intent := if e.intent.map (·.serial) = some serial then none else e.intent }

/-- R87: the age of the last STEP. -/
def stepped (e : RosterEntry) : RosterEntry := { e with lastStep := some 0 }

theorem LayoverOnly.apart (h : LayoverOnly s t) : Apart s t := by
  obtain ⟨l, rfl | ⟨f, -, rfl⟩⟩ := h
  · exact .of_blocks
  · exact .of_blocks

theorem LayoverOnly.roster (h : LayoverOnly s t) : t.roster = s.roster := by
  obtain ⟨l, rfl | ⟨f, -, rfl⟩⟩ := h <;> rfl

theorem LayoverOnly.arb (h : LayoverOnly s t) : t.arb = s.arb := by
  obtain ⟨l, rfl | ⟨f, -, rfl⟩⟩ := h <;> rfl

/-- R104: an intent at age 0. -/
def freshIntent (serial : Byte) (e : RosterEntry) : RosterEntry := { e with intent := some { serial, age := 0 } }

/-- R104, R138: an intent that is new becomes the entry's, and cancels the announced own where it breaks the quota. -/
theorem recordIntent_new {e : RosterEntry} {serial : Byte} (he : entryOf src v.roster.entries = some e)
    (hnew : e.intent.map (·.serial) ≠ some serial) : recordIntent p src serial v
      = if v.layover.phase = .announced ∧ p.layover.quota ≤ runningPeers p v
          ∧ runningPeers p (updateEntry src (freshIntent serial) v) < p.layover.quota
        then cancelIntent (updateEntry src (freshIntent serial) v) else updateEntry src (freshIntent serial) v := by
  unfold recordIntent
  rw [he]
  exact if_neg hnew

theorem recordIntent_stands {e : RosterEntry} {serial : Byte} (he : entryOf src v.roster.entries = some e)
    (hold : e.intent.map (·.serial) = some serial) : recordIntent p src serial v = v := by
  unfold recordIntent
  rw [he]
  exact if_pos hold

theorem recordIntent_absent {serial : Byte} (he : entryOf src v.roster.entries = none) :
    recordIntent p src serial v = v := by
  unfold recordIntent
  rw [he]

theorem recordIntent_changes (serial : Byte) (v : State) :
    EntryChanged src (withIntent serial) v.roster (recordIntent p src serial v).roster
      ∧ Apart { v with roster := (recordIntent p src serial v).roster } (recordIntent p src serial v)
      ∧ (recordIntent p src serial v).arb.rotation = v.arb.rotation := by
  have same (h : ∀ e, entryOf src v.roster.entries = some e → e.intent.map (·.serial) = some serial) :
      EntryChanged src (withIntent serial) v.roster v.roster :=
    .of_same fun e he => by rw [withIntent, if_pos (h e he)]
  cases he : entryOf src v.roster.entries with
  | none =>
    rw [recordIntent_absent he]
    exact ⟨same fun e h => (by rw [he] at h; cases h), .refl _, rfl⟩
  | some e =>
    by_cases hold : e.intent.map (·.serial) = some serial
    · rw [recordIntent_stands he hold]
      exact ⟨same fun d h => (by rw [he] at h; cases h; exact hold), .refl _, rfl⟩
    · have hentry : EntryChanged src (withIntent serial) v.roster (updateEntry src (freshIntent serial) v).roster :=
        .of_updateEntry (g := freshIntent serial) (fun _ => rfl) fun d h => by
          rw [he] at h
          cases h
          rw [freshIntent, withIntent, if_neg hold]
      rw [recordIntent_new he hold]
      split
      · have hc := cancelIntent_only (updateEntry src (freshIntent serial) v)
        rw [hc.roster, hc.arb]
        exact ⟨hentry, hc.apart, rfl⟩
      · exact ⟨hentry, .refl _, rfl⟩

theorem cancelPeerIntent_changes (serial : Byte) (v : State) :
    EntryChanged src (withoutIntent serial) v.roster (cancelPeerIntent src serial v).roster
      ∧ Apart { v with roster := (cancelPeerIntent src serial v).roster } (cancelPeerIntent src serial v)
      ∧ (cancelPeerIntent src serial v).arb.rotation = v.arb.rotation := by
  refine ⟨.of_updateEntry (fun e => by split <;> rfl) fun e _ => ?_, .refl _, rfl⟩
  rw [withoutIntent]
  split <;> rfl

theorem takeStep_changes (v : State) :
    EntryChanged src stepped v.roster (takeStep src v).roster
      ∧ Apart { v with roster := (takeStep src v).roster } (takeStep src v)
      ∧ (takeStep src v).arb.rotation = v.arb.rotation :=
  ⟨.of_updateEntry (g := stepped) (fun _ => rfl) fun _ _ => rfl, .of_blocks, rfl⟩

/-- Whether the roster has taken the unit. -/
theorem admitted_iff (h0 : src ≠ 0) : admitted src s ↔ (entryOf src (heardBy src s).roster.entries).isSome := by
  constructor
  · intro h
    obtain ⟨e, he, -⟩ := entryOf_heardBy h
    rw [he]
    rfl
  · intro h
    refine ⟨h0, ?_⟩
    by_contra hn
    obtain ⟨hnone, hfull⟩ := not_or.mp hn
    have hnone : entryOf src s.roster.entries = none := by simpa using hnone
    rw [(heardBy_keptOut hnone (by omega)).1] at h
    dsimp only at h
    rw [hnone] at h
    cases h

/-- R136: a refresh leaves the running peers. -/
theorem runningPeers_heardBy {e : RosterEntry} (he : entryOf src s.roster.entries = some e) :
    runningPeers p (heardBy src s) = runningPeers p s := by
  unfold runningPeers
  rw [(heardBy_refreshed he).1]
  dsimp only
  unfold mapEntry
  rw [List.filter_map, List.length_map]
  congr 1
  refine List.filter_congr fun d _ => ?_
  show countsRunning p.unit (if d.unit = src then refreshed d else d) = _
  split <;> rfl

/-- R136: an intent of a counted peer of lower number takes it from the count. -/
theorem runningPeers_freshIntent {e : RosterEntry} {c : StatusContent} (serial : Byte)
    (he : entryOf src v.roster.entries = some e) (hstatus : e.status = some c) (hrun : c.engine = .running)
    (hnone : e.intent = none) (hlow : src < p.unit) :
    runningPeers p (updateEntry src (freshIntent serial) v) < runningPeers p v := by
  have counted : countsRunning p.unit e = true := by
    unfold countsRunning
    rw [hstatus]
    simp [hrun, hnone]
  have uncounted (d : RosterEntry) (hd : d.unit = src) : countsRunning p.unit (freshIntent serial d) = false := by
    unfold countsRunning freshIntent
    cases d.status with
    | none => rfl
    | some x => simp [hd, hlow]
  show ((mapEntry src (freshIntent serial) v.roster.entries).filter _).length < _
  unfold runningPeers
  generalize v.roster.entries = l at he ⊢
  have hfewer (m : List RosterEntry) : ((mapEntry src (freshIntent serial) m).filter (countsRunning p.unit)).length
      ≤ (m.filter (countsRunning p.unit)).length := by
    rw [mapEntry, List.filter_map, List.length_map]
    refine (List.monotone_filter_right m fun d hd => ?_).length_le
    rw [Function.comp_apply] at hd
    split at hd
    · rename_i hu
      rw [uncounted d hu] at hd
      cases hd
    · exact hd
  induction l with
  | nil => cases he
  | cons d ds ih =>
    rw [entryOf_cons] at he
    show (((if d.unit = src then freshIntent serial d else d) :: mapEntry src (freshIntent serial) ds).filter
      (countsRunning p.unit)).length < _
    split at he
    · rename_i hu
      cases he
      rw [if_pos hu, List.filter_cons_of_neg (by rw [uncounted e hu]; simp), List.filter_cons_of_pos counted]
      exact Nat.lt_succ_of_le (hfewer ds)
    · rename_i hu
      rw [if_neg hu]
      rw [List.filter_cons, List.filter_cons]
      split
      · exact Nat.succ_lt_succ (ih he)
      · exact ih he

/-- The outcome of a general frame whose kind changes the sender's entry by `f`, and its stagger timer. -/
theorem exec_actedOn {cmd : Instr} {c : Content} {f : RosterEntry → RosterEntry} (hp : s.reader.applied = some p)
    (h0 : src ≠ 0) (run : exec cmd s = .next (settle p (actedOn p src c s)))
    (hact : ∀ v : State, EntryChanged src f v.roster (actOnKind p src c v).roster
      ∧ Apart { v with roster := (actOnKind p src c v).roster } (actOnKind p src c v)
      ∧ (actOnKind p src c v).arb.rotation = v.arb.rotation) :
    ∃ t, exec cmd s = .next t
      ∧ Apart { s with link := { s.link with receive := .waitingIdle }, roster := t.roster, arb := t.arb } t
      ∧ outputsFollow t ∧ RosterHears src f s t
      ∧ (admitted src s → t.step.stagger = (actOnKind p src c (heardBy src s)).step.stagger)
      ∧ (¬admitted src s → t.step.stagger = s.step.stagger) := by
  obtain ⟨hentry, hapart, hrot⟩ := actedOn_of (s := s) hact
  obtain ⟨ha, hfollow, hhears⟩ := settle_actedOn hp hentry hapart hrot
  refine ⟨_, run, ha, hfollow, hhears, ?_, ?_⟩
  · intro h
    rw [settle_stagger, actedOn, if_pos ((admitted_iff h0).mp h)]
  · intro h
    rw [settle_stagger, actedOn, if_neg fun hn => h ((admitted_iff h0).mpr hn), heardBy_only]

/-- R138: a peer's intent that breaks the own quota cancels the own announced intent. -/
theorem recordIntent_cancels {e : RosterEntry} {c : StatusContent} {own : Byte} (serial : Byte)
    (he : entryOf src v.roster.entries = some e) (hstatus : e.status = some c) (hrun : c.engine = .running)
    (hnone : e.intent = none) (hlow : src < p.unit) (hphase : v.layover.phase = .announced)
    (hown : v.layover.ownIntent = some own) (hquota : runningPeers p v = p.layover.quota) :
    Unannounced (recordIntent p src serial v).layover
      ∧ (recordIntent p src serial v).link.queue = queueAfter (.made (.layoverCancel own)) v := by
  have hless := runningPeers_freshIntent (p := p) serial he hstatus hrun hnone hlow
  rw [recordIntent_new he (by rw [hnone]; nofun), if_pos ⟨hphase, hquota.ge, by omega⟩]
  exact ⟨cancelIntent_unannounced _, cancelIntent_queue hown⟩

/-- Settles O40: the three frames' changes of the sender's entry, and the own intent cancelled. -/
theorem stepAndIntentAreRecorded : Obligations.StepAndIntentAreRecorded := by
  intro p s src hheard h0
  have hp := hheard.1
  have run {cmd : Instr} (c : Content) (hc : ∀ v, takeValid p src c v = rosterTake p src c v) (hvalid : contentValid c = true)
      (hcmd : exec cmd s = .next (receiveContent src c s)) : exec cmd s = .next (settle p (actedOn p src c s)) := by
    rw [hcmd, receive_roster hheard h0 hvalid hc]
  have intent (serial : Byte) := run (cmd := .layoverIntent src serial) (.layoverIntent serial) (fun _ => rfl) rfl rfl
  dsimp only
  refine ⟨fun row => ?_, fun serial => ?_, fun serial => ?_, fun serial own e c he hstatus hrun hnone hlow hphase hown hquota => ?_⟩
  · obtain ⟨t, hexec, ha, hfollow, hhears, htaken, hkept⟩ := exec_actedOn hp h0
      (run (cmd := .step src row) (.step row) (fun _ => rfl) rfl rfl) (takeStep_changes (src := src))
    exact ⟨t, hexec, ha, hfollow, hhears, htaken, hkept⟩
  · obtain ⟨t, hexec, ha, hfollow, hhears, -⟩ := exec_actedOn hp h0 (intent serial) (recordIntent_changes (src := src) serial)
    exact ⟨t, hexec, ha, hfollow, hhears⟩
  · obtain ⟨t, hexec, ha, hfollow, hhears, -⟩ := exec_actedOn hp h0
      (run (cmd := .layoverCancel src serial) (.layoverCancel serial) (fun _ => rfl) rfl rfl)
      (cancelPeerIntent_changes (src := src) serial)
    exact ⟨t, hexec, ha, hfollow, hhears⟩
  · obtain ⟨d, hd, -, hsame, -⟩ := entryOf_heardBy ⟨h0, .inl (by rw [he]; rfl)⟩
    obtain ⟨rfl, -⟩ := hsame e he
    have honly := heardBy_only src s
    obtain ⟨hun, hq⟩ := recordIntent_cancels (p := p) (v := heardBy src s) (own := own) serial hd hstatus hrun hnone hlow
      (by rw [honly]; exact hphase) (by rw [honly]; exact hown) ((runningPeers_heardBy he).trans hquota)
    have hq' : (recordIntent p src serial (heardBy src s)).link.queue = queueAfter (.made (.layoverCancel own)) s := by
      rw [hq, honly]
      rfl
    have hacted : actedOn p src (.layoverIntent serial) s = recordIntent p src serial (heardBy src s) := by
      unfold actedOn
      rw [hd]
      rfl
    obtain ⟨hnophase, hnoown, hnohold, -⟩ := hun.settle (p := p)
    rw [← hacted] at hun hq' hnophase hnoown hnohold
    exact ⟨_, intent serial, hnophase, hnoown, hnohold, fun hs => asked_settle_cancel hs hun hq'⟩

end Sys2Proof.Machine

/-! PROOFS. Crossings (R122): CRANK-ON of a peer (R114), and the yield of the own crank. -/

namespace Sys2Proof.Machine

variable {s t u v w x : State} {p : Params} {src : UnitNo}

/-! ### Ranking and judging a crossing -/

theorem claimAhead_congr {a b : Arbiter} (hr : a.rotation = b.rotation) (hc : a.crossing = b.crossing) (unit : UnitNo)
    (c d : Claim) : claimAhead unit a c d = claimAhead unit b c d := by
  unfold claimAhead tieAhead
  rw [hr, hc]

/-- R122: the peer in the crossing list. -/
def crossedWith (src : UnitNo) (w : State) : State :=
  { w with arb := { w.arb with
      crossing := if src ∈ w.arb.crossing then w.arb.crossing else w.arb.crossing ++ [src] } }

theorem mem_crossedWith (src : UnitNo) (w : State) : src ∈ (crossedWith src w).arb.crossing := by
  unfold crossedWith
  dsimp only
  split
  · assumption
  · simp

theorem judgeCrossing_outside (h : w.seq.engine ≠ .starting .crank ∨ w.arb.overlapTimer = none) :
    judgeCrossing p src w = w := by
  unfold judgeCrossing
  rw [if_neg]
  rintro ⟨he, ho, -⟩
  rcases h with h | h
  · exact h he
  · rw [h] at ho
    cases ho

theorem judgeCrossing_few (h : crankingCount w.arb ≤ p.crank.maxCranking) : judgeCrossing p src w = w := by
  unfold judgeCrossing
  rw [if_neg]
  rintro ⟨-, -, hmany⟩
  omega

theorem judgeCrossing_crossed {c : Claim} {us : Nat} (he : w.seq.engine = .starting .crank)
    (ho : w.arb.overlapTimer = some us) (hmany : p.crank.maxCranking < crankingCount w.arb)
    (hc : claimOf (.unit src) w.arb.claims = some c) : judgeCrossing p src w
      = if claimAhead p.unit w.arb c (ownClaim w) then yieldCrank (crossedWith src w) else crossedWith src w := by
  unfold judgeCrossing
  rw [if_pos ⟨he, by rw [ho]; rfl, hmany⟩, hc]
  rfl

theorem judgeCrossing_apart (w : State) : Apart w (judgeCrossing p src w) := by
  unfold judgeCrossing
  split
  · split
    · exact .refl _
    · have h : Apart w (crossedWith src w) := .of_blocks
      dsimp only
      split
      · exact h.trans (yieldCrank_apart _)
      · exact h
  · exact .refl _

/-! ### The yield (R23, R122) -/

/-- Where the sequencer, the measurements and the claims stand as a yielded crank left them. -/
structure Yielded (w x : State) : Prop where
  seq : x.seq = (yieldCrank w).seq
  meas : x.meas = w.meas
  claims : claimOf .own x.arb.claims = none

theorem yieldCrank_yielded (w : State) : Yielded w (yieldCrank w) where
  seq := rfl
  meas := (yieldCrank_apart w).meas
  claims := by
    unfold yieldCrank
    rw [enterState_arb, endCrankUncounted_eq]
    exact claimOf_dropClaim_self _ _

theorem yieldCrank_seq (w : State) :
    (yieldCrank w).seq.engine = .stopping .prep ∧ (yieldCrank w).seq.keptSerial = some (ownClaim w).serial
      ∧ (yieldCrank w).seq.attempts = w.seq.attempts ∧ (yieldCrank w).seq.crankCount = w.seq.crankCount
      ∧ (yieldCrank w).seq.record = (endAttempt .yielded w).seq.record := by
  unfold yieldCrank
  rw [enterState_seq, endCrankUncounted_eq]
  exact ⟨rfl, rfl, rfl, rfl, rfl⟩

theorem yieldCrank_queue (w : State) : (yieldCrank w).link.queue
      = queueAfter (.made (.crankOff yieldedByte (levelByte (ownClaim w).level) (ownClaim w).serial w.seq.crankCount)) w
    ∧ (yieldCrank w).arb.crossing = w.arb.crossing ∧ (yieldCrank w).arb.rotation = w.arb.rotation
    ∧ (yieldCrank w).roster = w.roster := by
  refine ⟨?_, ?_, ?_, (yieldCrank_apart w).roster⟩
  all_goals
    unfold yieldCrank
    simp only [enterState_link, enterState_arb, endCrankUncounted_eq]
    rfl

/-- What the judgements leave after a yield: the counts, and the attempt's end where the engine turns. -/
theorem Yielded.settle (h : Yielded w x) :
    (settle p x).seq.crankCount = w.seq.crankCount ∧ (settle p x).seq.attempts = w.seq.attempts
      ∧ (p.sense.stoppedSpeed ≤ w.meas.speed →
        (settle p x).seq.engine = .stopping .prep ∧ (settle p x).seq.keptSerial = some (ownClaim w).serial
          ∧ claimOf .own (settle p x).arb.claims = none ∧ attemptClosed .yielded w (settle p x) ∧ allOff (settle p x))
      ∧ (w.meas.speed < p.sense.stoppedSpeed → 0 < p.crank.claimSettle →
        (settle p x).seq.engine = .starting .prep ∧ (settle p x).seq.keptSerial = none
          ∧ ∃ c, claimOf .own (settle p x).arb.claims = some c ∧ c.state = .waiting ∧ c.serial = (ownClaim w).serial) := by
  obtain ⟨hseq, hmeas, hclaims⟩ := h
  obtain ⟨hengine, hserial, hattempts, hcount, hrecord⟩ := yieldCrank_seq w
  rw [← hseq] at hengine hserial hattempts hcount hrecord
  have hk := settle_kept p x
  have hspeed : (Machine.settle p x).meas.speed = w.meas.speed := by rw [hk.meas, hmeas]
  refine ⟨hk.crankCount.trans hcount, (settle_attempts (by rw [hengine]; exact .inr rfl)).trans hattempts,
    fun hturning => ?_, fun hrest hsettle => ?_⟩
  · have hr : atRest p x = false := by
      unfold atRest
      rw [hmeas]
      exact decide_eq_false (by omega)
    obtain ⟨he, hstill, hoff⟩ := settle_stopping_still hengine hr
    refine ⟨he, ?_, ?_, attemptClosed_of hspeed ?_, hoff⟩
    · rw [hstill.seq]
      exact hserial
    · rw [hstill.arb]
      exact hclaims
    · rw [hstill.seq]
      exact hrecord
  · have hr : atRest p x = true := by
      unfold atRest
      rw [hmeas]
      exact decide_eq_true hrest
    rw [settle_arrival_prep hengine hr]
    have hstill := settle_still (enterPrep_quiet hsettle (settleOutputs p x))
    have hkept : (settleOutputs p x).seq.keptSerial = some (ownClaim w).serial := hserial
    refine ⟨hstill.engine.trans (enterPrep_engine _), ?_, ?_⟩
    · rw [hstill.seq, enterPrep_seq]
    · rw [hstill.arb, enterPrep_arb, hkept]
      dsimp only
      rw [claimOf_putClaim, if_pos rfl]
      exact ⟨_, rfl, rfl, rfl⟩

/-! ### The crossing's outcome -/

/-- R122: what the judging of a crossing leaves in the crank, for the peer's entry `c` and the own entry `own`. -/
theorem judgeCrossing_outcome {c own : Claim} {us : Nat} (he : w.seq.engine = .starting .crank)
    (ho : w.arb.overlapTimer = some us) (hc : claimOf (.unit src) w.arb.claims = some c)
    (hown : claimOf .own w.arb.claims = some own) :
    (crankingCount w.arb ≤ p.crank.maxCranking → judgeCrossing p src w = w)
    ∧ (p.crank.maxCranking < crankingCount w.arb →
      (claimAhead p.unit w.arb c own = false → judgeCrossing p src w = crossedWith src w)
      ∧ (claimAhead p.unit w.arb c own = true → judgeCrossing p src w = yieldCrank (crossedWith src w))) := by
  refine ⟨judgeCrossing_few, fun hmany => ⟨fun hb => ?_, fun hb => ?_⟩⟩
  · rw [judgeCrossing_crossed he ho hmany hc, ownClaim_of_claimOf hown, hb, if_neg (by simp)]
  · rw [judgeCrossing_crossed he ho hmany hc, ownClaim_of_claimOf hown, if_pos hb]

theorem Apart.peerClaim (h : Apart s t) (u : UnitNo) : claimOf (.unit u) t.arb.claims = claimOf (.unit u) s.arb.claims := by
  have hother (l : List Claim) := claimOf_dropClaim_other (v := .unit u) (w := .own) (by simp) l
  rw [← hother, h.peerClaims, hother]

/-- What a frame leaves once every block has judged, where acting on it moved, beside the receive state, the roster and
the arbiter, only what the blocks may move. -/
theorem heard_settled {r : Roster} {b : Arbiter} (hp : s.reader.applied = some p)
    (h : Apart { s with link := { s.link with receive := .waitingIdle }, roster := r, arb := b } x) :
    outputsFollow (settle p x)
      ∧ Apart { s with
          link := { s.link with receive := .waitingIdle }, roster := (settle p x).roster, arb := (settle p x).arb } (settle p x)
      ∧ (∀ u : UnitNo, claimOf (.unit u) (settle p x).arb.claims = claimOf (.unit u) b.claims) := by
  have hk := settle_kept p x
  have hfollow := settle_follows (h.applied hp)
  have ha := h.trans hk.apart
  have hpeer := ha.peerClaim
  generalize settle p x = t at *
  exact ⟨hfollow, ha.own_heard, hpeer⟩

/-- R114: the claim list after a CRANK-ON that makes the entry CRANKING from 0. -/
def crankedBy (src : UnitNo) (l : Level) (serial : Byte) (a : Arbiter) : Arbiter :=
  withClaim src l serial (.cranking 0) (withoutExpired src serial a)

theorem crankedBy_eq {serial : Byte} {a : Arbiter} (hb : blocked src serial a = false) (l : Level) :
    crankedBy src l serial a = { withoutExpired src serial a with
      claims := putClaim { who := .unit src, level := l, serial, state := .cranking 0 } a.claims } := by
  unfold crankedBy withClaim
  rw [blocked_withoutExpired, hb]
  rfl

theorem takeCrankOn_new {l : Level} {serial : Byte} (hb : blocked src serial v.arb = false)
    (hnew : ∀ d us, claimOf (.unit src) v.arb.claims = some d → d.state = .cranking us → d.serial ≠ serial) :
    takeCrankOn p src (levelByte l) serial v = judgeCrossing p src { v with arb := crankedBy src l serial v.arb } := by
  have hclaims : (withoutExpired src serial v.arb).claims = v.arb.claims := rfl
  unfold takeCrankOn
  rw [levelOfByte_levelByte, dropExpired_eq]
  dsimp only
  rw [blocked_withoutExpired, hb, if_neg (by simp), hclaims]
  cases hd : claimOf (.unit src) v.arb.claims with
  | none =>
    dsimp only
    rw [makeClaim_arb]
    rfl
  | some d =>
    dsimp only
    rw [if_neg, makeClaim_arb]
    · rfl
    · rintro ⟨hk, hs⟩
      unfold isCranking at hk
      split at hk
      · rename_i us hus
        exact hnew d us hd hus hs
      · cases hk

theorem takeCrankOn_same {l : Level} {serial : Byte} {d : Claim} {us : Nat} (hb : blocked src serial v.arb = false)
    (hd : claimOf (.unit src) v.arb.claims = some d) (hus : d.state = .cranking us) (hs : d.serial = serial) :
    takeCrankOn p src (levelByte l) serial v
      = { v with arb := withClaim src l serial (.cranking us) (withoutExpired src serial v.arb) } := by
  have hclaims : (withoutExpired src serial v.arb).claims = v.arb.claims := rfl
  unfold takeCrankOn
  rw [levelOfByte_levelByte, dropExpired_eq]
  dsimp only
  rw [blocked_withoutExpired, hb, if_neg (by simp), hclaims, hd]
  dsimp only
  rw [if_pos ⟨by rw [isCranking, hus], hs⟩, makeClaim_arb, hus]

theorem joinOrRefresh_rotation (src : UnitNo) (s : State) :
    (joinOrRefresh src s).arb.rotation = (heardBy src s).arb.rotation := by
  unfold heardBy joinOrRefresh
  show _ = (if (entryOf src s.roster.entries).isSome then _ else if s.roster.entries.length < 7 then _ else _ : State).arb.rotation
  split
  · rfl
  · split <;> rfl

/-- A station in CRANK stays there under the judgements. -/
theorem settle_cranking (h : x.seq.engine = .starting .crank) : (settle p x).seq.engine = .starting .crank :=
  (settle_engine_quiet (quiet_of_restful (by rw [h]; rfl))).trans h

/-- R122: the peer of a judged crossing is in the crossing list. -/
theorem judgeCrossing_listed {c own : Claim} {us : Nat} (he : w.seq.engine = .starting .crank)
    (ho : w.arb.overlapTimer = some us) (hc : claimOf (.unit src) w.arb.claims = some c)
    (hown : claimOf .own w.arb.claims = some own) (hmany : p.crank.maxCranking < crankingCount w.arb) :
    src ∈ (judgeCrossing p src w).arb.crossing := by
  obtain ⟨hbehind, hahead⟩ := (judgeCrossing_outcome (p := p) he ho hc hown).2 hmany
  cases hb : claimAhead p.unit w.arb c own with
  | false =>
    rw [hbehind hb]
    exact mem_crossedWith src w
  | true =>
    rw [hahead hb, (yieldCrank_queue _).2.1]
    exact mem_crossedWith src w

/-- A quiet state stays quiet where the roster, the receive state and the claims change. -/
theorem Quiet.of_heard {l : Link} {r : Roster} {b : Arbiter} (q : Quiet p s) (hb : b.claimTimer = s.arb.claimTimer) :
    Quiet p { s with link := l, roster := r, arb := b } where
  moving := q.moving
  ungranted h := by
    rw [← q.ungranted h]
    exact congrArg (timerReached · _) hb
  unwatched := q.unwatched

theorem heardBy_claimTimer (src : UnitNo) (s : State) : (heardBy src s).arb.claimTimer = s.arb.claimTimer
    ∧ (heardBy src s).arb.crossing = s.arb.crossing ∧ (heardBy src s).arb.overlapTimer = s.arb.overlapTimer := by
  rw [heardBy_arb]
  exact ⟨rfl, rfl, rfl⟩

/-- Settles O44: the entry made CRANKING, and the crossing it may bring. -/
theorem crankOnMayYield : Obligations.CrankOnMayYield := by
  intro p s src l serial hheard ha hx
  have hp := hheard.1
  obtain ⟨hclaims, hexpired⟩ := heardBy_claims src s
  obtain ⟨htimer, hcrossing, hoverlap⟩ := heardBy_claimTimer src s
  have hrotation := joinOrRefresh_rotation src s
  have hb : blocked src serial (heardBy src s).arb = false := blocked_false (by rw [hexpired]; exact hx)
  have run : exec (.crankOn src (levelByte l) serial) s
      = .next (settle p (takeCrankOn p src (levelByte l) serial (heardBy src s))) := by
    show Host.Outcome.next (receiveContent src (.crankOn (levelByte l) serial) s) = _
    rw [receive_admitted hheard ha (by simp [contentValid, levelByte_valid]) fun _ => rfl, actOnKind]
  dsimp only
  refine ⟨fun d us hd hus hs => ?_, fun hnew => ?_⟩
  · rw [takeCrankOn_same hb (by rw [hclaims]; exact hd) hus hs, heardBy_with_arb] at run
    have hmade := withClaim_claims (a := withoutExpired src serial (heardBy src s).arb) (w := src) (serial := serial)
      (by rw [blocked_withoutExpired]; exact hb) l (.cranking us)
    generalize harb : withClaim src l serial (.cranking us) (withoutExpired src serial (heardBy src s).arb) = b at run hmade
    have hbt : b.claimTimer = s.arb.claimTimer ∧ b.crossing = s.arb.crossing := by
      rw [← harb, withClaim, blocked_withoutExpired, hb]
      exact ⟨htimer, hcrossing⟩
    obtain ⟨hfollow, hapart, hpeer⟩ := heard_settled hp (.refl { s with
      link := { s.link with receive := .waitingIdle }, roster := (heardBy src s).roster, arb := b })
    refine ⟨_, run, hfollow, hapart, (settle_kept p _).crossing.trans hbt.2, ?_, fun q => ?_⟩
    · rw [hpeer, hmade, claimOf_putClaim, if_pos rfl]
    · exact settle_engine_quiet (q.of_heard hbt.1)
  · rw [takeCrankOn_new hb (by rw [hclaims]; exact hnew), heardBy_with_arb, crankedBy_eq hb, hclaims] at run
    obtain ⟨w, hw⟩ : ∃ w : State, w = { s with
        link := { s.link with receive := .waitingIdle }, roster := (heardBy src s).roster
        arb := { withoutExpired src serial (heardBy src s).arb with
          claims := putClaim { who := .unit src, level := l, serial, state := .cranking 0 } s.arb.claims } } := ⟨_, rfl⟩
    rw [← hw] at run
    have hfrom : Apart { s with link := w.link, roster := w.roster, arb := w.arb } (judgeCrossing p src w) := by
      have h := judgeCrossing_apart (p := p) (src := src) w
      rw [hw] at h ⊢
      exact h
    have hseq : w.seq = s.seq := by rw [hw]
    have hmeas : w.meas = s.meas := by rw [hw]
    have hlink : w.link = { s.link with receive := .waitingIdle } := by rw [hw]
    have hlist : w.arb.claims = putClaim { who := .unit src, level := l, serial, state := .cranking 0 } s.arb.claims := by rw [hw]
    have hcross : w.arb.crossing = s.arb.crossing := by rw [hw]; exact hcrossing
    have hover : w.arb.overlapTimer = s.arb.overlapTimer := by rw [hw]; exact hoverlap
    have hrot : w.arb.rotation = (joinOrRefresh src s).arb.rotation := by rw [hw]; exact hrotation.symm
    have hpeer : claimOf (.unit src) w.arb.claims = some { who := .unit src, level := l, serial, state := .cranking 0 } := by
      rw [hlist, claimOf_putClaim, if_pos rfl]
    clear hw
    rw [hlink] at hfrom
    obtain ⟨hfollow, hapart, hkept⟩ := heard_settled hp hfrom
    have hk := settle_kept p (judgeCrossing p src w)
    refine ⟨_, run, hfollow, hapart, (hkept src).trans hpeer, fun hout => ?_, fun own us he ho hown => ?_⟩
    · rw [hk.crossing, judgeCrossing_outside (by rw [hseq, hover]; exact hout)]
      exact hcross
    have hwe : w.seq.engine = .starting .crank := by rw [hseq]; exact he
    have hwo : w.arb.overlapTimer = some us := by rw [hover]; exact ho
    have hwown : claimOf .own w.arb.claims = some own := by
      rw [hlist, claimOf_putClaim, if_neg (by simp)]
      exact hown
    have hcount : crankingCount w.arb = ((putClaim { who := .unit src, level := l, serial, state := .cranking 0 }
      s.arb.claims).filter isCranking).length := by rw [crankingCount, hlist]
    obtain ⟨hfew, hmany⟩ := judgeCrossing_outcome (p := p) hwe hwo hpeer hwown
    have hranks (a : List Claim) (c d : Claim) : claimAhead p.unit { s.arb with
        claims := a, rotation := (joinOrRefresh src s).arb.rotation } c d = claimAhead p.unit w.arb c d := by
      refine claimAhead_congr ?_ ?_ _ c d
      · exact hrot.symm
      · exact hcross.symm
    rw [← hcount]
    refine ⟨fun h => ?_, fun h => ⟨?_, fun hb => ?_, fun hb => ?_⟩⟩
    · rw [hfew h] at hk ⊢
      exact ⟨settle_cranking hwe, hk.crossing.trans hcross⟩
    · rw [hk.crossing]
      exact judgeCrossing_listed hwe hwo hpeer hwown h
    · rw [hranks] at hb
      rw [(hmany h).1 hb]
      exact settle_cranking hwe
    · rw [hranks] at hb
      rw [(hmany h).2 hb]
      have hto : ownClaim (crossedWith src w) = own := ownClaim_of_claimOf hwown
      have hxseq : (crossedWith src w).seq = s.seq := hseq
      have hxmeas : (crossedWith src w).meas = s.meas := hmeas
      have hxlink : (crossedWith src w).link = { s.link with receive := .waitingIdle } := hlink
      generalize crossedWith src w = y at *
      obtain ⟨hcrank, hattempts, hturning, hrest⟩ := (yieldCrank_yielded y).settle (p := p)
      have hqueue := (yieldCrank_queue y).1
      rw [hto, hxseq] at hqueue
      rw [hxmeas, hto] at hturning hrest
      refine ⟨hcrank.trans (by rw [hxseq]), hattempts.trans (by rw [hxseq]), fun hs => ?_, fun h => ?_, hrest⟩
      · exact asked_settle_crankOff (s := y) (by unfold openLink; rw [hxlink]; exact hs) hqueue
      · obtain ⟨h1, h2, h3, h4, h5⟩ := hturning h
        refine ⟨h1, h2, h3, ?_, h5⟩
        unfold attemptClosed phaseElapsed at h4 ⊢
        rw [hxseq] at h4
        exact h4

end Sys2Proof.Machine

/-! PROOFS. STATUS of a peer: the repairs of its records (R100 to R104). -/

namespace Sys2Proof.Machine

variable {s t u v w x : State} {p : Params} {src : UnitNo} {c : StatusContent}

/-- Requests of some kinds are requests of more kinds. -/
theorem Asks.mono {K L : List Nat} (h : Asks K s t) (hKL : ∀ k ∈ K, k ∈ L) : Asks L s t :=
  ⟨Relation.ReflTransGen.mono (fun _ _ ⟨f, hf, heq⟩ => ⟨f, hKL _ hf, heq⟩) _ _ h.grows⟩

/-! ### The repair of the claim (R101) -/

/-- Only the claims and the expired pairs of the arbiter have changed, and the own claim stands. -/
structure PeerRepaired (v w : State) : Prop where
  state : w = { v with arb := { v.arb with claims := w.arb.claims, expired := w.arb.expired } }
  own : claimOf .own w.arb.claims = claimOf .own v.arb.claims

theorem PeerRepaired.refl (v : State) : PeerRepaired v v := ⟨rfl, rfl⟩

theorem PeerRepaired.trans (h : PeerRepaired u v) (k : PeerRepaired v w) : PeerRepaired u w := by
  obtain ⟨hs, ho⟩ := h
  obtain ⟨ks, ko⟩ := k
  refine ⟨?_, ko.trans ho⟩
  rw [ks, hs]

theorem PeerRepaired.ite {b : Prop} [Decidable b] (h : b → PeerRepaired v w) (k : ¬b → PeerRepaired v x) :
    PeerRepaired v (if b then w else x) := by
  split
  · exact h ‹_›
  · exact k ‹_›

theorem dropExpired_repaired (serial : Byte) (v : State) : PeerRepaired v (dropExpired src serial v) := ⟨rfl, rfl⟩

theorem removeClaim_repaired (v : State) : PeerRepaired v (removeClaim src v) :=
  ⟨rfl, claimOf_dropClaim_other (by simp) _⟩

theorem putClaim_repaired {d : Claim} (hd : d.who = .unit src) (v : State) :
    PeerRepaired v { v with arb := { v.arb with claims := putClaim d v.arb.claims } } := by
  refine ⟨rfl, ?_⟩
  dsimp only
  rw [claimOf_putClaim, if_neg (by rw [hd]; simp)]

theorem makeClaim_repaired (l : Level) (serial : Byte) (st : ClaimState) (v : State) :
    PeerRepaired v (makeClaim src l serial st v) := by
  unfold makeClaim
  exact .ite (fun _ => .refl v) fun _ => putClaim_repaired rfl v

theorem repairClaim_repaired (c : StatusContent) (v : State) : PeerRepaired v (repairClaim src c v) := by
  unfold repairClaim
  split
  · have h : PeerRepaired v (dropExpiredAll src v) := ⟨rfl, rfl⟩
    dsimp only
    split
    · exact h
    · exact .ite (fun _ => h) fun _ => h.trans (removeClaim_repaired _)
  · rename_i l serial _
    have h := dropExpired_repaired (src := src) serial v
    dsimp only
    split
    · exact h.trans (makeClaim_repaired _ _ _ _)
    · exact .ite (fun _ => h) fun _ => h.trans (makeClaim_repaired _ _ _ _)

theorem repairClaim_none (hc : c.claim = none) (h : ∀ d, claimOf (.unit src) v.arb.claims = some d →
    (!isCranking d && c.engine == .stopping && c.dest == some .prep) = false) :
    claimOf (.unit src) (repairClaim src c v).arb.claims = none := by
  have hclaims : (dropExpiredAll src v).arb.claims = v.arb.claims := rfl
  unfold repairClaim
  rw [hc]
  dsimp only
  rw [hclaims]
  cases hd : claimOf (.unit src) v.arb.claims with
  | none => exact hd
  | some d =>
    dsimp only
    rw [h d hd, if_neg (by simp)]
    exact claimOf_dropClaim_self _ _

theorem repairClaim_waits {d : Claim} (hc : c.claim = none) (he : c.engine = .stopping) (hto : c.dest = some .prep)
    (hd : claimOf (.unit src) v.arb.claims = some d) (hw : d.state = .waiting) :
    claimOf (.unit src) (repairClaim src c v).arb.claims = some d := by
  have hclaims : (dropExpiredAll src v).arb.claims = v.arb.claims := rfl
  unfold repairClaim
  rw [hc]
  dsimp only
  rw [hclaims, hd]
  dsimp only
  rw [if_pos (by simp [isCranking, hw, he, hto])]
  exact hd

/-- R101: a shown claim makes or replaces a WAITING entry. -/
theorem repairClaim_made {l : Level} {k : Byte} (hc : c.claim = some (l, k))
    (hx : ∀ x ∈ v.arb.expired, x.unit = src → x.serial ≠ k)
    (hd : ∀ d, claimOf (.unit src) v.arb.claims = some d → d.state = .waiting) :
    (repairClaim src c v).arb.claims
      = putClaim { who := .unit src, level := l, serial := k, state := .waiting } v.arb.claims := by
  have hb : blocked src k (withoutExpired src k v.arb) = false := by
    rw [blocked_withoutExpired]
    exact blocked_false hx
  have made : (makeClaim src l k .waiting (dropExpired src k v)).arb.claims
      = putClaim { who := .unit src, level := l, serial := k, state := .waiting } v.arb.claims := by
    rw [makeClaim_arb, dropExpired_eq]
    exact withClaim_claims hb l .waiting
  unfold repairClaim
  rw [hc]
  dsimp only
  cases h : claimOf (.unit src) (dropExpired src k v).arb.claims with
  | none => exact made
  | some d =>
    dsimp only
    rw [if_neg (by rw [isCranking, hd d h]; simp)]
    exact made

/-- R101: a CRANKING entry stands where a claim is shown. -/
theorem repairClaim_cranking {l : Level} {k : Byte} {d : Claim} {us : Nat} (hc : c.claim = some (l, k))
    (hd : claimOf (.unit src) v.arb.claims = some d) (hus : d.state = .cranking us) :
    repairClaim src c v = dropExpired src k v := by
  have hclaims : (dropExpired src k v).arb.claims = v.arb.claims := rfl
  unfold repairClaim
  rw [hc]
  dsimp only
  rw [hclaims, hd]
  dsimp only
  rw [if_pos (by rw [isCranking, hus])]

/-! ### The repair of the crank (R102) -/

theorem repairCrank_none (h : claimOf (.unit src) v.arb.claims = none) : repairCrank p src c v = v := by
  unfold repairCrank
  rw [h]

/-- R102: the peer's entry CRANKING from 0. -/
def crankingNow (d : Claim) (v : State) : State :=
  { v with arb := { v.arb with claims := putClaim { d with state := .cranking 0 } v.arb.claims } }

theorem repairCrank_waiting {d : Claim} (hd : claimOf (.unit src) v.arb.claims = some d) (hw : d.state = .waiting) :
    repairCrank p src c v = if showsCrank c then judgeCrossing p src (crankingNow d v) else v := by
  unfold repairCrank
  rw [hd]
  dsimp only
  rw [hw]
  rfl

theorem repairCrank_cranking {d : Claim} {us : Nat} {l : Level} {k : Byte} (hc : c.claim = some (l, k))
    (hd : claimOf (.unit src) v.arb.claims = some d) (hus : d.state = .cranking us) :
    repairCrank p src c v
      = if showsCrank c then makeClaim src l k (.cranking (if k = d.serial then us else 0)) v
        else makeClaim src l k .waiting (removeClaim src v) := by
  unfold repairCrank
  rw [hd]
  dsimp only
  rw [hus]
  dsimp only
  rw [hc]

/-- The repair of the crank moves the peer's records, and may judge a crossing. -/
theorem repairCrank_repaired (c : StatusContent) (v : State) :
    ∃ w, PeerRepaired v w ∧ (repairCrank p src c v = w ∨ repairCrank p src c v = judgeCrossing p src w) := by
  unfold repairCrank
  split
  · exact ⟨v, .refl v, .inl rfl⟩
  · rename_i d hd
    have hwho := claimOf_who hd
    split
    · split
      · exact ⟨_, putClaim_repaired (d := { d with state := .cranking 0 }) hwho v, .inr rfl⟩
      · exact ⟨v, .refl v, .inl rfl⟩
    · split
      · split
        · exact ⟨v, .refl v, .inl rfl⟩
        · exact ⟨_, makeClaim_repaired _ _ _ v, .inl rfl⟩
      · split
        · exact ⟨_, removeClaim_repaired v, .inl rfl⟩
        · exact ⟨_, (removeClaim_repaired v).trans (makeClaim_repaired _ _ _ _), .inl rfl⟩

/-! ### The two repairs together -/

/-- R101, R102: the records of the peer as the STATUS repairs its claim and its crank. -/
def repaired (p : Params) (src : UnitNo) (c : StatusContent) (v : State) : State :=
  repairCrank p src c (repairClaim src c v)

theorem repaired_none (hc : c.claim = none) (h : ∀ d, claimOf (.unit src) v.arb.claims = some d →
    (!isCranking d && c.engine == .stopping && c.dest == some .prep) = false) :
    claimOf (.unit src) (repaired p src c v).arb.claims = none := by
  have hnone := repairClaim_none hc h
  rw [repaired, repairCrank_none hnone]
  exact hnone

theorem repaired_waits {d : Claim} (hc : c.claim = none) (he : c.engine = .stopping) (hto : c.dest = some .prep)
    (hd : claimOf (.unit src) v.arb.claims = some d) (hw : d.state = .waiting) :
    claimOf (.unit src) (repaired p src c v).arb.claims = some d := by
  have h := repairClaim_waits hc he hto hd hw
  rw [repaired, repairCrank_waiting h hw, if_neg (by simp [showsCrank, he])]
  exact h

theorem crankingNow_claim {d : Claim} (hd : d.who = .unit src) (v : State) :
    claimOf (.unit src) (crankingNow d v).arb.claims = some { d with state := .cranking 0 } := by
  unfold crankingNow
  dsimp only
  rw [claimOf_putClaim, if_pos hd.symm]

/-- A shown claim that no CRANKING entry stands against: WAITING, or CRANKING with the crossing judged. -/
theorem repaired_made {l : Level} {k : Byte} (hc : c.claim = some (l, k))
    (hx : ∀ x ∈ v.arb.expired, x.unit = src → x.serial ≠ k)
    (hd : ∀ d, claimOf (.unit src) v.arb.claims = some d → d.state = .waiting) :
    (repaired p src c v = if showsCrank c
      then judgeCrossing p src (crankingNow { who := .unit src, level := l, serial := k, state := .waiting } (repairClaim src c v))
      else repairClaim src c v)
    ∧ claimOf (.unit src) (repaired p src c v).arb.claims = some
        { who := .unit src, level := l, serial := k, state := if showsCrank c then .cranking 0 else .waiting } := by
  have h : claimOf (.unit src) (repairClaim src c v).arb.claims
      = some { who := .unit src, level := l, serial := k, state := .waiting } := by
    rw [repairClaim_made hc hx hd, claimOf_putClaim, if_pos rfl]
  have heq := repairCrank_waiting (p := p) (c := c) h rfl
  refine ⟨heq, ?_⟩
  rw [repaired, heq]
  cases showsCrank c with
  | true =>
    rw [if_pos rfl, if_pos rfl, (judgeCrossing_apart _).peerClaim]
    exact crankingNow_claim rfl _
  | false =>
    rw [if_neg (by simp), if_neg (by simp)]
    exact h

theorem repaired_cranking {l : Level} {k : Byte} {d : Claim} {us : Nat} (hc : c.claim = some (l, k))
    (hs : showsCrank c = true) (hd : claimOf (.unit src) v.arb.claims = some d) (hus : d.state = .cranking us) :
    ((k = d.serial ∨ ∀ x ∈ v.arb.expired, x.unit = src → x.serial ≠ k) →
      claimOf (.unit src) (repaired p src c v).arb.claims = some
        { who := .unit src, level := l, serial := k, state := .cranking (if k = d.serial then us else 0) })
    ∧ (k ≠ d.serial → { unit := src, serial := k } ∈ v.arb.expired →
      claimOf (.unit src) (repaired p src c v).arb.claims = some d) := by
  have hd' : claimOf (.unit src) (dropExpired src k v).arb.claims = some d := hd
  have hblocked := blocked_withoutExpired src k v.arb
  rw [repaired, repairClaim_cranking hc hd hus, repairCrank_cranking hc hd' hus, if_pos hs, makeClaim_arb, dropExpired_eq]
  dsimp only
  refine ⟨fun h => ?_, fun hne hmem => ?_⟩
  · have hb : blocked src k v.arb = false := by
      rcases h with h | h
      · unfold blocked
        rw [hd, h]
        simp
      · exact blocked_false h
    rw [withClaim_claims (hblocked.trans hb), claimOf_putClaim, if_pos rfl]
  · have hb : blocked src k v.arb = true := blocked_true hmem fun e he => by
      rw [hd] at he
      cases he
      exact hne.symm
    rw [withClaim_blocked (hblocked.trans hb)]
    exact hd

theorem repaired_unshown {l : Level} {k : Byte} {d : Claim} {us : Nat} (hc : c.claim = some (l, k))
    (hs : showsCrank c = false) (hx : ∀ x ∈ v.arb.expired, x.unit = src → x.serial ≠ k)
    (hd : claimOf (.unit src) v.arb.claims = some d) (hus : d.state = .cranking us) :
    claimOf (.unit src) (repaired p src c v).arb.claims
      = some { who := .unit src, level := l, serial := k, state := .waiting } := by
  have hd' : claimOf (.unit src) (dropExpired src k v).arb.claims = some d := hd
  have hb : blocked src k (removeClaim src (dropExpired src k v)).arb = false :=
    blocked_false fun x hmem => hx x (List.mem_of_mem_filter hmem)
  rw [repaired, repairClaim_cranking hc hd hus, repairCrank_cranking hc hd' hus, if_neg (by simp [hs]), makeClaim_arb]
  dsimp only
  rw [withClaim_claims hb, claimOf_putClaim, if_pos rfl]

/-- Both repairs move the peer's records, and may judge a crossing. -/
theorem repaired_repaired (c : StatusContent) (v : State) :
    ∃ w, PeerRepaired v w ∧ (repaired p src c v = w ∨ repaired p src c v = judgeCrossing p src w) := by
  obtain ⟨w, hw, h⟩ := repairCrank_repaired (p := p) (src := src) c (repairClaim src c v)
  exact ⟨w, (repairClaim_repaired c v).trans hw, h⟩

/-! ### The crank count and the intent (R103, R104) -/

theorem takeCount_moved (n : Byte) (joins : Bool) (v : State) : ∃ r rot cr,
    takeCount src n joins v = { v with roster := r, arb := { v.arb with rotation := rot, crossing := cr } } := by
  cases he : entryOf src v.roster.entries with
  | none =>
    unfold takeCount
    rw [he]
    exact ⟨_, _, _, rfl⟩
  | some e =>
    rw [takeCount_eq he]
    split
    · exact ⟨_, _, _, rfl⟩
    · exact ⟨_, _, _, rfl⟩

/-- The count shown, where the last seen is none or the same: only the entry changes. -/
theorem takeCount_same {e : RosterEntry} {n : Byte} (he : entryOf src v.roster.entries = some e)
    (h : countDiffers n false e = false) : (takeCount src n false v).arb = v.arb := by
  rw [takeCount_eq he, h, if_neg (by simp)]
  rfl

/-- R104: the entry's intent as the STATUS repairs it. -/
def intentRepaired (c : StatusContent) (e : RosterEntry) : RosterEntry :=
  match c.intent with
  | some serial => withIntent serial e
  | none => if c.engine = .layover then e else { e with intent := none }

theorem recordIntent_only (serial : Byte) (v : State) :
    LayoverOnly { v with roster := (recordIntent p src serial v).roster } (recordIntent p src serial v)
      ∧ Asks [8] v (recordIntent p src serial v) := by
  have same : LayoverOnly v v := ⟨_, .inl rfl⟩
  cases he : entryOf src v.roster.entries with
  | none =>
    rw [recordIntent_absent he]
    exact ⟨same, .of_queue⟩
  | some e =>
    by_cases hold : e.intent.map (·.serial) = some serial
    · rw [recordIntent_stands he hold]
      exact ⟨same, .of_queue⟩
    · rw [recordIntent_new he hold]
      split
      · have hc := cancelIntent_only (updateEntry src (freshIntent serial) v)
        rw [hc.roster]
        refine ⟨hc, ?_⟩
        unfold cancelIntent
        dsimp only
        split
        · exact .of_queue
        · exact (Asks.made (c := .layoverCancel _) (by simp [contentKind]) _).since
      · exact ⟨⟨_, .inl rfl⟩, .of_queue⟩

theorem repairIntent_changes (c : StatusContent) (v : State) :
    EntryChanged src (intentRepaired c) v.roster (repairIntent p src c v).roster
      ∧ LayoverOnly { v with roster := (repairIntent p src c v).roster } (repairIntent p src c v)
      ∧ Asks [8] v (repairIntent p src c v) := by
  unfold repairIntent intentRepaired
  cases c.intent with
  | some serial => exact ⟨(recordIntent_changes serial v).1, recordIntent_only serial v⟩
  | none =>
    dsimp only
    split
    · exact ⟨.of_same fun _ _ => rfl, ⟨_, .inl rfl⟩, .of_queue⟩
    · exact ⟨.of_updateEntry (g := fun e => { e with intent := none }) (fun _ => rfl) fun _ _ => rfl, ⟨_, .inl rfl⟩, .of_queue⟩

/-! ### A STATUS taken -/

/-- R100: the status part replaced. -/
def shown (c : StatusContent) (e : RosterEntry) : RosterEntry := { e with status := some c }

theorem judgeCrossing_rotation (w : State) : (judgeCrossing p src w).arb.rotation = w.arb.rotation := by
  unfold judgeCrossing
  split
  · split
    · rfl
    · dsimp only
      split
      · exact (yieldCrank_queue _).2.2.1
      · rfl
  · rfl

/-- What the repairs leave of the other records, and the peer's records as they stand after the count. -/
theorem takeStatus_outcome {e : RosterEntry} (he : entryOf src v.roster.entries = some e) (c : StatusContent) :
    entryOf src (takeStatus p src c v).roster.entries = some (intentRepaired c (counted c.crankCount (shown c e)))
      ∧ (takeStatus p src c v).arb.rotation
        = (if countDiffers c.crankCount false e then toTail (.unit src) v.arb.rotation else v.arb.rotation)
      ∧ (takeStatus p src c v).arb.claims = (repaired p src c (updateEntry src (shown c) v)).arb.claims
      ∧ (takeStatus p src c v).seq = (repaired p src c (updateEntry src (shown c) v)).seq
      ∧ (takeStatus p src c v).meas = v.meas
      ∧ (countDiffers c.crankCount false e = false →
        (takeStatus p src c v).arb = (repaired p src c (updateEntry src (shown c) v)).arb)
      ∧ Asks [8] (repaired p src c (updateEntry src (shown c) v)) (takeStatus p src c v)
      ∧ ∃ b, Apart { v with roster := (takeStatus p src c v).roster, arb := b } (takeStatus p src c v) := by
  have heq : takeStatus p src c v
      = repairIntent p src c (takeCount src c.crankCount false (repaired p src c (updateEntry src (shown c) v))) := rfl
  obtain ⟨w, hw, hy⟩ := repaired_repaired (p := p) (src := src) c (updateEntry src (shown c) v)
  have hyapart : Apart { v with roster := (updateEntry src (shown c) v).roster, arb := w.arb }
      (repaired p src c (updateEntry src (shown c) v))
      ∧ (repaired p src c (updateEntry src (shown c) v)).arb.rotation = v.arb.rotation := by
    have hbase : w = { v with roster := (updateEntry src (shown c) v).roster, arb := w.arb } := by
      rw [hw.state]
      rfl
    have hrot : w.arb.rotation = v.arb.rotation := by
      rw [hw.state]
      rfl
    rw [← hbase]
    rcases hy with hy | hy
    · rw [hy]
      exact ⟨.refl w, hrot⟩
    · rw [hy]
      exact ⟨judgeCrossing_apart w, (judgeCrossing_rotation w).trans hrot⟩
  have hentry : entryOf src (updateEntry src (shown c) v).roster.entries = some (shown c e) := by
    unfold updateEntry
    dsimp only
    rw [entryOf_mapEntry src src (f := shown c) (fun _ => rfl), if_pos rfl, he]
    rfl
  rw [heq]
  generalize repaired p src c (updateEntry src (shown c) v) = y at hyapart ⊢
  obtain ⟨hapart, hrotation⟩ := hyapart
  have hyentry : entryOf src y.roster.entries = some (shown c e) := by
    rw [hapart.roster]
    exact hentry
  have hsame : countDiffers c.crankCount false e = false → (takeCount src c.crankCount false y).arb = y.arb :=
    fun h => takeCount_same hyentry h
  obtain ⟨b, hb, hclaims, -, hrot⟩ := takeCount_state hyentry c.crankCount false
  obtain ⟨r, rot, cr, hmoved⟩ := takeCount_moved (src := src) c.crankCount false y
  have hcounted : entryOf src (takeCount src c.crankCount false y).roster.entries
      = some (counted c.crankCount (shown c e)) := by
    rw [hb]
    dsimp only
    rw [entryOf_mapEntry src src (f := counted c.crankCount) (fun _ => rfl), if_pos rfl, hyentry]
    rfl
  have hbarb : (takeCount src c.crankCount false y).arb = b := by rw [hb]
  generalize takeCount src c.crankCount false y = z at *
  obtain ⟨hchanged, honly, hasks⟩ := repairIntent_changes (p := p) (src := src) c z
  obtain ⟨hseq, harb, -, -⟩ := honly.same
  have happ := honly.apart
  generalize repairIntent p src c z = t at *
  have hza : z.arb = { y.arb with rotation := rot, crossing := cr } := by rw [hmoved]
  refine ⟨?_, ?_, ?_, ?_, ?_, fun h => harb.trans (hsame h), ?_, ⟨w.arb, ?_⟩⟩
  · rw [hchanged.entry, hcounted]
    rfl
  · rw [harb]
    show z.arb.rotation = _
    rw [hbarb, hrot, hrotation]
    rfl
  · rw [harb]
    show z.arb.claims = _
    rw [hbarb, hclaims]
  · rw [hseq, hmoved]
  · rw [happ.meas, hmoved]
    exact hapart.meas
  · exact (Asks.of_queue (by rw [hmoved])).trans hasks
  · have hzy : Apart { y with roster := t.roster } { z with roster := t.roster } := by
      rw [hmoved]
      exact .of_blocks
    have hyv : Apart { v with roster := t.roster, arb := w.arb } { y with roster := t.roster } :=
      { hapart with roster := rfl }
    exact (hyv.trans hzy).trans happ

/-! ### The crossing a STATUS may bring -/

theorem putClaim_putClaim {c d : Claim} (h : c.who = d.who) (l : List Claim) : putClaim c (putClaim d l) = putClaim c l := by
  unfold putClaim
  rw [h]
  by_cases hd : l.any (fun e => e.who == d.who)
  · have hin : (l.map fun e => if e.who = d.who then d else e).any (fun e => e.who == d.who) = true := by
      rw [List.any_eq_true] at hd ⊢
      obtain ⟨e, he, hw⟩ := hd
      exact ⟨d, List.mem_map.mpr ⟨e, he, if_pos (by simpa using hw)⟩, by simp⟩
    rw [if_pos hd, if_pos hin, if_pos hd, List.map_map]
    refine List.map_congr_left fun e _ => ?_
    rw [Function.comp_apply]
    by_cases he : e.who = d.who
    · simp [he]
    · simp [he]
  · have hnone : ∀ e ∈ l, e.who ≠ d.who := by simpa using hd
    rw [if_neg hd, if_neg hd, if_pos (by simp), List.map_append, List.map_singleton, if_pos rfl]
    congr 1
    exact (List.map_congr_left fun e he => if_neg (hnone e he)).trans (List.map_id l)

/-- What the crossing is judged with: the peer's entry CRANKING from 0 among the claims, the rest as it was. -/
structure Crossable (src : UnitNo) (l : Level) (k : Byte) (v w : State) : Prop where
  claims : w.arb.claims = putClaim { who := .unit src, level := l, serial := k, state := .cranking 0 } v.arb.claims
  state : w = { v with arb := { v.arb with claims := w.arb.claims, expired := w.arb.expired } }

theorem repaired_crosses {l : Level} {k : Byte} (hc : c.claim = some (l, k)) (hs : showsCrank c = true)
    (hx : ∀ x ∈ v.arb.expired, x.unit = src → x.serial ≠ k)
    (hd : ∀ d, claimOf (.unit src) v.arb.claims = some d → d.state = .waiting) :
    ∃ w, Crossable src l k v w ∧ repaired p src c v = judgeCrossing p src w := by
  refine ⟨_, ⟨?_, ?_⟩, (repaired_made hc hx hd).1.trans (if_pos hs)⟩
  · unfold crankingNow
    dsimp only
    rw [repairClaim_made hc hx hd]
    exact putClaim_putClaim (by rfl) _
  · unfold crankingNow
    rw [(repairClaim_repaired c v).state]

/-- R122: what follows of a crossing in the crank, whatever else the frame moves before the blocks judge. -/
theorem settle_crossing {l : Level} {k : Byte} {own : Claim} {us : Nat} (h : Crossable src l k v w)
    (he : v.seq.engine = .starting .crank) (ho : v.arb.overlapTimer = some us)
    (hown : claimOf .own v.arb.claims = some own)
    (hseq : x.seq = (judgeCrossing p src w).seq) (hmeas : x.meas = v.meas) (harb : x.arb = (judgeCrossing p src w).arb)
    (hasks : Asks judgedKinds (judgeCrossing p src w) x) :
    let peer : Claim := { who := .unit src, level := l, serial := k, state := .cranking 0 }
    let claims := putClaim peer v.arb.claims
    let judged : Arbiter := { v.arb with claims }
    ((claims.filter isCranking).length ≤ p.crank.maxCranking →
      (settle p x).seq.engine = .starting .crank ∧ (settle p x).arb.crossing = v.arb.crossing)
    ∧ (p.crank.maxCranking < (claims.filter isCranking).length →
      src ∈ (settle p x).arb.crossing
      ∧ (claimAhead p.unit judged peer own = false → (settle p x).seq.engine = .starting .crank)
      ∧ (claimAhead p.unit judged peer own = true → p.sense.stoppedSpeed ≤ v.meas.speed →
          (settle p x).seq.engine = .stopping .prep ∧ (settle p x).seq.keptSerial = some own.serial
          ∧ (settle p x).seq.crankCount = v.seq.crankCount ∧ attemptClosed .yielded v (settle p x)
          ∧ (openLink v →
              asked (.crankOff 4 (levelByte own.level) own.serial v.seq.crankCount) (settle p x)))) := by
  have hcross : w.arb.crossing = v.arb.crossing := by rw [h.state]
  have hover : w.arb.overlapTimer = some us := by rw [h.state]; exact ho
  have hrot : w.arb.rotation = v.arb.rotation := by rw [h.state]
  have hwe : w.seq.engine = .starting .crank := by rw [h.state]; exact he
  have hpeer : claimOf (.unit src) w.arb.claims = some { who := .unit src, level := l, serial := k, state := .cranking 0 } := by
    rw [h.claims, claimOf_putClaim, if_pos rfl]
  have hwown : claimOf .own w.arb.claims = some own := by
    rw [h.claims, claimOf_putClaim, if_neg (by simp)]
    exact hown
  have hcount : crankingCount w.arb = ((putClaim { who := .unit src, level := l, serial := k, state := .cranking 0 }
    v.arb.claims).filter isCranking).length := by rw [crankingCount, h.claims]
  have hranks (a : List Claim) (c d : Claim) : claimAhead p.unit { v.arb with claims := a } c d
      = claimAhead p.unit w.arb c d := by
    refine claimAhead_congr ?_ ?_ _ c d
    · exact hrot.symm
    · exact hcross.symm
  obtain ⟨hfew, hmany⟩ := judgeCrossing_outcome (p := p) hwe hover hpeer hwown
  have hlisted := judgeCrossing_listed (p := p) hwe hover hpeer hwown
  have hk := settle_kept p x
  dsimp only
  rw [← hcount]
  refine ⟨fun hn => ?_, fun hn => ⟨?_, fun hb => ?_, fun hb hturning => ?_⟩⟩
  · rw [hfew hn] at hseq harb
    exact ⟨settle_cranking (by rw [hseq]; exact hwe), by rw [hk.crossing, harb]; exact hcross⟩
  · rw [hk.crossing, harb]
    exact hlisted hn
  · rw [hranks] at hb
    rw [(hmany hn).1 hb] at hseq
    exact settle_cranking (by rw [hseq]; exact hwe)
  · rw [hranks] at hb
    rw [(hmany hn).2 hb] at hseq harb hasks
    have hto : ownClaim (crossedWith src w) = own := ownClaim_of_claimOf hwown
    have hyseq : (crossedWith src w).seq = v.seq := show w.seq = v.seq by rw [h.state]
    have hymeas : (crossedWith src w).meas = v.meas := show w.meas = v.meas by rw [h.state]
    have hylink : (crossedWith src w).link = v.link := show w.link = v.link by rw [h.state]
    generalize crossedWith src w = y at *
    have hyield : Yielded y x := ⟨hseq, hmeas.trans hymeas.symm, by rw [harb]; exact (yieldCrank_yielded y).claims⟩
    obtain ⟨hcrank, -, hleft, -⟩ := hyield.settle (p := p)
    have hqueue := (yieldCrank_queue y).1
    rw [hto, hyseq] at hqueue
    rw [hymeas, hto] at hleft
    obtain ⟨h1, h2, -, h4, -⟩ := hleft hturning
    refine ⟨h1, h2, hcrank.trans (by rw [hyseq]), ?_, fun hs => ?_⟩
    · unfold attemptClosed phaseElapsed at h4 ⊢
      rw [hyseq] at h4
      exact h4
    · have hopen : openLink y := by unfold openLink; rw [hylink]; exact hs
      have hgrows := (hasks.trans (settle_asks p x)).grows
      rw [hqueue, queueAfter_open hopen] at hgrows
      exact hgrows.keeps (List.mem_singleton_self _) (kindsWithin_single _) (show 2 ∉ judgedKinds by decide)
        (show ∀ k ∈ judgedKinds, cancelledKind k ≠ some 2 by decide) (by decide)

theorem not_cranking {d : Claim} (h : ∀ us, d.state ≠ .cranking us) : d.state = .waiting := by
  cases hs : d.state with
  | waiting => rfl
  | cranking us => exact absurd hs (h us)

theorem intentRepaired_only (c : StatusContent) (e : RosterEntry) : ∃ i, intentRepaired c e = { e with intent := i }
    ∧ (∀ serial, c.intent = some serial → ∃ j, i = some j ∧ j.serial = serial)
    ∧ (c.intent = none → c.engine ≠ .layover → i = none) := by
  unfold intentRepaired
  cases c.intent with
  | none =>
    dsimp only
    split
    · rename_i h
      exact ⟨e.intent, rfl, nofun, fun _ hn => absurd h hn⟩
    · exact ⟨none, rfl, nofun, fun _ _ => rfl⟩
  | some k =>
    refine ⟨_, rfl, fun serial hs => ?_, nofun⟩
    cases hs
    split
    · rename_i h
      obtain ⟨j, hj, hk⟩ := Option.map_eq_some_iff.mp h
      exact ⟨j, hj, hk⟩
    · exact ⟨_, rfl, rfl⟩

/-- Settles O41: the records as the STATUS repairs them, which the judgements leave, and the crossing it may bring. -/
theorem statusRepairsRecords : Obligations.StatusRepairsRecords := by
  intro p s src c hheard ha hvalid
  have hp := hheard.1
  obtain ⟨hclaims, hexpired⟩ := heardBy_claims src s
  obtain ⟨-, hcrossing, hoverlap⟩ := heardBy_claimTimer src s
  have run : exec (.status src c) s = .next (settle p (takeStatus p src c (heardBy src s))) := by
    show Host.Outcome.next (receiveContent src (.status c) s) = _
    rw [receive_admitted (c := .status c) hheard ha hvalid fun _ => rfl, actOnKind]
  obtain ⟨e, he, hage, hold, hnew⟩ := entryOf_heardBy ha
  obtain ⟨hentry, hrotation, hlist, hseq, hmeas, harb, hasks, b, hapart⟩ := takeStatus_outcome (p := p) he c
  have hvclaims : (updateEntry src (shown c) (heardBy src s)).arb.claims = s.arb.claims := hclaims
  have hvexpired : (updateEntry src (shown c) (heardBy src s)).arb.expired = s.arb.expired := hexpired
  have hvrot : (updateEntry src (shown c) (heardBy src s)).arb.rotation = (joinOrRefresh src s).arb.rotation :=
    (joinOrRefresh_rotation src s).symm
  have hvarb : (updateEntry src (shown c) (heardBy src s)).arb = { s.arb with rotation := (joinOrRefresh src s).arb.rotation } := by
    rw [← hvrot]
    exact heardBy_arb src s
  have hvseq : (updateEntry src (shown c) (heardBy src s)).seq = s.seq := by
    show (heardBy src s).seq = s.seq
    rw [heardBy_only]
  have hvmeas : (updateEntry src (shown c) (heardBy src s)).meas = s.meas := by
    show (heardBy src s).meas = s.meas
    rw [heardBy_only]
  have hvlink : (updateEntry src (shown c) (heardBy src s)).link = { s.link with receive := .waitingIdle } := by
    show (heardBy src s).link = _
    rw [heardBy_only]
  have hfrom : Apart { s with link := { s.link with receive := .waitingIdle }
                              roster := (takeStatus p src c (heardBy src s)).roster, arb := b }
      (takeStatus p src c (heardBy src s)) := by
    rw [← heardBy_with]
    exact hapart
  have hzmeas : (takeStatus p src c (heardBy src s)).meas = (updateEntry src (shown c) (heardBy src s)).meas := hmeas
  clear hapart hmeas
  generalize updateEntry src (shown c) (heardBy src s) = v at *
  generalize takeStatus p src c (heardBy src s) = z at *
  have hk := settle_kept p z
  obtain ⟨hfollow, hapart, -⟩ := heard_settled hp hfrom
  have hpeer : claimOf (.unit src) (settle p z).arb.claims = claimOf (.unit src) (repaired p src c v).arb.claims := by
    rw [hk.peerClaim, hlist]
  obtain ⟨i, hi, hshown, hdropped⟩ := intentRepaired_only c (counted c.crankCount (shown c e))
  have hrot : (settle p z).arb.rotation = z.arb.rotation := hk.rotation
  rw [hi] at hentry
  rw [hrotation] at hrot
  refine ⟨_, { counted c.crankCount (shown c e) with intent := i }, run, hfollow, hapart, by rw [hk.roster]; exact hentry,
     hage, rfl, rfl, hshown, hdropped, ?_, ?_, ?_, ?_, ?_, ?_, ?_, ?_, ?_⟩
  · intro d k hd hcount hne
    obtain ⟨he', hrot'⟩ := hold d hd
    rw [hrot, hrot', if_pos]
    rw [he', countDiffers, refreshed]
    simpa [hcount] using hne
  · intro d k hd hcount heq
    obtain ⟨he', hrot'⟩ := hold d hd
    rw [hrot, hrot', if_neg]
    rw [he', countDiffers, refreshed]
    simp [hcount, heq]
  · intro hnone hdest
    rw [hpeer]
    refine repaired_none hnone fun d _ => ?_
    by_contra hall
    have hshows : isCranking d = false ∧ c.engine = .stopping ∧ c.dest = some .prep := by
      simpa [and_assoc] using hall
    exact hdest hshows.2
  · intro d hnone hengine hto hd hw
    rw [hpeer]
    exact repaired_waits hnone hengine hto (by rw [hvclaims]; exact hd) hw
  · intro l k hshow hnone hx
    rw [hpeer]
    exact (repaired_made hshow (by rw [hvexpired]; exact hx) fun d hd => by rw [hvclaims, hnone] at hd; cases hd).2
  · intro l k d us hshow hcrank hd hus
    rw [hpeer, ← hvexpired]
    exact repaired_cranking hshow hcrank (by rw [hvclaims]; exact hd) hus
  · intro l k d hshow hd hstate hx
    rw [hpeer]
    cases hs : d.state with
    | waiting =>
      exact (repaired_made hshow (by rw [hvexpired]; exact hx) fun f hf => by rw [hvclaims, hd] at hf; cases hf; exact hs).2
    | cranking us =>
      have hun : showsCrank c = false := hstate.resolve_left (by rw [hs]; simp)
      rw [hun, if_neg (by simp)]
      exact repaired_unshown hshow hun (by rw [hvexpired]; exact hx) (by rw [hvclaims]; exact hd) hs
  · intro d us hnone hd hus
    rw [hpeer]
    refine repaired_none hnone fun f hf => ?_
    rw [hvclaims, hd] at hf
    cases hf
    simp [isCranking, hus]
  · intro l k own w hshow hcrank hx hnone hcount hengine hwindow hown
    obtain ⟨y, hy, hjudged⟩ := repaired_crosses (p := p) hshow hcrank (by rw [hvexpired]; exact hx)
      fun d hd => not_cranking fun us => hnone d us (by rw [hvclaims] at hd; exact hd)
    have hsame : countDiffers c.crankCount false e = false := by
      unfold countDiffers
      cases hd : entryOf src s.roster.entries with
      | none =>
        rw [hnew hd]
        rfl
      | some d =>
        rw [(hold d hd).1]
        show (match d.lastCount with | none => false | some n => n != c.crankCount) = false
        cases hn : d.lastCount with
        | none => rfl
        | some n => simp [hcount d n hd hn]
    rw [hjudged] at hseq harb hasks
    have h := settle_crossing hy (by rw [hvseq]; exact hengine) (by rw [hvarb]; exact hwindow) (by rw [hvclaims]; exact hown)
      hseq hzmeas (harb hsame) (p := p) (hasks.mono (by decide))
    rw [hvarb] at h
    refine ⟨h.1, fun hn => ?_⟩
    obtain ⟨hlisted, hbehind, hahead⟩ := h.2 hn
    refine ⟨hlisted, hbehind, fun hb hturning => ?_⟩
    obtain ⟨h1, h2, h3, h4, h5⟩ := hahead hb (by rw [hvmeas]; exact hturning)
    refine ⟨h1, h2, by rw [h3, hvseq], ?_, fun hs => ?_⟩
    · unfold attemptClosed phaseElapsed at h4 ⊢
      rw [hvseq] at h4
      exact h4
    · rw [hvseq] at h5
      exact h5 (by unfold openLink; rw [hvlink]; exact hs)

end Sys2Proof.Machine

/-! PROOFS. The notch stepper over a round of judgements (R77 to R91). -/

namespace Sys2Proof.Machine

variable {s t u v w : State} {p : Params} {r : Row}

/-! ### What a round reads of the state -/

theorem Kept.lineOn (h : Kept s t) (p : Params) (line : InputLine) : lineOn p t line = lineOn p s line := by
  unfold Machine.lineOn
  rw [h.demand]

theorem Kept.tableInForce (h : Kept s t) (p : Params) : tableInForce p t = tableInForce p s := by
  unfold Machine.tableInForce
  rw [h.lineOn]

/-- The state in which the stepper of a round takes its steps. -/
def begun (p : Params) (s : State) : State :=
  settleReport (settleTarget (settleLowIdle p (settleMakeUp p (settleCaps p (settleOwnRecord p s)))))

theorem begun_kept (p : Params) (s : State) : Kept s (begun p s) :=
  (((((settleOwnRecord_kept p s).trans (settleCaps_kept p _)).trans (settleMakeUp_kept p _)).trans
    (settleLowIdle_kept p _)).trans (settleTarget_kept _)).trans (settleReport_kept _)

theorem settleReport_step (s : State) : (settleReport s).step = s.step := by
  unfold settleReport
  split <;> rfl

theorem begun_target (p : Params) (s : State) : (begun p s).step.target = targetAfter p s := by
  unfold begun targetAfter
  rw [settleReport_step]

theorem begun_step (p : Params) (s : State) : (begun p s).step = { s.step with
    lowIdleTimer := (begun p s).step.lowIdleTimer, lowIdleReached := (begun p s).step.lowIdleReached
    target := targetAfter p s } := by
  have h : (settleMakeUp p (settleCaps p (settleOwnRecord p s))).step = s.step := settleOwnRecord_step p s
  rw [← begun_target]
  unfold begun
  rw [settleReport_step]
  generalize settleMakeUp p (settleCaps p (settleOwnRecord p s)) = a at h ⊢
  show ({ a.step with lowIdleTimer := _, lowIdleReached := _, target := _ } : Stepper) = _
  rw [h]
  rfl

/-- R48, R79: the laboring cap that the report of a target below the current row leaves. -/
theorem begun_laboringCap (p : Params) (s : State) :
    (begun p s).prot.laboringCap = if targetBelow (begun p s) then none else s.prot.laboringCap := by
  have h : (settleTarget (settleLowIdle p (settleMakeUp p (settleCaps p (settleOwnRecord p s))))).prot.laboringCap
      = s.prot.laboringCap := by
    show (settleOwnRecord p s).prot.laboringCap = _
    unfold settleOwnRecord requestMade
    dsimp only
    split_ifs
    · rfl
    · rw [requestFrame_eq]
    · rfl
  unfold begun
  generalize settleTarget (settleLowIdle p (settleMakeUp p (settleCaps p (settleOwnRecord p s)))) = a at h ⊢
  have hb : targetBelow (settleReport a) = targetBelow a := by
    unfold targetBelow
    rw [settleReport_step]
  rw [hb]
  unfold settleReport
  split
  · rfl
  · exact h

/-! ### A round of a RUNNING station -/

/-- After the steps a round moves of the stepper only the stagger hold and the LOAD-PERMIT command. -/
theorem settleRound_running (h : s.seq.engine = .running) :
    (settleRound p s).step = (settleLoadPermit p (settleStaggerHold p (settleSteps p 9 (begun p s)))).step
      ∧ (settleRound p s).prot.laboringCap = (settleSteps p 9 (begun p s)).prot.laboringCap
      ∧ (settleRound p s).seq.engine = .running := by
  have ha : settleArrival p s = s := settleArrival_of_not_stopping (by rw [h]; simp)
  have hq : Quiet p s := quiet_of_restful (by rw [h]; rfl)
  refine ⟨?_, ?_, (settleRound_still hq).engine.trans h⟩
  · rw [settleRound_step, ha]
    rfl
  · unfold settleRound
    dsimp only
    rw [ha]
    show (settleGrant p (settleWatch p (settleEligible p _))).prot.laboringCap = _
    rw [(((settleEligible_later p _).trans (settleWatch_later p _)).trans (settleGrant_later p _)).prot]
    show (settlePrelube p _).prot.laboringCap = _
    unfold settlePrelube
    split <;> rfl

/-- No step is taken where none is permitted. -/
theorem settleSteps_none (hcur : s.step.current = some r) (hup : stepUpHolds p s r = false)
    (hdown : stepDownHolds p s = false) : ∀ n, settleSteps p n s = s
  | 0 => rfl
  | n + 1 => by
    unfold settleSteps
    rw [hcur]
    dsimp only
    rw [hup, hdown, if_neg (by simp), if_neg (by simp)]

/-- A round in which no step is permitted. -/
theorem settleRound_unstepped (h : s.seq.engine = .running) (hcur : s.step.current = some r)
    (hup : stepUpHolds p (begun p s) r = false) (hdown : stepDownHolds p (begun p s) = false) :
    (settleRound p s).step = { (begun p s).step with
        staggerHold := (settleStaggerHold p (begun p s)).step.staggerHold
        loadPermit := (settleRound p s).step.loadPermit }
      ∧ (settleRound p s).prot.laboringCap = (begun p s).prot.laboringCap
      ∧ (settleRound p s).seq.engine = .running := by
  have hb : (begun p s).step.current = some r := by
    rw [begun_step]
    exact hcur
  obtain ⟨hstep, hcap, hrun⟩ := settleRound_running (p := p) h
  rw [settleSteps_none hb hup hdown] at hstep hcap
  refine ⟨?_, hcap, hrun⟩
  rw [hstep]
  rfl

/-! ### A dwell not yet spent -/

/-- No step is permitted with the dwell short of what its direction asks for. -/
theorem waits_of_dwell {us : Nat} (hdwell : s.step.dwell = some us)
    (hup : us < upDwell (tableInForce p s) r s.meas.tempClass * 1000 ∨ ∀ goal, s.step.target = some goal → goal.val ≤ r.val)
    (hdown : us < (tableInForce p s).downDwell * 1000) :
    stepUpReady p s r = false ∧ stepUpHolds p s r = false ∧ stepDownHolds p s = false := by
  have hready : stepUpReady p s r = false := by
    unfold stepUpReady
    rw [hdwell]
    rcases hup with hup | hup
    · rw [timerReached_short rfl hup, Bool.and_false]
    · cases hg : s.step.target with
      | none => rfl
      | some goal =>
        have := hup goal hg
        simp
        omega
  refine ⟨hready, ?_, ?_⟩
  · unfold stepUpHolds
    rw [hready]
    rfl
  · unfold stepDownHolds
    rw [hdwell, timerReached_short rfl hdown, Bool.and_false]

/-- R78: low idle stands reached, with its condition, for the rounds to come. -/
structure LowIdling (p : Params) (s : State) : Prop where
  reached : s.step.lowIdleReached = true
  holds : lowIdleHolds p s = true
  record : s.demand.ownRecord = ownRecordNow p s

/-- What the judgements of a round read of the engine and the demand stands. -/
theorem lowIdleHolds_congr (he : t.seq.engine = s.seq.engine) (hd : t.demand = s.demand) (hm : t.meas = s.meas) :
    lowIdleHolds p t = lowIdleHolds p s := by
  unfold Machine.lowIdleHolds isRunning demandInForce demandConflict
  rw [he, hd, hm]

theorem LowIdling.running (h : LowIdling p s) : s.seq.engine = .running := (lowIdleHolds_iff.mp h.holds).2.1

theorem begun_reached (h : s.demand.ownRecord = ownRecordNow p s) :
    (begun p s).step.lowIdleReached = (lowIdleHolds p s && s.step.lowIdleReached) := by
  unfold begun
  rw [settleReport_step, settleOwnRecord_current h]
  rfl

/-- Nothing after the steps' beginning writes whether low idle is reached. -/
theorem settleRound_reached (h : s.seq.engine = .running) :
    (settleRound p s).step.lowIdleReached = (begun p s).step.lowIdleReached := by
  rw [(settleRound_running h).1]
  exact (settleSteps_viewed p 9 (begun p s)).lowIdleReached

theorem LowIdling.settleRound (h : LowIdling p s) : LowIdling p (settleRound p s) := by
  have hk := settleRound_kept p s
  have hrec := settleRound_ownRecord p s
  have hdemand : (Machine.settleRound p s).demand = s.demand := by
    rw [hk.demand, hrec, ← h.record]
  refine ⟨?_, ?_, ?_⟩
  · rw [settleRound_reached h.running, begun_reached h.record, h.holds, h.reached]
    rfl
  · rw [lowIdleHolds_congr ((settleRound_running h.running).2.2.trans h.running.symm) hdemand hk.meas]
    exact h.holds
  · rw [hrec, hk.ownRecordNow]

theorem LowIdling.settle (h : LowIdling p s) : LowIdling p (settle p s) := h.settleRound.settleRound.settleRound

/-- R130: no extra is wanted below N1's demand. -/
theorem makeUpRun_row_idle (h : (demandInForce s).row = 1) : (makeUpRun p s).row = none := by
  have hx (b c d : Nat) : extraOf p 1 b c d = 0 := by
    unfold extraOf
    rw [if_neg (by simp)]
  unfold makeUpRun makeUpRowOf
  dsimp only
  rw [h, hx, if_pos rfl]

/-- R77: at low idle reached the target is LO. -/
theorem targetRow_lowIdle (hrow : (demandInForce s).row = 1) (hmake : s.makeUp.row = none)
    (hreached : s.step.lowIdleReached = true) : targetRow s = 0 := by
  have h := targetRow_val s
  rw [hrow, hmake, hreached] at h
  dsimp only at h
  apply Fin.ext
  rw [h]
  split_ifs <;> simp at * <;> omega

theorem LowIdling.target (h : LowIdling p s) : targetAfter p s = some 0 := by
  have hrow : (demandInForce s).row = 1 := (lowIdleHolds_iff.mp h.holds).2.2.1
  have hreached : (settleLowIdle p (settleMakeUp p (settleCaps p s))).step.lowIdleReached = true := by
    show (lowIdleHolds p s && s.step.lowIdleReached) = true
    rw [h.holds, h.reached]
    rfl
  have hzero : targetRow (settleLowIdle p (settleMakeUp p (settleCaps p s))) = 0 :=
    targetRow_lowIdle hrow (makeUpRun_row_idle (s := settleCaps p s) hrow) hreached
  unfold targetAfter
  rw [settleOwnRecord_current h.record]
  show (if isRunning s then some (targetRow (settleLowIdle p (settleMakeUp p (settleCaps p s)))) else none) = some 0
  rw [hzero, if_pos (isRunning_iff.mpr h.running)]

/-- R78, R77: at low idle reached the judgements leave the target LO. -/
theorem LowIdling.settled (h : LowIdling p s) :
    (Machine.settle p s).seq.engine = .running ∧ (Machine.settle p s).step.lowIdleReached = true
      ∧ (Machine.settle p s).step.target = some 0 := by
  have hlast := h.settle
  have h2 := h.settleRound.settleRound
  have htarget (w : State) (hw : LowIdling p w) : (Machine.settleRound p w).step.target = some 0 := by
    rw [(settleRound_running hw.running).1]
    exact ((settleSteps_viewed p 9 (begun p w)).target.trans (begun_target p w)).trans hw.target
  exact ⟨hlast.running, hlast.reached, htarget _ h2⟩

/-- What is judged of the stepper does not depend on how it stood. -/
theorem Judged.with_step {a b : Stepper} (h : Judged p { s with step := a } t) : Judged p { s with step := b } t where
  kept := { h.kept with }
  outputs := h.outputs
  still q := { h.still { q with } with }

/-- Settles O38: low idle reached, with its condition standing, makes the target LO in each round. -/
theorem lowIdleReachesLo : Obligations.LowIdleReachesLo := by
  intro p s us hp htimer
  refine ⟨fun hholds hrecord hdue => ?_, fun hshort => ?_⟩
  · have run : exec .lowIdleTimeExpiry s
        = .next (settle p { s with step := { s.step with lowIdleReached := true } }) := by
      refine (next_withParams hp _).trans ?_
      rw [if_pos (timerReached_secs htimer hdue)]
    have hlow : LowIdling p { s with step := { s.step with lowIdleReached := true } } := ⟨rfl, hholds, hrecord⟩
    have hj := settle_judged (s := { s with step := { s.step with lowIdleReached := true } }) hp
    obtain ⟨hengine, hreached, htarget⟩ := hlow.settled
    generalize settle p { s with step := { s.step with lowIdleReached := true } } = t at *
    exact ⟨t, run, hj.with_step, hengine, hreached, htarget⟩
  · refine (next_withParams hp _).trans ?_
    rw [if_neg (not_timerReached_secs htimer hshort)]

end Sys2Proof.Machine

/-! PROOFS. Steps taken and not taken (R75, R80 to R83), and the entry to RUNNING (R30). -/

namespace Sys2Proof.Machine

variable {s t u v w : State} {p : Params} {r : Row}

/-! ### A row just entered -/

/-- The row has just been entered, and no step is permitted before its dwell has run. -/
structure Waits (p : Params) (r : Row) (s : State) : Prop where
  running : s.seq.engine = .running
  current : s.step.current = some r
  dwell : s.step.dwell = some 0
  up : 0 < upDwell (tableInForce p s) r s.meas.tempClass ∨ r = 9 ∨ LowIdling p s
  down : 0 < (tableInForce p s).downDwell

theorem Waits.unstepped (h : Waits p r s) :
    stepUpReady p (begun p s) r = false ∧ stepUpHolds p (begun p s) r = false ∧ stepDownHolds p (begun p s) = false := by
  have hk := begun_kept p s
  have hdwell : (begun p s).step.dwell = some 0 := by
    rw [begun_step]
    exact h.dwell
  refine waits_of_dwell hdwell ?_ (by rw [hk.tableInForce]; exact Nat.mul_pos h.down (by decide))
  rw [hk.tableInForce, hk.meas, begun_target]
  rcases h.up with hup | hup | hup
  · exact .inl (Nat.mul_pos hup (by decide))
  · refine .inr fun goal _ => ?_
    rw [hup]
    show goal.val ≤ 9
    omega
  · refine .inr fun goal hg => ?_
    rw [hup.target] at hg
    cases hg
    exact Nat.zero_le _

theorem settleStaggerHold_waits (hcur : s.step.current = some r) (hready : stepUpReady p s r = false) :
    (settleStaggerHold p s).step.staggerHold = none := by
  unfold settleStaggerHold
  dsimp only
  rw [hcur]
  dsimp only
  rw [hready]
  rfl

theorem Waits.settleRound (h : Waits p r s) : Waits p r (settleRound p s)
    ∧ (settleRound p s).step.loadRow = s.step.loadRow ∧ (settleRound p s).step.staggerHold = none := by
  obtain ⟨hready, hup, hdown⟩ := h.unstepped
  have hk := settleRound_kept p s
  have hcur : (begun p s).step.current = some r := by
    rw [begun_step]
    exact h.current
  obtain ⟨hstep, -, hrun⟩ := settleRound_unstepped h.running h.current hup hdown
  rw [settleStaggerHold_waits hcur hready] at hstep
  refine ⟨⟨hrun, ?_, ?_, ?_, ?_⟩, ?_, ?_⟩
  · rw [hstep]
    exact hcur
  · rw [hstep, begun_step]
    exact h.dwell
  · rw [hk.tableInForce, hk.meas]
    exact h.up.imp_right fun hor => hor.imp_right LowIdling.settleRound
  · rw [hk.tableInForce]
    exact h.down
  · rw [hstep, begun_step]
  · rw [hstep]

theorem Waits.settle (h : Waits p r s) : Waits p r (settle p s)
    ∧ (settle p s).step.loadRow = s.step.loadRow ∧ (settle p s).step.staggerHold = none := by
  obtain ⟨h1, l1, -⟩ := h.settleRound
  obtain ⟨h2, l2, -⟩ := h1.settleRound
  obtain ⟨h3, l3, hhold⟩ := h2.settleRound
  exact ⟨h3, l3.trans (l2.trans l1), hhold⟩

theorem Apart.tableInForce (h : Apart s t) (p : Params) : tableInForce p t = tableInForce p s := by
  unfold Machine.tableInForce lineOn
  rw [h.demand]

/-! ### The entry to RUNNING (R30, R75) -/

theorem enterState_started (h : s.seq.engine ≠ .running) : (enterState .running s).step = (startStepper s).step := by
  have hkept (b e : EngineState) (v : State) : (changeLayover b e v).step = v.step := by
    rw [changeLayover_same]
  unfold enterState
  simp only [stateReached_running, hkept, h, false_and, if_false, ne_eq, not_false_eq_true, true_and, if_true]
  rfl

theorem confirmEngine_state (h : s.seq.engine = .starting .confirm) :
    (confirmEngine s).seq = { changeSequencer .running (endAttempt .running s).seq with attempts := 0 }
      ∧ (confirmEngine s).arb = s.arb ∧ (confirmEngine s).step.current = some 1
      ∧ (confirmEngine s).step.dwell = some 0 ∧ (confirmEngine s).step.loadRow = some 1 := by
  have hn : ({ endAttempt .running s with
      seq := { (endAttempt .running s).seq with attempts := 0 } } : State).seq.engine ≠ .running := by
    show s.seq.engine ≠ .running
    rw [h]
    simp
  unfold confirmEngine
  dsimp only
  rw [enterState_seq, enterState_arb, enterState_started hn, stateReached_running]
  exact ⟨rfl, rfl, rfl, rfl, rfl⟩

theorem confirmEngine_apart (s : State) : Apart s (confirmEngine s) := by
  unfold confirmEngine
  exact ((endAttempt_apart .running s).trans .of_blocks).trans (enterState_apart .running _)

/-- Settles O31: RUNNING is entered before the blocks judge, and they leave it at row ID. -/
theorem confirmTimeEntersRunning : Obligations.ConfirmTimeEntersRunning := by
  intro p s us hp hengine htimer
  refine ⟨fun hdue => ?_, fun hshort => ?_⟩
  · have run : exec .confirmTimeReached s = .next (settle p (confirmEngine s)) := by
      refine (next_withParams hp _).trans ?_
      rw [if_pos ⟨hengine, timerReached_secs htimer hdue⟩]
    obtain ⟨hseq, harb, hcurrent, hdwell, hload⟩ := confirmEngine_state hengine
    have hapart : Apart s (confirmEngine s) := confirmEngine_apart s
    have hrun : (confirmEngine s).seq.engine = .running := by rw [hseq]; rfl
    have hattempts : (confirmEngine s).seq.attempts = 0 := by rw [hseq]
    have hrecord : (confirmEngine s).seq.record = (endAttempt .running s).seq.record := by rw [hseq]; rfl
    have htimer : (confirmEngine s).seq.phaseTimer = none := by rw [hseq]; rfl
    generalize confirmEngine s = v at *
    have hq : Quiet p v := quiet_of_restful (by rw [hrun]; rfl)
    have hstill := settle_still hq
    have hk := settle_kept p v
    have hfollow := settle_follows (hapart.applied hp)
    have hrunning := hstill.engine.trans hrun
    refine ⟨_, run, hrunning, ?_, attemptClosed_of ?_ ?_, hstill.arb.trans harb, ?_, ?_, hapart.trans hk.apart, hfollow, fun hup hdown => ?_⟩
    · rw [hstill.seq]
      exact hattempts
    · rw [hk.meas, hapart.meas]
    · rw [hstill.seq]
      exact hrecord
    · rw [hstill.seq]
      exact htimer
    · rw [(settle_outputs p v).2.2.2.1]
      exact isRunning_iff.mpr hrunning
    · have hw : Waits p 1 v := ⟨hrun, hcurrent, hdwell, .inl ?_, ?_⟩
      · obtain ⟨hlast, hrow, -⟩ := hw.settle
        exact ⟨hlast.current, hlast.dwell, hrow.trans hload⟩
      · rw [hapart.tableInForce, hapart.meas]
        exact hup
      · rw [hapart.tableInForce]
        exact hdown
  · refine (next_withParams hp _).trans ?_
    rw [if_neg fun h => not_timerReached_secs htimer hshort h.2]

/-! ### One step (R81 to R83, R91) -/

/-- After a step the settling of the new row is judged; the row, its dwell and the hold stand, and a load-reference row
at the new row stays there. -/
theorem afterStep_step (p : Params) (s : State) :
    (afterStep p s).step.current = s.step.current ∧ (afterStep p s).step.dwell = s.step.dwell
      ∧ (afterStep p s).step.staggerHold = s.step.staggerHold
      ∧ (s.step.loadRow = s.step.current → (afterStep p s).step.loadRow = s.step.current)
      ∧ (afterStep p s).step.target = s.step.target := by
  unfold afterStep settleRow settleLubeTimer
  dsimp only
  split
  · exact ⟨rfl, rfl, rfl, id, rfl⟩
  · rename_i r hr
    split
    · exact ⟨rfl, rfl, rfl, fun _ => hr.symm, rfl⟩
    · exact ⟨rfl, rfl, rfl, id, rfl⟩

/-- A row just entered, at a target not above it: no more steps follow at this moment. -/
theorem settleSteps_entered (hcur : s.step.current = some r) (hdwell : s.step.dwell = some 0)
    (hup : 0 < upDwell (tableInForce p s) r s.meas.tempClass ∨ ∀ goal, s.step.target = some goal → goal.val ≤ r.val)
    (hdown : 0 < (tableInForce p s).downDwell) (n : Nat) : settleSteps p n s = s := by
  obtain ⟨-, hnoup, hnodown⟩ := waits_of_dwell hdwell (hup.imp_left fun h => Nat.mul_pos h (by decide))
    (Nat.mul_pos hdown (by decide))
  exact settleSteps_none hcur hnoup hnodown n

theorem stepDown_step (r : Row) (s : State) :
    (stepDown r s).step.current = some (rowDown r) ∧ (stepDown r s).step.dwell = some 0
      ∧ (stepDown r s).step.staggerHold = none ∧ (stepDown r s).step.loadRow = some (rowDown r)
      ∧ (stepDown r s).step.target = s.step.target := ⟨rfl, rfl, rfl, rfl, rfl⟩

theorem stepUp_step (r : Row) (s : State) :
    (stepUp r s).step.current = some (rowUp r) ∧ (stepUp r s).step.dwell = some 0
      ∧ (stepUp r s).step.staggerHold = none ∧ (stepUp r s).step.target = s.step.target := by
  unfold stepUp requestMade
  rw [requestFrame_eq]
  exact ⟨rfl, rfl, rfl, rfl⟩

theorem rowDown_val {r : Row} (h : 0 < r.val) : (rowDown r).val + 1 = r.val := by
  show (r.val - 1) % 10 + 1 = r.val
  omega

theorem rowUp_val {r : Row} (h : r.val < 9) : (rowUp r).val = r.val + 1 := by
  show min (r.val + 1) 9 % 10 = r.val + 1
  omega

/-- A round that takes one step down. -/
theorem settleRound_stepDown {goal : Row} (hrun : s.seq.engine = .running) (hcur : s.step.current = some r)
    (htarget : targetAfter p s = some goal) (hbelow : goal.val < r.val)
    (hdwell : timerReached s.step.dwell (tableInForce p s).downDwell = true)
    (hdown : 0 < (tableInForce p s).downDwell) :
    (settleRound p s).step.current = some (rowDown r) ∧ (settleRound p s).step.dwell = some 0
      ∧ (settleRound p s).step.loadRow = some (rowDown r) ∧ (settleRound p s).seq.engine = .running := by
  have hk := begun_kept p s
  have hb := begun_step p s
  have hbcur : (begun p s).step.current = some r := by rw [hb]; exact hcur
  have hbtarget : (begun p s).step.target = some goal := by rw [begun_target, htarget]
  have hbdwell : (begun p s).step.dwell = s.step.dwell := by rw [hb]
  obtain ⟨hstep, -, hengine⟩ := settleRound_running (p := p) hrun
  generalize begun p s = a at hk hbcur hbtarget hbdwell hstep
  have hnoup : stepUpHolds p a r = false := by
    unfold stepUpHolds stepUpReady
    rw [hbtarget]
    simp
    omega
  have hdownholds : stepDownHolds p a = true := by
    unfold stepDownHolds targetBelow
    rw [hbcur, hbtarget, hbdwell, hk.tableInForce, hdwell]
    simpa using hbelow
  have htaken : settleSteps p 9 a = afterStep p (stepDown r a) := by
    obtain ⟨hc, hd, -, -, ht⟩ := afterStep_step p (stepDown r a)
    have hka := (stepDown_kept r a).trans (afterStep_kept p _)
    show settleSteps p (8 + 1) a = _
    unfold settleSteps
    rw [hbcur]
    dsimp only
    rw [hnoup, hdownholds, if_neg (by simp), if_pos rfl]
    refine settleSteps_entered (r := rowDown r) hc hd (.inr fun g hg => ?_) (by rw [hka.tableInForce, hk.tableInForce]; exact hdown) 8
    rw [ht, (stepDown_step r a).2.2.2.2, hbtarget] at hg
    cases hg
    have := rowDown_val (r := r) (by omega)
    omega
  rw [htaken] at hstep
  obtain ⟨hc, hd, -, hl, -⟩ := afterStep_step p (stepDown r a)
  rw [hstep]
  exact ⟨hc, hd, hl rfl, hengine⟩

/-- Settles O36: one step down in the first round, and no other in the rounds that follow. -/
theorem stepDownIsTaken : Obligations.StepDownIsTaken := by
  intro p s r goal us hp hrun hcur htarget hbelow hdwell
  refine ⟨fun hafter hdue hup hdown => ?_, fun hshort => ?_⟩
  · have hreached : timerReached s.step.dwell (tableInForce p s).downDwell = true := timerReached_due hdwell hdue
    have hdue : dwellReached p s = true := by
      unfold dwellReached
      rw [hcur, htarget]
      dsimp only
      rw [if_neg (by omega), hreached]
      simpa using hbelow
    have run : exec .dwellTimeout s = .next (settle p s) := by
      refine (next_withParams hp _).trans ?_
      rw [if_pos hdue]
    obtain ⟨hc, hd, hl, hengine⟩ := settleRound_stepDown hrun hcur hafter hbelow hreached hdown
    have hk := settleRound_kept p s
    have hlow : s.step.lowIdleReached = true ∧ lowIdleHolds p s = true ∧ s.demand.ownRecord = ownRecordNow p s →
        LowIdling p (settleRound p s) := fun ⟨h1, h2, h3⟩ => (LowIdling.mk h1 h2 h3).settleRound
    have hw : Waits p (rowDown r) (settleRound p s) := ⟨hengine, hc, hd,
      by rw [hk.tableInForce, hk.meas]; exact hup.imp_right fun h => .inr (hlow h), by rw [hk.tableInForce]; exact hdown⟩
    obtain ⟨h1, l1, -⟩ := hw.settleRound
    obtain ⟨h2, l2, hhold⟩ := h1.settleRound
    have hj := settle_judged hp
    refine ⟨_, run, ?_, h2.current, rowDown_val (by omega), h2.dwell, l2.trans (l1.trans hl), hhold⟩
    exact Judged.with_step (a := s.step) hj
  · have hn : ¬dwellReached p s = true := by
      unfold dwellReached
      rw [hcur, htarget]
      dsimp only
      rw [if_neg (by omega), timerReached_short hdwell hshort]
      simp
    refine (next_withParams hp _).trans ?_
    rw [if_neg hn]

end Sys2Proof.Machine

/-! PROOFS. Steps up, and the stagger hold (R81, R83, R87 to R90). -/

namespace Sys2Proof.Machine

variable {s t u v w : State} {p : Params} {r : Row} {K L : List Nat}

/-! ### A frame asked for between the judgements -/

/-- A frame asked for after a few others at an open link outlasts those that follow, where none of them is of its kind
or cancels it. -/
theorem asked_between {c : Content} (hs : openLink s) (ha : Asks K s v) (hup : v.link.state = .up)
    (hq : u.link.queue = queueAfter (.made c) v) (hb : Asks K u t) (hK : contentKind c ∉ K)
    (hc : ∀ k ∈ K, cancelledKind k ≠ some (contentKind c)) (hl : K.length < 7) : asked c t := by
  have hv : kindsWithin K v.link.queue := by
    have h := ha.grows
    rw [hs.2] at h
    exact h.kinds
  rw [queueAfter, if_pos hup] at hq
  have hb := hb.grows
  rw [hq] at hb
  refine hb.keeps (g := .made c) (mem_enqueue_self ?_) ?_ hK hc hl
  · have := hv.length
    omega
  · exact kindsWithin_enqueue (hv.mono fun k hk => List.mem_cons_of_mem _ hk) List.mem_cons_self

/-- What a RUNNING station's round asks for once the steps have been taken. -/
theorem settleRound_asks_after (hrun : s.seq.engine = .running) :
    Asks [1, 3, 7, 8] (settleSteps p 9 (begun p s)) (settleRound p s) := by
  have ha : settleArrival p s = s := settleArrival_of_not_stopping (by rw [hrun]; simp)
  unfold settleRound
  dsimp only
  rw [ha]
  have hb : Asks [1, 3, 7, 8] (settleSteps p 9 (begun p s))
      (settleStepper p (settleMakeUp p (settleCaps p (settleOwnRecord p s)))) := .of_queue
  generalize settleStepper p (settleMakeUp p (settleCaps p (settleOwnRecord p s))) = b at hb ⊢
  have hc : Asks [1, 3, 7, 8] (settleSteps p 9 (begun p s)) (settleHotTimer (settleLubeTimer p (settleConfirm p (settlePrelube p b)))) :=
    hb.then (congrArg Link.queue (settlePrelube_link p b))
  exact (((hc.trans (settleEligible_asks (by decide) (by decide) p _)).trans (settleWatch_asks (by decide) p _)).trans
    (settleGrant_asks (by decide) p _)).then

theorem begun_asks (p : Params) (s : State) : Asks [5] s (begun p s) :=
  (settleOwnRecord_asks (by decide) p s).then (by
    unfold begun
    rw [settleReport_link]
    rfl)

/-- The kinds that a round asks for beside a step. -/
def stepless : List Nat := [1, 3, 5, 7, 8]

theorem Waits.asks (h : Waits p r s) : Asks stepless s (Machine.settleRound p s) := by
  obtain ⟨-, hup, hdown⟩ := h.unstepped
  have hcur : (begun p s).step.current = some r := by
    rw [begun_step]
    exact h.current
  have hafter := settleRound_asks_after (p := p) h.running
  rw [settleSteps_none hcur hup hdown] at hafter
  exact ((begun_asks p s).mono (by decide)).trans (hafter.mono (by decide))

/-! ### One step up -/

theorem stepUpHolds_of {goal : Row} (htarget : s.step.target = some goal) (habove : r.val < goal.val)
    (hsettled : s.step.settled = true) (hdwell : timerReached s.step.dwell (upDwell (tableInForce p s) r s.meas.tempClass) = true)
    (hstagger : staggerPassed p s = true)
    (hahead : peerAhead p s r = false ∨ timerReached s.step.staggerHold (3 * p.step.stagger) = true) :
    stepUpHolds p s r = true := by
  unfold stepUpHolds stepUpReady
  rw [htarget, hsettled, hdwell, hstagger]
  rcases hahead with h | h
  · simpa [h] using habove
  · simpa [h] using habove

theorem peerAhead_congr (h : t.roster = s.roster) : peerAhead p t r = peerAhead p s r := by
  unfold peerAhead
  rw [h]

/-- A step up in a round, with its STEP frame. -/
structure SteppedUp (p : Params) (r : Row) (s : State) : Prop where
  waits : Waits p (rowUp r) (settleRound p s)
  asked : openLink s → ∃ v u, Asks stepless s v ∧ v.link.state = .up
    ∧ u.link.queue = queueAfter (.made (.step (rowByte (some (rowUp r))))) v ∧ Asks stepless u (settleRound p s)

theorem settleRound_stepUp {goal : Row} (hrun : s.seq.engine = .running) (hcur : s.step.current = some r)
    (htarget : targetAfter p s = some goal) (habove : r.val < goal.val) (hsettled : s.step.settled = true)
    (hdwell : timerReached s.step.dwell (upDwell (tableInForce p s) r s.meas.tempClass) = true)
    (hstagger : staggerPassed p s = true)
    (hahead : peerAhead p s r = false ∨ timerReached s.step.staggerHold (3 * p.step.stagger) = true)
    (hnext : 0 < upDwell (tableInForce p s) (rowUp r) s.meas.tempClass ∨ rowUp r = 9)
    (hdown : 0 < (tableInForce p s).downDwell) : SteppedUp p r s := by
  have hk := begun_kept p s
  have hb := begun_step p s
  have hbtarget : (begun p s).step.target = some goal := by rw [begun_target, htarget]
  have hbasks := begun_asks p s
  have hrk := settleRound_kept p s
  have hafter := settleRound_asks_after (p := p) hrun
  obtain ⟨hstep, -, hengine⟩ := settleRound_running (p := p) hrun
  have hholds : stepUpHolds p (begun p s) r = true := by
    refine stepUpHolds_of hbtarget habove ?_ ?_ ?_ ?_
    · rw [hb]
      exact hsettled
    · rw [hk.tableInForce, hk.meas, hb]
      exact hdwell
    · unfold staggerPassed at hstagger ⊢
      rw [hb]
      exact hstagger
    · rw [peerAhead_congr hk.roster, hb]
      exact hahead
  have hbcur : (begun p s).step.current = some r := by rw [hb]; exact hcur
  generalize begun p s = a at hk hbtarget hbasks hafter hstep hholds hbcur
  have htaken : settleSteps p 9 a = afterStep p (stepUp r a) := by
    obtain ⟨hc, hd, -, -, ht⟩ := afterStep_step p (stepUp r a)
    obtain ⟨hc', hd', -, ht'⟩ := stepUp_step r a
    have hka := (stepUp_kept r a).trans (afterStep_kept p _)
    show settleSteps p (8 + 1) a = _
    unfold settleSteps
    rw [hbcur]
    dsimp only
    rw [hholds, if_pos rfl]
    refine settleSteps_entered (r := rowUp r) (hc.trans hc') (hd.trans hd') ?_ (by rw [hka.tableInForce, hk.tableInForce]; exact hdown) 8
    rw [hka.tableInForce, hk.tableInForce, hka.meas, hk.meas]
    refine hnext.imp_right fun h9 g _ => ?_
    rw [h9]
    show g.val ≤ 9
    omega
  rw [htaken] at hstep hafter
  obtain ⟨hc, hd, -⟩ := afterStep_step p (stepUp r a)
  obtain ⟨hc', hd', -⟩ := stepUp_step r a
  refine ⟨⟨hengine, ?_, ?_, ?_, ?_⟩, fun hs => ⟨a, afterStep p (stepUp r a), hbasks.mono (by decide), ?_, ?_, hafter.mono (by decide)⟩⟩
  · rw [hstep]
    exact hc.trans hc'
  · rw [hstep]
    exact hd.trans hd'
  · rw [hrk.tableInForce, hrk.meas]
    exact hnext.imp_right .inl
  · rw [hrk.tableInForce]
    exact hdown
  · rw [hk.link]
    exact hs.1
  · unfold afterStep
    rw [settleRow_link]
    show (stepUp r a).link.queue = _
    unfold stepUp requestMade
    rw [requestFrame_eq]
    rfl

/-! ### The target over the rounds (R43, R77) -/

/-- R43: the available row as the caps' conditions stand. -/
def availableNow (p : Params) (s : State) : Row :=
  availableOf (hotCapOf p s.prot.derate1 s.prot.derate2 s.prot.hotStop) (if lubeStaleHolds s then some 1 else none)
    (if groundHolds p s then some 1 else none) s.prot.laboringCap

/-- What the target is computed from, as a round has it. -/
def aimed (p : Params) (s : State) : State :=
  settleLowIdle p (settleMakeUp p (settleCaps p (settleOwnRecord p s)))

theorem targetAfter_eq (h : s.seq.engine = .running) : targetAfter p s = some (targetRow (aimed p s)) := by
  have hrun : isRunning (aimed p s) = true := by
    unfold isRunning aimed
    show (settleOwnRecord p s).seq.engine == _
    rw [settleOwnRecord_seq, h]
    rfl
  unfold targetAfter
  show (if isRunning (aimed p s) then some (targetRow (aimed p s)) else none) = _
  rw [hrun, if_pos rfl]

theorem settleOwnRecord_demand (p : Params) (s : State) :
    (settleOwnRecord p s).demand = { s.demand with ownRecord := ownRecordNow p s } := by
  rw [(settleOwnRecord_kept p s).demand, settleOwnRecord_ownRecord]

theorem settleOwnRecord_blocks (p : Params) (s : State) :
    (settleOwnRecord p s).prot = s.prot ∧ (settleOwnRecord p s).lines = s.lines := by
  unfold settleOwnRecord requestMade
  dsimp only
  split_ifs
  · exact ⟨rfl, rfl⟩
  · rw [requestFrame_eq]
    exact ⟨rfl, rfl⟩
  · exact ⟨rfl, rfl⟩

theorem aimed_available (p : Params) (s : State) : (aimed p s).prot.available = availableNow p s := by
  obtain ⟨hprot, hlines⟩ := settleOwnRecord_blocks p s
  have hk := settleOwnRecord_kept p s
  show availableOf _ (if lubeStaleHolds (settleOwnRecord p s) then _ else _)
    (if groundHolds p (settleOwnRecord p s) then _ else _) _ = _
  unfold availableNow lubeStaleHolds isRunning groundHolds
  rw [hprot, hk.lineOn, hlines, hk.meas, settleOwnRecord_seq]

/-- The own record as a round leaves it, the engine state, the available row and low idle reached give the target. -/
theorem targetRow_aimed_congr (hk : Kept s t) (he : t.seq.engine = s.seq.engine)
    (ha : availableNow p t = availableNow p s) (hr : (aimed p t).step.lowIdleReached = (aimed p s).step.lowIdleReached) :
    targetRow (aimed p t) = targetRow (aimed p s) := by
  have hdemand : (aimed p t).demand = (aimed p s).demand := by
    show (settleOwnRecord p t).demand = (settleOwnRecord p s).demand
    rw [settleOwnRecord_demand, settleOwnRecord_demand, hk.ownRecordNow, hk.demand]
  have hreader : (aimed p t).reader = (aimed p s).reader := by
    show (settleOwnRecord p t).reader = (settleOwnRecord p s).reader
    rw [(settleOwnRecord_kept p t).reader, (settleOwnRecord_kept p s).reader, hk.reader]
  have hroster : (aimed p t).roster = (aimed p s).roster := by
    show (settleOwnRecord p t).roster = (settleOwnRecord p s).roster
    rw [(settleOwnRecord_kept p t).roster, (settleOwnRecord_kept p s).roster, hk.roster]
  have hlink : (aimed p t).link.state = (aimed p s).link.state := by
    show (settleOwnRecord p t).link.state = (settleOwnRecord p s).link.state
    rw [(settleOwnRecord_kept p t).link, (settleOwnRecord_kept p s).link, hk.link]
  have hengine : (aimed p t).seq.engine = (aimed p s).seq.engine := by
    show (settleOwnRecord p t).seq.engine = (settleOwnRecord p s).seq.engine
    rw [settleOwnRecord_seq, settleOwnRecord_seq, he]
  have havail : (aimed p t).prot.available = (aimed p s).prot.available := by
    rw [aimed_available, aimed_available, ha]
  have hmake : (aimed p t).makeUp = (aimed p s).makeUp := by
    show makeUpRun p (aimed p t) = makeUpRun p (aimed p s)
    unfold makeUpRun ownFigures countedPeers isRunning isolated linkSilent tableInForce lineOn demandInForce demandConflict
    rw [hengine, hdemand, havail, hreader, hlink, hroster]
  unfold targetRow computedTarget wantedRow isolated linkSilent lineOn demandInForce demandConflict
  rw [hdemand, havail, hreader, hlink, hmake, hr]

theorem begun_aimed (p : Params) (s : State) : (begun p s).step.lowIdleReached = (aimed p s).step.lowIdleReached := by
  unfold begun
  rw [settleReport_step]
  rfl

theorem aimed_reached (p : Params) (s : State) : (aimed p s).step.lowIdleReached
    = (lowIdleHolds p (settleOwnRecord p s) && s.step.lowIdleReached) := by
  show (lowIdleHolds p (settleOwnRecord p s) && (settleOwnRecord p s).step.lowIdleReached) = _
  rw [settleOwnRecord_step]

theorem lowIdleHolds_settleOwnRecord (hk : Kept s t) (he : t.seq.engine = s.seq.engine) :
    lowIdleHolds p (settleOwnRecord p t) = lowIdleHolds p (settleOwnRecord p s) := by
  refine lowIdleHolds_congr ?_ ?_ ?_
  · rw [settleOwnRecord_seq, settleOwnRecord_seq, he]
  · rw [settleOwnRecord_demand, settleOwnRecord_demand, hk.ownRecordNow, hk.demand]
  · rw [(settleOwnRecord_kept p _).meas, (settleOwnRecord_kept p s).meas, hk.meas]

/-- Whether low idle stays reached is judged alike in every round. -/
theorem aimed_reached_settleRound (h : s.seq.engine = .running) :
    (aimed p (settleRound p s)).step.lowIdleReached = (aimed p s).step.lowIdleReached := by
  have hk := settleRound_kept p s
  rw [aimed_reached, lowIdleHolds_settleOwnRecord hk ((settleRound_running h).2.2.trans h.symm), settleRound_reached h,
    begun_aimed, aimed_reached]
  cases lowIdleHolds p (settleOwnRecord p s) <;> rfl

/-- A round that leaves the available row leaves the target. -/
theorem targetAfter_settleRound (h : s.seq.engine = .running)
    (ha : availableNow p (settleRound p s) = availableNow p s) : targetAfter p (settleRound p s) = targetAfter p s := by
  have hrun := (settleRound_running (p := p) h).2.2
  rw [targetAfter_eq hrun, targetAfter_eq h,
    targetRow_aimed_congr (settleRound_kept p s) (hrun.trans h.symm) ha (aimed_reached_settleRound h)]

/-- R150: judging a line never raises a present fault. -/
theorem judgeLine_present (c sense : Bool) (l : OutputLine) :
    (judgeLine c sense l).present = l.present ∨ (judgeLine c sense l).present = .none := by
  unfold judgeLine
  split_ifs
  · exact .inr rfl
  · exact .inr rfl
  · exact .inl rfl

theorem settleSteps_lines (p : Params) : ∀ (n : Nat) (s : State), (settleSteps p n s).lines = s.lines
  | 0, _ => rfl
  | n + 1, s => by
    have row (v : State) : (settleRow p v).lines = v.lines := by
      unfold settleRow
      split
      · rfl
      · split <;> rfl
    unfold settleSteps
    split
    · rfl
    · rename_i r _
      split
      · rw [settleSteps_lines p n, afterStep, row]
        exact requestFrame_lines _ _
      · split
        · rw [settleSteps_lines p n, afterStep, row]
          rfl
        · rfl

theorem startRequest_lines (p : Params) (l : Level) (s : State) : (startRequest p l s).lines = s.lines := by
  by_cases h : acceptsStart p s
  · rw [startRequest_accepted h, (enterPrep_blocks _).1]
    rfl
  · rw [startRequest_not h]

theorem settleWatch_lines (p : Params) (s : State) : (settleWatch p s).lines = s.lines := by
  unfold settleWatch
  split
  · rfl
  · dsimp only
    split
    · rfl
    · split
      · exact startRequest_lines _ _ _
      · rfl

theorem settleGrant_lines (p : Params) (s : State) : (settleGrant p s).lines = s.lines := by
  unfold settleGrant
  split
  · exact (enterCrank_blocks s).1
  · rfl

/-- The outputs are judged at the end of a round, on the lines that the arrival at rest left. -/
theorem settleRound_lines (p : Params) (s : State) :
    ∃ v, settleRound p s = settleLamps (settleOutputs p v) ∧ v.lines = (settleArrival p s).lines := by
  refine ⟨_, rfl, ?_⟩
  rw [settleGrant_lines, settleWatch_lines, (settleEligible_only p _).same.2.2.2]
  have hb : (settleStepper p (settleMakeUp p (settleCaps p (settleOwnRecord p (settleArrival p s))))).lines
      = (settleArrival p s).lines := by
    have hreport (v : State) : (settleReport v).lines = v.lines := by
      unfold settleReport
      split <;> rfl
    show (settleSteps p 9 _).lines = _
    rw [settleSteps_lines, hreport]
    exact (settleOwnRecord_blocks p _).2
  generalize settleStepper p (settleMakeUp p (settleCaps p (settleOwnRecord p (settleArrival p s)))) = b at hb ⊢
  show (settlePrelube p b).lines = _
  rw [← hb]
  unfold settlePrelube
  split <;> rfl

theorem settleRound_present (h : s.seq.engine = .running) (out : Output) :
    (outputOf (settleRound p s).lines out).present = (outputOf s.lines out).present
      ∨ (outputOf (settleRound p s).lines out).present = .none := by
  obtain ⟨v, hv, hlines⟩ := settleRound_lines p s
  rw [settleArrival_of_not_stopping (by rw [h]; simp)] at hlines
  have hline : outputOf (settleLamps (settleOutputs p v)).lines out
      = judgeLine (resolvedCommand v out) (sensedOn v out) (outputOf v.lines out) := by cases out <;> rfl
  rw [hv, hline, ← hlines]
  exact judgeLine_present _ _ _

/-- R47: a round may end the ground cap's condition, never begin it. -/
theorem groundHolds_settleRound (h : s.seq.engine = .running) (hg : groundHolds p (settleRound p s) = true) :
    groundHolds p s = true := by
  unfold groundHolds at hg ⊢
  rw [(settleRound_kept p s).lineOn] at hg
  rw [Bool.or_eq_true] at hg ⊢
  refine hg.imp_right fun hp => ?_
  rcases settleRound_present (p := p) h .loadPermit with hk | hk
  · rwa [show s.lines.loadPermit.present = _ from hk.symm]
  · rw [show (settleRound p s).lines.loadPermit.present = _ from hk] at hp
    cases hp

/-- The available row after a round in which the laboring cap stood and the ground cap's condition too. -/
theorem availableNow_settleRound (h : s.seq.engine = .running)
    (hl : (settleRound p s).prot.laboringCap = s.prot.laboringCap)
    (hg : groundHolds p (settleRound p s) = groundHolds p s) : availableNow p (settleRound p s) = availableNow p s := by
  have hk := settleRound_kept p s
  have hs : lubeStaleHolds (settleRound p s) = lubeStaleHolds s := by
    unfold lubeStaleHolds isRunning
    rw [(settleRound_running h).2.2, h, hk.meas]
  unfold availableNow
  rw [hs, hg, hl, hk.derate1, hk.derate2, hk.hotStop]

/-! ### The stagger hold (R88, R89) -/

/-- Only a peer ahead holds a step up back, and the hold has not run out. -/
structure HoldsBack (p : Params) (r goal : Row) (s : State) : Prop where
  running : s.seq.engine = .running
  current : s.step.current = some r
  target : targetAfter p s = some goal
  above : r.val < goal.val
  settled : s.step.settled = true
  dwell : timerReached s.step.dwell (upDwell (tableInForce p s) r s.meas.tempClass) = true
  stagger : staggerPassed p s = true
  ahead : peerAhead p s r = true
  hold : s.step.staggerHold.getD 0 = 0
  present : (outputOf s.lines .loadPermit).present ≠ .sensedOn
  interval : 0 < p.step.stagger

theorem HoldsBack.settleRound {goal : Row} (h : HoldsBack p r goal s) :
    HoldsBack p r goal (settleRound p s) ∧ (settleRound p s).step.staggerHold = some 0 := by
  have hk := begun_kept p s
  have hrk := settleRound_kept p s
  have hb := begun_step p s
  have hbcur : (begun p s).step.current = some r := by rw [hb]; exact h.current
  have hbtarget : (begun p s).step.target = some goal := by rw [begun_target, h.target]
  have hready : stepUpReady p (begun p s) r = true := by
    unfold stepUpReady
    rw [hbtarget, hk.tableInForce, hk.meas, hb]
    simpa [h.settled, h.dwell] using h.above
  have hpassed : staggerPassed p (begun p s) = true := by
    have := h.stagger
    unfold staggerPassed at this ⊢
    rw [hb]
    exact this
  have hpeer : peerAhead p (begun p s) r = true := (peerAhead_congr hk.roster).trans h.ahead
  have hhold : (begun p s).step.staggerHold = s.step.staggerHold := by rw [hb]
  have hunspent : timerReached s.step.staggerHold (3 * p.step.stagger) = false := by
    have h0 := h.hold
    have h1 := h.interval
    cases hs : s.step.staggerHold with
    | none => rfl
    | some us =>
      rw [hs] at h0
      refine timerReached_short rfl ?_
      rw [Option.getD_some] at h0
      omega
  have hup : stepUpHolds p (begun p s) r = false := by
    unfold stepUpHolds
    rw [hready, hpassed, hpeer, hhold, hunspent]
    rfl
  have hbelow : targetBelow (begun p s) = false := by
    unfold targetBelow
    rw [hbcur, hbtarget]
    have := h.above
    simp
    omega
  have hdown : stepDownHolds p (begun p s) = false := by
    unfold stepDownHolds
    rw [hbelow]
    rfl
  obtain ⟨hstep, hcap, hrun⟩ := settleRound_unstepped h.running h.current hup hdown
  rw [begun_laboringCap, hbelow, if_neg (by simp)] at hcap
  have hbegun : (settleStaggerHold p (begun p s)).step.staggerHold = some 0 := by
    show timerWhile (match (begun p s).step.current with
      | none => false
      | some r => stepUpReady p (begun p s) r && staggerPassed p (begun p s) && peerAhead p (begun p s) r)
        (begun p s).step.staggerHold = some 0
    rw [hbcur, hhold]
    dsimp only
    rw [hready, hpassed, hpeer]
    exact congrArg some h.hold
  rw [hbegun, hb] at hstep
  have hpresent : (outputOf (Machine.settleRound p s).lines .loadPermit).present ≠ .sensedOn := by
    rcases settleRound_present (p := p) h.running .loadPermit with hp | hp
    · rw [hp]
      exact h.present
    · rw [hp]
      simp
  have hground : groundHolds p (Machine.settleRound p s) = groundHolds p s := by
    have h1 : ((Machine.settleRound p s).lines.loadPermit.present == .sensedOn) = false := by simpa [outputOf] using hpresent
    have h2 : (s.lines.loadPermit.present == .sensedOn) = false := by simpa [outputOf] using h.present
    unfold groundHolds
    rw [hrk.lineOn, h1, h2]
  refine ⟨⟨hrun, ?_, ?_, h.above, ?_, ?_, ?_, ?_, ?_, hpresent, h.interval⟩, ?_⟩
  · rw [hstep]
    exact h.current
  · rw [targetAfter_settleRound h.running (availableNow_settleRound h.running hcap hground)]
    exact h.target
  · rw [hstep]
    exact h.settled
  · rw [hrk.tableInForce, hrk.meas, hstep]
    exact h.dwell
  · have := h.stagger
    unfold staggerPassed at this ⊢
    rw [hstep]
    exact this
  · exact (peerAhead_congr hrk.roster).trans h.ahead
  · rw [hstep]
    rfl
  · rw [hstep]

theorem heldBack_iff (hv : Kept s v) (hw : Kept s w) (hc : v.step.current = w.step.current)
    (ht : v.step.target = w.step.target) (hs : v.step.settled = w.step.settled) (hd : v.step.dwell = w.step.dwell)
    (hg : v.step.stagger = w.step.stagger) : heldBack p v ↔ heldBack p w := by
  unfold heldBack
  rw [hc, ht, hs, hd, hg, hv.tableInForce, hw.tableInForce, hv.meas, hw.meas, hv.roster, hw.roster]

/-- The stepper of a round is that of a state in which the steps have been taken, its hold judged. -/
theorem settleRound_hold (p : Params) (s : State) :
    ∃ a, Kept s a ∧ (settleRound p s).step = (settleLoadPermit p (settleStaggerHold p a)).step := by
  refine ⟨_, ?_, settleRound_step p s⟩
  have hb := (((settleArrival_kept p s).trans (settleOwnRecord_kept p _)).trans (settleCaps_kept p _)).trans (settleMakeUp_kept p _)
  exact (((hb.trans (settleLowIdle_kept p _)).trans (settleTarget_kept _)).trans (settleReport_kept _)).trans
    (settleSteps_kept p 9 _)

/-- R89: after a round the hold runs exactly while only a peer ahead holds the step up back. -/
theorem settleRound_heldBack (p : Params) (s : State) :
    (settleRound p s).step.staggerHold.isSome = true ↔ heldBack p (settleRound p s) := by
  obtain ⟨a, ha, hstep⟩ := settleRound_hold p s
  rw [heldBack_iff (settleRound_kept p s) ha (by rw [hstep]; rfl) (by rw [hstep]; rfl) (by rw [hstep]; rfl)
    (by rw [hstep]; rfl) (by rw [hstep]; rfl), hstep]
  exact settleStaggerHold_iff p a

theorem settle_heldBack (p : Params) (s : State) :
    (settle p s).step.staggerHold.isSome = true ↔ heldBack p (settle p s) := settleRound_heldBack p _

theorem exec_frameCommand (src : UnitNo) (c : Content) (s : State) :
    exec (frameCommand src c) s = .next (receiveContent src c s) := by
  cases c <;> rfl

theorem staggerPassed_iff : staggerPassed p s = true
    ↔ s.step.stagger = none ∨ ∃ us, s.step.stagger = some us ∧ p.step.stagger * 1000 ≤ us := by
  unfold staggerPassed
  cases s.step.stagger <;> simp [timerReached_iff]

/-- The expiry of the dwell or of the stagger interval judges the steps. -/
theorem exec_stepJudged {goal : Row} {cmd : Instr} (hp : s.reader.applied = some p) (hcur : s.step.current = some r)
    (htarget : s.step.target = some goal) (habove : r.val < goal.val)
    (hdwell : timerReached s.step.dwell (upDwell (tableInForce p s) r s.meas.tempClass) = true)
    (hstagger : staggerPassed p s = true)
    (hcmd : cmd = .dwellTimeout ∨ cmd = .staggerIntervalExpiry ∧ s.step.stagger ≠ none) :
    exec cmd s = .next (settle p s) := by
  rcases hcmd with rfl | ⟨rfl, hs⟩
  · have hreached : dwellReached p s = true := by
      unfold dwellReached
      rw [hcur, htarget]
      dsimp only
      rw [if_pos habove]
      exact hdwell
    refine (next_withParams hp _).trans ?_
    rw [if_pos hreached]
  · have hreached : timerReached s.step.stagger p.step.stagger = true := by
      rw [staggerPassed_iff] at hstagger
      exact timerReached_iff.mpr (hstagger.resolve_left hs)
    refine (next_withParams hp _).trans ?_
    rw [if_pos hreached]

/-- Settles O35: a permitted step up in the first round, the hold of a step held back, and the hold's condition. -/
theorem stepUpIsTaken : Obligations.StepUpIsTaken := by
  refine ⟨?_, ?_, ?_⟩
  · intro p s cmd r goal us hp hrun hcur htarget hafter habove hsettled hdwell hdue hstagger hahead hcmd hnext hdown
    have hreached : timerReached s.step.dwell (upDwell (tableInForce p s) r s.meas.tempClass) = true := timerReached_due hdwell hdue
    have hpassed : staggerPassed p s = true := staggerPassed_iff.mpr hstagger
    have hfree : peerAhead p s r = false ∨ timerReached s.step.staggerHold (3 * p.step.stagger) = true :=
      hahead.imp_right fun ⟨a, ha, hle⟩ => timerReached_due ha hle
    have run : exec cmd s = .next (settle p s) := by
      rcases hcmd with h | h | ⟨rfl, hpeer⟩
      · exact exec_stepJudged hp hcur htarget habove hreached hpassed (.inl h)
      · exact exec_stepJudged hp hcur htarget habove hreached hpassed (.inr h)
      · refine (next_withParams hp _).trans ?_
        rw [if_pos (hfree.resolve_left (by rw [hpeer]; simp))]
    obtain ⟨hw, hasked⟩ := settleRound_stepUp hrun hcur hafter habove hsettled hreached hpassed hfree hnext hdown
    obtain ⟨h1, -, -⟩ := hw.settleRound
    obtain ⟨h2, -, hhold⟩ := h1.settleRound
    have hj : Judged p { s with step := s.step } (settle p s) := settle_judged hp
    refine ⟨_, run, hj.with_step, h2.current, rowUp_val (by omega), h2.dwell, hhold, fun hs => ?_⟩
    obtain ⟨v, u, ha, hup, hq, hb⟩ := hasked hs
    exact asked_between hs ha hup hq ((hb.trans hw.asks).trans h1.asks) (show 6 ∉ stepless by decide)
      (show ∀ k ∈ stepless, cancelledKind k ≠ some 6 by decide) (by decide)
  · intro p s cmd r goal us hp hrun hcur htarget hafter habove hsettled hdwell hdue hstagger hpeer hhold hinterval hpresent hcmd
    have hreached : timerReached s.step.dwell (upDwell (tableInForce p s) r s.meas.tempClass) = true := timerReached_due hdwell hdue
    have hpassed : staggerPassed p s = true := staggerPassed_iff.mpr hstagger
    have h : HoldsBack p r goal s := ⟨hrun, hcur, hafter, habove, hsettled, hreached, hpassed, hpeer, by rw [hhold]; rfl,
      hpresent, hinterval⟩
    obtain ⟨h3, hlast⟩ := h.settleRound.1.settleRound.1.settleRound
    exact ⟨_, exec_stepJudged hp hcur htarget habove hreached hpassed hcmd, h3.current, hlast⟩
  · intro p s cmd hp hcmd
    rcases hcmd with ⟨rfl, hreached⟩ | ⟨rfl, a, ha, hdue⟩ | ⟨src, c, rfl, hheard, hvalid⟩
    · refine ⟨settle p s, (next_withParams hp _).trans ?_, settle_heldBack p s⟩
      rw [if_pos hreached]
    · refine ⟨settle p s, (next_withParams hp _).trans ?_, settle_heldBack p s⟩
      rw [if_pos (timerReached_due ha hdue)]
    · refine ⟨_, ?_, settle_heldBack p (takeValid p src c (frameEnded s))⟩
      rw [exec_frameCommand, receiveContent_heard hheard hvalid]

end Sys2Proof.Machine

/-! PROOFS. Laboring (R48, R85), and the layover unit's intent (R135 to R139). -/

namespace Sys2Proof.Machine

variable {s t u v w : State} {p : Params} {r : Row}

/-! ### Laboring -/

theorem availableOf_val (hot stale gnd labor : Option Row) : (availableOf hot stale gnd labor).val
    = min (capRow hot).val (min (capRow stale).val (min (capRow gnd).val (capRow labor).val)) := by
  unfold availableOf
  rw [rowMin_val, rowMin_val, rowMin_val]

theorem settleRound_available (h : s.seq.engine = .running) : (settleRound p s).prot.available = availableNow p s := by
  rw [(settleRound_caps p s).available, settleArrival_of_not_stopping (by rw [h]; simp)]
  exact aimed_available p s

/-- R77: the target is no higher than the available row. -/
theorem targetRow_available (s : State) : (targetRow s).val ≤ s.prot.available.val := by
  rw [targetRow_val]
  dsimp only
  split_ifs <;> omega

/-- A RUNNING station at its laboring cap, with nothing below it to come to. -/
structure Labors (p : Params) (r : Row) (s : State) : Prop where
  running : s.seq.engine = .running
  current : s.step.current = some r
  settled : s.step.settled = false
  timer : s.step.settleTimer = none
  cap : s.prot.laboringCap = some r
  target : targetAfter p s = some r

theorem Labors.available (h : Labors p r s) : availableNow p s = r := by
  have htarget := h.target
  rw [targetAfter_eq h.running] at htarget
  have hle := targetRow_available (aimed p s)
  rw [Option.some.inj htarget, aimed_available] at hle
  have hcap : (availableNow p s).val ≤ r.val := by
    unfold availableNow
    rw [availableOf_val, h.cap]
    show min _ (min _ (min _ r.val)) ≤ r.val
    omega
  exact Fin.ext (by omega)

theorem Labors.settleRound (h : Labors p r s) : Labors p r (settleRound p s) := by
  have hb := begun_step p s
  have hbcur : (begun p s).step.current = some r := by rw [hb]; exact h.current
  have hbtarget : (begun p s).step.target = some r := by rw [begun_target, h.target]
  have hbelow : targetBelow (begun p s) = false := by
    unfold targetBelow
    rw [hbcur, hbtarget]
    simp
  have hup : stepUpHolds p (begun p s) r = false := by
    unfold stepUpHolds stepUpReady
    rw [hbtarget]
    simp
  have hdown : stepDownHolds p (begun p s) = false := by
    unfold stepDownHolds
    rw [hbelow]
    rfl
  obtain ⟨hstep, hcap, hrun⟩ := settleRound_unstepped h.running h.current hup hdown
  rw [begun_laboringCap, hbelow, if_neg (by simp), h.cap] at hcap
  rw [hb] at hstep
  have havail : availableNow p (Machine.settleRound p s) = availableNow p s := by
    have hk := settleRound_kept p s
    have hstale : lubeStaleHolds (Machine.settleRound p s) = lubeStaleHolds s := by
      unfold lubeStaleHolds isRunning
      rw [hrun, h.running, hk.meas]
    have hs := congrArg Fin.val h.available
    refine h.available ▸ Fin.ext ?_
    unfold availableNow at hs ⊢
    rw [availableOf_val, h.cap] at hs
    rw [availableOf_val, hstale, hcap, hk.derate1, hk.derate2, hk.hotStop]
    have hg := groundHolds_settleRound (p := p) h.running
    revert hs
    cases hgt : groundHolds p (Machine.settleRound p s) with
    | true =>
      rw [hg hgt]
      exact id
    | false =>
      show _ → min _ (min _ (min 9 r.val)) = r.val
      cases groundHolds p s
      · exact id
      · show min _ (min _ (min 1 r.val)) = r.val → _
        omega
  refine ⟨hrun, ?_, ?_, ?_, hcap, ?_⟩
  · rw [hstep]
    exact h.current
  · rw [hstep]
    exact h.settled
  · rw [hstep]
    exact h.timer
  · rw [targetAfter_settleRound h.running havail]
    exact h.target

theorem Labors.settle (h : Labors p r s) : Labors p r (settle p s) ∧ (settle p s).prot.available = r := by
  have h2 := h.settleRound.settleRound
  have havail := settleRound_available (p := p) h2.running
  rw [h2.available] at havail
  exact ⟨h2.settleRound, havail⟩

/-- R48, R85: the report of an unsettled row at the settle limit. -/
def laboringAt (s : State) : State :=
  { s with step := { s.step with settleTimer := none }, prot := { s.prot with laboringCap := laboringCapAfter s } }

theorem laboringCapAfter_eq {goal : Row} (hcur : s.step.current = some r) (htarget : s.step.target = some goal) :
    laboringCapAfter s = if 1 ≤ r.val ∧ r.val ≤ goal.val then some r else s.prot.laboringCap := by
  unfold laboringCapAfter
  rw [hcur, htarget]

/-- The settle timer does not enter into the target. -/
theorem targetAfter_laboringAt (hrun : s.seq.engine = .running) (hcap : laboringCapAfter s = some r) :
    targetAfter p (laboringAt s) = targetAfter p { s with prot := { s.prot with laboringCap := some r } } := by
  have hk : Kept { s with prot := { s.prot with laboringCap := some r } } (laboringAt s) := { Kept.refl s with }
  have hl : (laboringAt s).prot.laboringCap = some r := hcap
  have ha : availableNow p (laboringAt s) = availableNow p { s with prot := { s.prot with laboringCap := some r } } := by
    unfold availableNow
    rw [hl]
    rfl
  rw [targetAfter_eq (s := laboringAt s) hrun, targetAfter_eq (by exact hrun), targetRow_aimed_congr hk rfl ha]
  rw [aimed_reached, aimed_reached, lowIdleHolds_settleOwnRecord hk rfl]
  rfl

/-- Settles O37: the laboring cap is the row itself, and the rounds leave row, cap and target there. -/
theorem settleLimitReportsLaboring : Obligations.SettleLimitReportsLaboring := by
  intro p s r goal us hp hrun hcur htarget hsettled htimer
  have hcap := laboringCapAfter_eq hcur htarget
  refine ⟨fun hdue => ?_, fun hshort => ?_⟩
  · have run : exec .settleLimitExpiry s = .next (settle p (laboringAt s)) := by
      refine (next_withParams hp _).trans ?_
      rw [if_pos ⟨by rw [hsettled]; rfl, timerReached_secs htimer hdue⟩]
      rfl
    refine ⟨_, run, ?_, fun h1 hle hband hafter => ?_⟩
    · rw [← hcap]
      exact settle_judged (s := laboringAt s) hp
    · rw [if_pos ⟨h1, hle⟩] at hcap
      have h : Labors p r (laboringAt s) :=
        ⟨hrun, hcur, hsettled, rfl, hcap, (targetAfter_laboringAt hrun hcap).trans hafter⟩
      obtain ⟨h3, havail⟩ := h.settle
      generalize settle p (laboringAt s) = t at *
      exact ⟨h3.cap, congrArg Option.isSome h3.cap, havail.le, h3.current, h3.settled, h3.timer⟩
  · refine (next_withParams hp _).trans ?_
    rw [if_neg fun h => not_timerReached_secs htimer hshort h.2]

end Sys2Proof.Machine

/-! PROOFS. The layover unit's intent: its announcement (R135, R137), its commit and its cancel (R138, R139). -/

namespace Sys2Proof.Machine

variable {s t u v w : State} {p : Params} {r : Row}

/-! ### The layover unit in a round of a quiet station -/

/-- In a quiet state the restart watch takes its level and asks for no start. -/
theorem settleWatch_quiet (q : Quiet p s) : ∃ level, settleWatch p s = { s with layover := { s.layover with watch := level } } := by
  unfold settleWatch
  split
  · exact ⟨s.layover.watch, rfl⟩
  · rename_i old hold
    have refused (l : Level) (v : State) (hv : v.seq = s.seq) : startRequest p l v = v :=
      startRequest_refused (by
        rw [hv]
        intro h
        rw [q.unwatched h] at hold
        cases hold)
    dsimp only
    split
    · exact ⟨_, rfl⟩
    · split
      · rw [refused]
        · exact ⟨_, rfl⟩
        · rfl
      · exact ⟨_, rfl⟩

/-- In a round of a quiet state the layover unit is that of the judgement of eligibility, beside the restart watch. -/
theorem settleRound_layover_quiet (q : Quiet p s) : ∃ c level, Still s c ∧ Kept s c ∧ c.layover = s.layover
    ∧ c.step = (settleRound p s).step ∧ c.demand = (settleRound p s).demand
    ∧ (settleRound p s).layover = { (settleEligible p c).layover with watch := level }
    ∧ (settleRound p s).link = (settleEligible p c).link
    ∧ c.link = (settleStepper p (settleMakeUp p (settleCaps p (settleOwnRecord p s)))).link := by
  have ha : settleArrival p s = s := settleArrival_quiet q
  have hs : Still s (settleStepper p (settleMakeUp p (settleCaps p (settleOwnRecord p s)))) :=
    ((settleOwnRecord_still p s).trans (settleMakeUpCaps_still p _)).trans (settleStepper_still p _)
  have hk : Kept s (settleStepper p (settleMakeUp p (settleCaps p (settleOwnRecord p s)))) :=
    (((settleOwnRecord_kept p s).trans (settleCaps_kept p _)).trans (settleMakeUp_kept p _)).trans (settleStepper_kept p _)
  have hl : (settleStepper p (settleMakeUp p (settleCaps p (settleOwnRecord p s)))).layover = s.layover :=
    (settleStepper_layover p _).trans (settleOwnRecord_layover p s)
  have hstep := settleRound_step p s
  rw [ha] at hstep
  have hround : settleRound p s = settleLamps (settleOutputs p (settleGrant p (settleWatch p (settleEligible p
      (settleHotTimer (settleLubeTimer p (settleConfirm p (settlePrelube p
        (settleStepper p (settleMakeUp p (settleCaps p (settleOwnRecord p s))))))))))))
      := by
    unfold settleRound
    dsimp only
    rw [ha]
  rw [hround] at hstep ⊢
  generalize settleStepper p (settleMakeUp p (settleCaps p (settleOwnRecord p s))) = b at *
  have hc : Still s (settleHotTimer (settleLubeTimer p (settleConfirm p (settlePrelube p b)))) :=
    (hs.trans (settlePrelube_still p b)).trans (settleTimers_still p _)
  have hck : Kept s (settleHotTimer (settleLubeTimer p (settleConfirm p (settlePrelube p b)))) :=
    hk.trans (settleTimers_kept p b)
  have hcl : (settleHotTimer (settleLubeTimer p (settleConfirm p (settlePrelube p b)))).layover = s.layover :=
    (settlePrelube_layover p b).trans hl
  have hclink : (settleHotTimer (settleLubeTimer p (settleConfirm p (settlePrelube p b)))).link = b.link :=
    settlePrelube_link p b
  have hcstep : (settleHotTimer (settleLubeTimer p (settleConfirm p (settlePrelube p b)))).step = b.step :=
    (settlePrelube_held p b).step
  generalize settleHotTimer (settleLubeTimer p (settleConfirm p (settlePrelube p b))) = c at *
  have hd := hc.trans (settleEligible_still p c)
  obtain ⟨level, hw⟩ := settleWatch_quiet (hd.quiet q)
  have hwq : Quiet p (settleWatch p (settleEligible p c)) := (hd.trans (settleWatch_still (hd.quiet q))).quiet q
  rw [settleGrant_quiet hwq, hw] at hstep ⊢
  exact ⟨c, level, hc, hck, hcl, hcstep.trans hstep.symm, (settleEligible_later p c).demand.symm, rfl, rfl, hclink⟩

/-! ### The commit and the cancel (R138, R139) -/

/-- A committed intent stands through the judgements of a quiet state. -/
theorem settleRound_committed {serial : Byte} (q : Quiet p s) (hphase : s.layover.phase = .committed)
    (hown : s.layover.ownIntent = some serial) : (settleRound p s).layover.phase = .committed
      ∧ (settleRound p s).layover.ownIntent = some serial := by
  obtain ⟨c, level, -, -, hcl, -, -, hl, -⟩ := settleRound_layover_quiet q
  have h : (settleEligible p c).layover.phase = .committed ∧ (settleEligible p c).layover.ownIntent = some serial := by
    unfold settleEligible
    dsimp only
    rw [hcl, if_neg (by rw [hphase]; simp), if_neg (by rw [hphase]; simp)]
    exact ⟨hphase, hown⟩
  rw [hl]
  exact h

theorem settle_committed {serial : Byte} (q : Quiet p s) (hphase : s.layover.phase = .committed)
    (hown : s.layover.ownIntent = some serial) : (settle p s).layover.phase = .committed
      ∧ (settle p s).layover.ownIntent = some serial := by
  have q1 := (settleRound_still q).quiet q
  have q2 := (settleRound_still q1).quiet q1
  obtain ⟨h1, o1⟩ := settleRound_committed q hphase hown
  obtain ⟨h2, o2⟩ := settleRound_committed q1 h1 o1
  exact settleRound_committed q2 h2 o2

/-- A stepper without a current row stays so. -/
theorem settleRound_rowless (h : s.step.current = none) : (settleRound p s).step.current = none := by
  rw [settleRound_step]
  have hb : (settleReport (settleTarget (settleLowIdle p
      (settleMakeUp p (settleCaps p (settleOwnRecord p (settleArrival p s))))))).step.current = none := by
    rw [settleReport_step]
    show (settleOwnRecord p (settleArrival p s)).step.current = none
    rw [settleOwnRecord_step, settleArrival_step]
    exact h
  show (settleSteps p (8 + 1) _).step.current = none
  unfold settleSteps
  rw [hb]
  exact hb

theorem settle_rowless (h : s.step.current = none) : (settle p s).step.current = none :=
  settleRound_rowless (settleRound_rowless (settleRound_rowless h))

/-- R35, R139: the commit of a RUNNING station. -/
theorem commitLayover_state (h : s.seq.engine = .running) :
    (commitLayover s).seq.engine = .stopping .layover ∧ (commitLayover s).layover.phase = .committed
      ∧ (commitLayover s).layover.ownIntent = s.layover.ownIntent ∧ (commitLayover s).step.current = none
      ∧ Apart s (commitLayover s) := by
  unfold commitLayover
  dsimp only
  rw [if_pos h]
  have hreach (v : State) : stateReached v (.stopping .layover) = .stopping .layover := if_neg (by simp)
  have hapart : Apart s { s with layover := { s.layover with phase := .committed, holdTimer := none } } := .of_blocks
  refine ⟨?_, ?_, ?_, ?_, hapart.trans (enterState_apart _ _)⟩
  · rw [enterState_seq, hreach]
    rfl
  · rw [enterState_layover, hreach, layoverAfter, if_neg (by rw [h]; simp [isStopping])]
  · rw [enterState_layover, hreach, layoverAfter, if_neg (by rw [h]; simp [isStopping])]
  · unfold enterState
    rw [hreach, changeLayover_same]
    simp [h, clearStepper, stepperReset]

/-- Settles O48: the commit leads to STOPPING, which stands; the cancel leaves no intent, and none is due. -/
theorem intentHoldCommitsOrCancels : Obligations.IntentHoldCommitsOrCancels := by
  intro p s us serial hp hphase hown htimer
  have hreached (h : p.layover.intentHold * 1000 ≤ us) :
      s.layover.phase = .announced ∧ timerReached s.layover.holdTimer p.layover.intentHold = true :=
    ⟨hphase, timerReached_due htimer h⟩
  refine ⟨fun hdue heligible hquota hturning => ?_, fun hdue q hfails => ?_, fun hshort => ?_⟩
  · have run : exec .intentHoldExpiry s = .next (settle p (commitLayover s)) := by
      refine (next_withParams hp _).trans ?_
      rw [if_pos (hreached hdue), if_pos ⟨heligible, hquota⟩]
    obtain ⟨hengine, hcommitted, hintent, hcur, hapart⟩ := commitLayover_state (eligibleNow_iff.mp heligible).2.1
    have hr : atRest p (commitLayover s) = false := by
      unfold atRest
      rw [hapart.meas]
      exact decide_eq_false (by omega)
    obtain ⟨he, hstill, hoff⟩ := settle_stopping_still hengine hr
    obtain ⟨hp', ho'⟩ := settle_committed (quiet_stopping hengine hr) hcommitted (hintent.trans hown)
    exact ⟨_, run, he, hp', ho', settle_rowless hcur, hoff, hapart.trans (settle_kept p _).apart⟩
  · have run : exec .intentHoldExpiry s = .next (settle p (cancelIntent s)) := by
      refine (next_withParams hp _).trans ?_
      rw [if_pos (hreached hdue), if_neg]
      rintro ⟨h1, h2⟩
      rcases hfails with h | h
      · rw [h] at h1
        cases h1
      · omega
    have hstill := cancelIntent_still s
    have hq : Quiet p (cancelIntent s) := hstill.quiet q
    have hapart := (cancelIntent_only s).apart
    have hun := cancelIntent_unannounced s
    obtain ⟨hnophase, hnoown, hnohold, -⟩ := hun.settle (p := p)
    exact ⟨_, run, (settle_engine_quiet hq).trans hstill.engine, hnophase, hnoown, hnohold,
      fun hs => asked_settle_cancel hs hun (cancelIntent_queue hown), hapart.trans (settle_kept p _).apart,
      settle_follows (hapart.applied hp)⟩
  · refine (next_withParams hp _).trans ?_
    rw [if_neg fun h => not_timerReached htimer hshort h.2]

/-! ### The announcement (R135, R137) -/

theorem eligibleNow_congr (he : t.seq.engine = s.seq.engine) (hc : t.step.current = s.step.current)
    (hd : t.demand = s.demand) (hm : t.meas = s.meas) (hl : t.link.state = s.link.state) :
    eligibleNow p t = eligibleNow p s := by
  unfold eligibleNow isRunning demandInForce demandConflict linkSilent
  rw [he, hc, hd, hm, hl]

/-- R77: the target at a demand of ID. -/
theorem targetRow_idle (hrow : (demandInForce s).row = 1) (hmake : s.makeUp.row = none) :
    (targetRow s).val = if s.prot.available.val = 0 ∨ s.step.lowIdleReached = true then 0 else 1 := by
  rw [targetRow_val, hrow, hmake]
  dsimp only
  cases s.step.lowIdleReached
  all_goals
    split_ifs <;> simp_all <;> omega

/-- The station rests at its target ID or LO, eligible, with the idle time reached. -/
structure Idles (p : Params) (r : Row) (s : State) : Prop where
  running : s.seq.engine = .running
  current : s.step.current = some r
  target : targetAfter p s = some r
  eligible : eligibleNow p s = true
  counted : s.layover.eligible = true
  idle : s.layover.idle = .reached
  record : s.demand.ownRecord = ownRecordNow p s

theorem Idles.unstepped (h : Idles p r s) : stepUpHolds p (begun p s) r = false ∧ stepDownHolds p (begun p s) = false
    ∧ targetBelow (begun p s) = false := by
  have hbcur : (begun p s).step.current = some r := by rw [begun_step]; exact h.current
  have hbtarget : (begun p s).step.target = some r := by rw [begun_target, h.target]
  have hbelow : targetBelow (begun p s) = false := by
    unfold targetBelow
    rw [hbcur, hbtarget]
    simp
  refine ⟨?_, ?_, hbelow⟩
  · unfold stepUpHolds stepUpReady
    rw [hbtarget]
    simp
  · unfold stepDownHolds
    rw [hbelow]
    rfl

theorem Idles.row (h : Idles p r s) : (demandInForce s).row = 1 := by
  obtain ⟨-, -, -, hd, -⟩ := eligibleNow_iff.mp h.eligible
  rw [hd]

/-- At a demand of ID the target hangs on the available row only by whether it is LO. -/
theorem targetAfter_idle (hrun : s.seq.engine = .running) (hrec : s.demand.ownRecord = ownRecordNow p s)
    (hrow : (demandInForce s).row = 1) : targetAfter p s
      = some (if (availableNow p s).val = 0 ∨ (aimed p s).step.lowIdleReached = true then 0 else 1) := by
  have hdemand : (aimed p s).demand = s.demand := by
    unfold aimed
    rw [settleOwnRecord_current hrec]
    rfl
  have hrow' : (demandInForce (aimed p s)).row = 1 := by
    unfold demandInForce demandConflict at hrow ⊢
    rw [hdemand]
    exact hrow
  have hv := targetRow_idle hrow' (makeUpRun_row_idle (p := p) hrow')
  rw [aimed_available] at hv
  rw [targetAfter_eq hrun]
  refine congrArg some (Fin.ext ?_)
  rw [hv]
  split_ifs <;> rfl

/-- The caps of a round leave whether the available row is LO, where the laboring cap stands. -/
theorem availableNow_zero (hl : (settleRound p s).prot.laboringCap = s.prot.laboringCap) :
    (availableNow p (settleRound p s)).val = 0 ↔ (availableNow p s).val = 0 := by
  have hk := settleRound_kept p s
  have zero (hot stale gnd labor : Option Row) (h1 : stale = none ∨ stale = some 1) (h2 : gnd = none ∨ gnd = some 1) :
      (availableOf hot stale gnd labor).val = 0 ↔ (capRow hot).val = 0 ∨ (capRow labor).val = 0 := by
    have hs : (capRow stale).val ≠ 0 := by rcases h1 with rfl | rfl <;> decide
    have hg : (capRow gnd).val ≠ 0 := by rcases h2 with rfl | rfl <;> decide
    rw [availableOf_val]
    omega
  have one (b : Bool) : (if b then some 1 else none : Option Row) = none ∨ (if b then some 1 else none : Option Row) = some 1 := by
    cases b
    · exact .inl rfl
    · exact .inr rfl
  unfold availableNow
  rw [zero _ _ _ _ (one _) (one _), zero _ _ _ _ (one _) (one _), hl, hk.derate1, hk.derate2, hk.hotStop]

/-- The count and the eligibility as they stand, with the idle time reached. -/
def countedIdle (p : Params) (s : State) : State :=
  { s with layover := { s.layover with q := runningPeers p s, eligible := true, idle := .reached } }

/-- R137: the layover unit after a judgement of eligibility that holds, as it held before. -/
theorem settleEligible_idles (he : eligibleNow p s = true) (hc : s.layover.eligible = true) (hi : s.layover.idle = .reached)
    (hq : countNow p s = runningPeers p s) :
    settleEligible p s = if s.layover.phase = .none ∧ p.layover.quota ≤ runningPeers p s
      then announceIntent (countedIdle p s) else countedIdle p s := by
  have hidle : idleAfter s.layover true = .reached := by
    unfold idleAfter
    rw [hc, hi]
    rfl
  unfold settleEligible
  dsimp only
  rw [he, hidle, hq, if_neg (by simp)]
  by_cases h : s.layover.phase = .none ∧ p.layover.quota ≤ runningPeers p s
  · rw [if_pos h, if_pos ⟨h.1, rfl, rfl, h.2⟩]
    rfl
  · rw [if_neg h, if_neg fun hn => h ⟨hn.1, hn.2.2.2⟩]
    rfl

/-- What a round of an idling station does to the layover unit: it announces an intent where none stands and the quota
holds. -/
structure IdledRound (p : Params) (s t : State) : Prop where
  layover : ∃ level, t.layover = { (if s.layover.phase = .none ∧ p.layover.quota ≤ runningPeers p s
      then announceIntent (countedIdle p s) else countedIdle p s).layover with watch := level }
  asks : s.layover.phase = .none → p.layover.quota ≤ runningPeers p s → ∃ v, Asks [5] s v ∧ v.link.state = s.link.state
    ∧ t.link.queue = queueAfter (.made (.layoverIntent (s.layover.serial + 1))) v
  quiet : ¬(s.layover.phase = .none ∧ p.layover.quota ≤ runningPeers p s) → Asks [5] s t

theorem announceIntent_state (s : State) :
    (announceIntent s).layover = { s.layover with
        serial := s.layover.serial + 1, ownIntent := some (s.layover.serial + 1), phase := .announced, holdTimer := some 0 }
      ∧ (announceIntent s).link.queue = queueAfter (.made (.layoverIntent (s.layover.serial + 1))) s := by
  unfold announceIntent requestMade
  rw [requestFrame_eq]
  exact ⟨rfl, rfl⟩

theorem Idles.settleRound (h : Idles p r s) : Idles p r (settleRound p s) ∧ IdledRound p s (settleRound p s) := by
  have q : Quiet p s := quiet_of_restful (by rw [h.running]; rfl)
  obtain ⟨hup, hdown, hbelow⟩ := h.unstepped
  obtain ⟨hstep, hcap, hrun⟩ := settleRound_unstepped h.running h.current hup hdown
  rw [begun_laboringCap, hbelow, if_neg (by simp)] at hcap
  have hk := settleRound_kept p s
  have hrec := settleRound_ownRecord p s
  have hdemand : (Machine.settleRound p s).demand = s.demand := by rw [hk.demand, hrec, ← h.record]
  have hcur : (Machine.settleRound p s).step.current = some r := by
    rw [hstep, begun_step]
    exact h.current
  have hbcur : (begun p s).step.current = some r := by rw [begun_step]; exact h.current
  obtain ⟨c, level, hcs, hck, hcl, hcstep, hcdemand, hl, hlink, hclink⟩ := settleRound_layover_quiet q
  have hcq : runningPeers p c = runningPeers p s := by
    unfold runningPeers
    rw [hck.roster]
  have hce : eligibleNow p c = true := by
    rw [eligibleNow_congr hcs.engine (by rw [hcstep, hcur, h.current]) (hcdemand.trans hdemand) hck.meas (by rw [hck.link])]
    exact h.eligible
  have hloud : linkSilent c = false := by
    obtain ⟨-, -, -, -, -, -, -, -, hsilent⟩ := eligibleNow_iff.mp hce
    exact hsilent
  have hcount : countNow p c = runningPeers p c := by
    unfold countNow
    rw [hloud, if_neg (by simp)]
  have heligible := settleEligible_idles hce (by rw [hcl]; exact h.counted) (by rw [hcl]; exact h.idle) hcount
  rw [hcl, hcq] at heligible
  have hcasks : Asks [5] s c := by
    have hb := begun_asks p s
    have hlast : c.link = (begun p s).link := by
      rw [hclink]
      show (settleSteps p 9 (begun p s)).link = _
      rw [settleSteps_none hbcur hup hdown]
    exact hb.then (congrArg Link.queue hlast)
  have hcounted : (countedIdle p c).layover = (countedIdle p s).layover := by
    unfold countedIdle
    rw [hcl, hcq]
  have hann : (announceIntent (countedIdle p c)).layover = (announceIntent (countedIdle p s)).layover := by
    rw [(announceIntent_state _).1, (announceIntent_state _).1, hcounted]
  have hlayover : (settleEligible p c).layover = (if s.layover.phase = .none ∧ p.layover.quota ≤ runningPeers p s
      then announceIntent (countedIdle p s) else countedIdle p s).layover := by
    rw [heligible]
    split
    · exact hann
    · exact hcounted
  rw [hlayover] at hl
  have hstands : (Machine.settleRound p s).layover.eligible = true ∧ (Machine.settleRound p s).layover.idle = .reached := by
    rw [hl]
    split
    · rw [(announceIntent_state _).1]
      exact ⟨rfl, rfl⟩
    · exact ⟨rfl, rfl⟩
  refine ⟨⟨hrun, hcur, ?_, ?_, hstands.1, hstands.2, by rw [hrec, hk.ownRecordNow]⟩, ⟨level, hl⟩, fun hphase hquota => ?_, fun hn => ?_⟩
  · have htarget := h.target
    rw [targetAfter_idle h.running h.record h.row] at htarget
    rw [targetAfter_idle hrun (by rw [hrec, hk.ownRecordNow]) (by
      have := h.row
      unfold demandInForce demandConflict at this ⊢
      rw [hdemand]
      exact this), ← htarget, aimed_reached_settleRound h.running]
    simp only [availableNow_zero hcap]
  · rw [eligibleNow_congr (hrun.trans h.running.symm) (hcur.trans h.current.symm) hdemand hk.meas (by rw [hk.link])]
    exact h.eligible
  · rw [if_pos ⟨hphase, hquota⟩] at heligible
    refine ⟨countedIdle p c, hcasks.then, by show c.link.state = _; rw [hck.link], ?_⟩
    rw [hlink, heligible, (announceIntent_state _).2]
    show queueAfter (.made (.layoverIntent (c.layover.serial + 1))) _ = _
    rw [hcl]
  · rw [if_neg hn] at heligible
    refine hcasks.then ?_
    rw [hlink, heligible]
    rfl

/-- A round that announces nothing leaves the intent. -/
theorem IdledRound.unannounced (h : IdledRound p s t) (hn : ¬(s.layover.phase = .none ∧ p.layover.quota ≤ runningPeers p s)) :
    t.layover.phase = s.layover.phase ∧ t.layover.ownIntent = s.layover.ownIntent ∧ t.layover.serial = s.layover.serial
      ∧ t.layover.holdTimer = s.layover.holdTimer := by
  obtain ⟨level, hl⟩ := h.layover
  rw [if_neg hn] at hl
  rw [hl]
  exact ⟨rfl, rfl, rfl, rfl⟩

theorem IdledRound.announced (h : IdledRound p s t) (hphase : s.layover.phase = .none) (hquota : p.layover.quota ≤ runningPeers p s) :
    t.layover.phase = .announced ∧ t.layover.ownIntent = some (s.layover.serial + 1)
      ∧ t.layover.serial = s.layover.serial + 1 ∧ t.layover.holdTimer = some 0 := by
  obtain ⟨level, hl⟩ := h.layover
  rw [if_pos ⟨hphase, hquota⟩, (announceIntent_state _).1] at hl
  rw [hl]
  exact ⟨rfl, rfl, rfl, rfl⟩

theorem Idles.settle (h : Idles p r s) : Idles p r (settle p s) ∧ (s.layover.phase = .none →
    (p.layover.quota ≤ runningPeers p s →
      (settle p s).layover.phase = .announced ∧ (settle p s).layover.ownIntent = some (s.layover.serial + 1)
      ∧ (settle p s).layover.serial = s.layover.serial + 1 ∧ (settle p s).layover.holdTimer = some 0
      ∧ (openLink s → asked (.layoverIntent (s.layover.serial + 1)) (settle p s)))
    ∧ (runningPeers p s < p.layover.quota → (settle p s).layover.phase = .none)) := by
  obtain ⟨i1, r1⟩ := h.settleRound
  obtain ⟨i2, r2⟩ := i1.settleRound
  obtain ⟨i3, r3⟩ := i2.settleRound
  have hk1 := settleRound_kept p s
  have hk2 := settleRound_kept p (Machine.settleRound p s)
  have hpeers1 : runningPeers p (Machine.settleRound p s) = runningPeers p s := by
    unfold runningPeers
    rw [hk1.roster]
  have hpeers2 : runningPeers p (Machine.settleRound p (Machine.settleRound p s)) = runningPeers p s := by
    unfold runningPeers
    rw [hk2.roster, hk1.roster]
  refine ⟨i3, fun hphase => ⟨fun hquota => ?_, fun hlow => ?_⟩⟩
  · obtain ⟨p1, o1, n1, t1⟩ := r1.announced hphase hquota
    have hn2 : ¬((Machine.settleRound p s).layover.phase = .none
        ∧ p.layover.quota ≤ runningPeers p (Machine.settleRound p s)) := by
      rw [p1]
      simp
    obtain ⟨p2, o2, n2, t2⟩ := r2.unannounced hn2
    have hn3 : ¬((Machine.settleRound p (Machine.settleRound p s)).layover.phase = .none
        ∧ p.layover.quota ≤ runningPeers p (Machine.settleRound p (Machine.settleRound p s))) := by
      rw [p2, p1]
      simp
    obtain ⟨p3, o3, n3, t3⟩ := r3.unannounced hn3
    refine ⟨p3.trans (p2.trans p1), o3.trans (o2.trans o1), n3.trans (n2.trans n1), t3.trans (t2.trans t1), fun hs => ?_⟩
    obtain ⟨v, hv, hup, hq⟩ := r1.asks hphase hquota
    exact asked_between hs hv (hup.trans hs.1) hq ((r2.quiet hn2).trans (r3.quiet hn3)) (show 7 ∉ [5] by decide)
      (show ∀ k ∈ [5], cancelledKind k ≠ some 7 by decide) (by decide)
  · obtain ⟨p1, -⟩ := r1.unannounced (by omega)
    obtain ⟨p2, -⟩ := r2.unannounced (by omega)
    obtain ⟨p3, -⟩ := r3.unannounced (by omega)
    exact p3.trans (p2.trans (p1.trans hphase))

theorem targetAfter_layover (l : LayoverUnit) (h : s.seq.engine = .running) :
    targetAfter p { s with layover := l } = targetAfter p s := by
  have hk : Kept s { s with layover := l } := layover_kept l s
  rw [targetAfter_eq (s := { s with layover := l }) h, targetAfter_eq h, targetRow_aimed_congr hk rfl rfl]
  rw [aimed_reached, aimed_reached, lowIdleHolds_settleOwnRecord hk rfl]

/-- Settles O47: at the idle time an intent is announced in the first round, and stands. -/
theorem idleTimeAnnouncesIntent : Obligations.IdleTimeAnnouncesIntent := by
  intro p s us hp hidle
  have hdue : idleDue p s = true ↔ p.layover.idleTime * 60000000 ≤ us := by
    unfold idleDue
    rw [hidle]
    show decide (p.layover.idleTime * 60000 * 1000 ≤ us) = true ↔ _
    rw [decide_eq_true_iff, Nat.mul_assoc]
  refine ⟨fun hlong => ?_, fun hshort => ?_⟩
  · have run : exec .layoverIdleTimeExpiry s
        = .next (settle p { s with layover := { s.layover with idle := .reached } }) := by
      refine (next_withParams hp _).trans ?_
      rw [if_pos (hdue.mpr hlong)]
    refine ⟨_, run, settle_judged (s := { s with layover := { s.layover with idle := .reached } }) hp,
      fun hcounted heligible hrec hphase htarget => ?_⟩
    obtain ⟨-, hrun, hrow, -⟩ := eligibleNow_iff.mp heligible
    obtain ⟨r, hcur⟩ : ∃ r, s.step.current = some r := by
      rcases hrow with h | h
      · exact ⟨_, h⟩
      · exact ⟨_, h⟩
    have h : Idles p r { s with layover := { s.layover with idle := .reached } } :=
      ⟨hrun, hcur, (targetAfter_layover _ hrun).trans (htarget.trans hcur), heligible, hcounted, rfl, hrec⟩
    obtain ⟨i, hannounce⟩ := h.settle
    obtain ⟨hmet, hunmet⟩ := hannounce hphase
    generalize settle p { s with layover := { s.layover with idle := .reached } } = t at *
    exact ⟨i.running, i.current.trans hcur.symm, i.idle, i.counted, hmet, hunmet⟩
  · refine (next_withParams hp _).trans ?_
    rw [if_neg fun h => absurd (hdue.mp h) (by omega)]

end Sys2Proof.Machine

/-! PROOFS. Addressed and discarded frames (R160, R162), and the duplicate unit number (R161, R38). -/

namespace Sys2Proof.Machine

variable {s t u v w : State} {p : Params} {src : UnitNo}

/-! ### Queries and replies -/

/-- What a station judges after a request is judged after what came before it. -/
theorem settle_judged_request (f : TxFrame) (hp : s.reader.applied = some p) : Judged p s (settle p (requestFrame f s)) := by
  have hk := requestFrame_kept f s
  have hj := settle_judged (s := requestFrame f s) (p := p) (hk.apart.applied hp)
  refine ⟨hk.trans hj.kept, hj.outputs, fun q => ?_⟩
  have hs := requestFrame_still f s
  exact hs.trans (hj.still (hs.quiet q))

/-- The judgements ask for no REPLY. -/
theorem reply_of_settle {d : UnitNo} {k n : Byte} (h : TxFrame.reply d k n ∈ (settle p s).link.queue) :
    TxFrame.reply d k n ∈ s.link.queue :=
  ((settle_asks p s).grows.mem h).resolve_right (show 11 ∉ judgedKinds by decide)

theorem reply_settle_request (hs : openLink s) (k n : Byte) :
    TxFrame.reply src k n ∈ (settle p (requestFrame (.reply src k n) s)).link.queue := by
  have h := (settle_asks p (requestFrame (.reply src k n) s)).grows
  rw [requestFrame_eq] at h ⊢
  rw [show ({ s with link := { s.link with queue := queueAfter (.reply src k n) s } } : State).link.queue
    = [.reply src k n] from queueAfter_open hs _] at h
  exact h.keeps List.mem_cons_self (kindsWithin_single _) (show 11 ∉ judgedKinds by decide)
    (show ∀ k ∈ judgedKinds, cancelledKind k ≠ some 11 by decide) (by decide)

theorem query_answered {dest kind part : Byte} (h : heard p src s) (hdest : dest.toNat = p.unit.val) :
    ∃ t, exec (.query src dest kind part) s = .next t ∧ Judged p (frameEnded s) t
      ∧ (openLink s → TxFrame.reply src kind part ∈ t.link.queue) := by
  refine ⟨settle p (requestFrame (.reply src kind part) (frameEnded s)), ?_, settle_judged_request _ h.1,
    fun hs => reply_settle_request (s := frameEnded s) ⟨hs.1, hs.2⟩ kind part⟩
  show Host.Outcome.next (receiveContent src (.query dest kind part) s) = _
  rw [receiveContent_heard h rfl, takeValid, if_pos hdest]

theorem query_discarded {dest kind part : Byte} (h : heard p src s) (hdest : dest.toNat ≠ p.unit.val) :
    exec (.query src dest kind part) s = .next (settle p (frameEnded s)) := by
  show Host.Outcome.next (receiveContent src (.query dest kind part) s) = _
  rw [receiveContent_heard h rfl, takeValid, if_neg hdest]

theorem reply_dropped {payload : List Byte} (h : heard p src s) (hvalid : contentValid (.reply payload) = true) :
    exec (.reply src payload) s = .next (settle p (frameEnded s)) := by
  show Host.Outcome.next (receiveContent src (.reply payload) s) = _
  rw [receiveContent_heard h hvalid, takeValid]

/-- What a frame that touches no block leaves. -/
theorem frameEnded_judged (h : heard p src s) : Judged p (frameEnded s) (settle p (frameEnded s))
    ∧ ∀ d k n, TxFrame.reply d k n ∈ (settle p (frameEnded s)).link.queue → TxFrame.reply d k n ∈ s.link.queue :=
  ⟨settle_judged (s := frameEnded s) h.1, fun _ _ _ hq => reply_of_settle (s := frameEnded s) hq⟩

/-- Settles O53: a QUERY for the station asks for a REPLY before the blocks judge, and nothing else does. -/
theorem addressedFrames : Obligations.AddressedFrames := by
  intro p s src hheard
  obtain ⟨hj, hnone⟩ := frameEnded_judged hheard
  dsimp only
  refine ⟨fun dest kind part => ?_, fun payload hvalid => ?_, fun payload hvalid => ?_, fun bits hbits => ?_⟩
  · by_cases hdest : dest.toNat = p.unit.val
    · obtain ⟨t, run, hjudged, hasked⟩ := query_answered (kind := kind) (part := part) hheard hdest
      exact ⟨t, run, hjudged, fun _ => hasked, fun h => absurd hdest h⟩
    · have run := query_discarded (kind := kind) (part := part) hheard hdest
      generalize settle p (frameEnded s) = t at hj hnone run
      exact ⟨t, run, hj, fun h => absurd h hdest, fun _ => hnone⟩
  · have run := reply_dropped hheard hvalid
    generalize settle p (frameEnded s) = t at hj hnone run
    exact ⟨t, run, hj, hnone⟩
  · show Host.Outcome.next (receiveContent src (.reply payload) s) = _
    unfold receiveContent
    rw [withParams_some s _ hheard.1, if_neg hheard.2.1, if_pos (by rw [hvalid]; rfl)]
    rfl
  · show Host.Outcome.next (match receiveLine bits with
      | some (src, c) => receiveContent src c s
      | none => withParams s fun _ => if s.link.state = LinkState.down then s else frameEnded s) = _
    rw [hbits]
    dsimp only
    rw [withParams_some s _ hheard.1, if_neg hheard.2.1]
    rfl

/-! ### The duplicate unit number (R161, R38, R133) -/

/-- The station link-silent, its layover unit ended, before the sequencer acts. -/
def silenced (s : State) : State :=
  silenceLayover { s with link := { state := .silent, queue := [], buffer := none, statusTimer := none, receive := .waitingIdle } }

theorem takeDuplicate_up (h : s.link.state = .up) : takeDuplicate (frameEnded s) = silenceSequencer (silenced s) :=
  if_pos h

theorem takeDuplicate_silent (h : s.link.state = .silent) : takeDuplicate (frameEnded s) = frameEnded s :=
  if_neg (by show s.link.state ≠ .up; rw [h]; simp)

theorem receive_duplicate {c : Content} (hp : s.reader.applied = some p) (hup : s.link.state ≠ .down)
    (hvalid : contentValid c = true) : receiveContent p.unit c s = settle p (takeDuplicate (frameEnded s)) := by
  unfold receiveContent
  rw [withParams_some s _ hp, if_neg hup, if_neg (by rw [hvalid]; decide), if_pos rfl]

/-- The attempt of a STARTING station, stopped by the duplicate, before its state changes. -/
def silencedAttempt (s : State) : State :=
  { endAttempt .stopped (removeOwnClaim s) with seq := { (endAttempt .stopped (removeOwnClaim s)).seq with attempts := 0 } }

theorem silenceSequencer_starting {phase : Phase} (h : s.seq.engine = .starting phase) :
    silenceSequencer s = enterState (if phase = .prep then .stopped else .stopping .stopped) (silencedAttempt s) := by
  unfold silenceSequencer
  rw [h]
  rfl

/-- A STOPPING station whose destination the duplicate has made STOPPED, but for a lockout. -/
def redirected (d : StopDest) (s : State) : State :=
  match d with
  | .prep | .retryWait | .layover => enterState (.stopping .stopped) { s with seq := { s.seq with keptSerial := none } }
  | .stopped | .lockedOut _ => { s with seq := { s.seq with keptSerial := none } }

theorem silenceSequencer_stopping {d : StopDest} (h : s.seq.engine = .stopping d) :
    silenceSequencer s = redirected d s := by
  unfold silenceSequencer
  rw [h]
  cases d <;> rfl

theorem silenceSequencer_resting (h : s.seq.engine = .stopped ∨ s.seq.engine = .retryWait ∨ s.seq.engine = .layover) :
    silenceSequencer s = enterState .stopped s := by
  unfold silenceSequencer
  rcases h with h | h | h <;> rw [h]

theorem silenceSequencer_kept (h : s.seq.engine = .running ∨ (∃ r, s.seq.engine = .lockedOut r) ∨ ∃ r, s.seq.engine = .inhibited r) :
    silenceSequencer s = s := by
  unfold silenceSequencer
  rcases h with h | ⟨r, h⟩ | ⟨r, h⟩ <;> rw [h]

/-- What the sequencer leaves of a duplicate: the link, the protection unit's trips, and a layover unit without intent. -/
structure Silenced (s t : State) : Prop where
  apart : Apart s t
  link : t.link = s.link
  record : t.prot.record = s.prot.record
  latch : t.prot.tripLatch = s.prot.tripLatch
  layover : Unannounced s.layover → Unannounced t.layover

theorem Silenced.refl (s : State) : Silenced s s := ⟨.refl s, rfl, rfl, rfl, id⟩

theorem Silenced.trans (h : Silenced s t) (k : Silenced t u) : Silenced s u :=
  ⟨h.apart.trans k.apart, k.link.trans h.link, k.record.trans h.record, k.latch.trans h.latch, k.layover ∘ h.layover⟩

theorem Silenced.enterState (e : EngineState) (s : State) : Silenced s (enterState e s) where
  apart := enterState_apart e s
  link := enterState_link e s
  record := (enterState_kept e s).tripRecord
  latch := (enterState_kept e s).tripLatch
  layover h := by
    rw [enterState_layover]
    exact h.layoverAfter _ _

theorem silencedAttempt_silenced (s : State) : Silenced s (silencedAttempt s) where
  apart := by
    have h : dropClaim .own (dropClaim .own s.arb.claims) = dropClaim .own s.arb.claims := by
      unfold dropClaim
      rw [List.filter_filter]
      simp
    exact .of_blocks (hl := h)
  link := rfl
  record := rfl
  latch := rfl
  layover := id

theorem silenceSequencer_silenced (s : State) : Silenced s (silenceSequencer s) := by
  have kept : Silenced s { s with seq := { s.seq with keptSerial := none } } := ⟨.of_blocks, rfl, rfl, rfl, id⟩
  cases h : s.seq.engine with
  | starting phase =>
    rw [silenceSequencer_starting h]
    exact (silencedAttempt_silenced s).trans (.enterState _ _)
  | stopping d =>
    rw [silenceSequencer_stopping h]
    cases d with
    | prep => exact kept.trans (.enterState _ _)
    | retryWait => exact kept.trans (.enterState _ _)
    | layover => exact kept.trans (.enterState _ _)
    | stopped => exact kept
    | lockedOut r => exact kept
  | stopped =>
    rw [silenceSequencer_resting (.inl h)]
    exact .enterState _ _
  | retryWait =>
    rw [silenceSequencer_resting (.inr (.inl h))]
    exact .enterState _ _
  | layover =>
    rw [silenceSequencer_resting (.inr (.inr h))]
    exact .enterState _ _
  | running =>
    rw [silenceSequencer_kept (.inl h)]
    exact .refl s
  | lockedOut r =>
    rw [silenceSequencer_kept (.inr (.inl ⟨r, h⟩))]
    exact .refl s
  | inhibited r =>
    rw [silenceSequencer_kept (.inr (.inr ⟨r, h⟩))]
    exact .refl s

/-- A silent link takes no frame in the judgements. -/
theorem settle_silent (h : s.link.state = .silent) (hq : s.link.queue = []) (hb : s.link.buffer = none) :
    (settle p s).link = s.link := by
  have hk := settle_kept p s
  have hs : queueSound s.link := by
    unfold queueSound
    rw [hq]
    exact ⟨by simp, .nil, fun _ => ⟨rfl, hb⟩⟩
  have hsound : queueSound (settle p s).link :=
    (settle_moves p s).keeps (I := fun s => queueSound s.link) (fun m => m.link.queueSound) hs
  have hempty := (hsound.2.2 (by rw [hk.link]; show s.link.state ≠ .up; rw [h]; simp)).1
  rw [hk.link, hempty, ← hq]

theorem stoppedEngine_silent (h : s.link.state = .silent) : stoppedEngine s = .inhibited .duplicate := by
  unfold stoppedEngine linkSilent
  rw [h]
  rfl

/-- R38: where a duplicate takes a STARTING station whose link is silent. -/
theorem settle_silenced_starting {phase : Phase} (h : s.seq.engine = .starting phase) (hl : s.link.state = .silent) :
    (settle p (silenceSequencer s)).seq.engine
        = (if phase = .prep ∨ atRest p s = true then .inhibited .duplicate else .stopping .stopped)
      ∧ (settle p (silenceSequencer s)).seq.attempts = 0
      ∧ (settle p (silenceSequencer s)).seq.record = (endAttempt .stopped s).seq.record
      ∧ claimOf .own (settle p (silenceSequencer s)).arb.claims = none := by
  have hrecord : (silencedAttempt s).seq.record = (endAttempt .stopped s).seq.record := rfl
  have hclaims : claimOf .own (silencedAttempt s).arb.claims = none := claimOf_dropClaim_self _ _
  have hsilent : (silencedAttempt s).link.state = .silent := hl
  have hrest : atRest p (silencedAttempt s) = atRest p s := rfl
  have hattempts : (silencedAttempt s).seq.attempts = 0 := rfl
  rw [silenceSequencer_starting h]
  generalize silencedAttempt s = y at *
  by_cases hprep : phase = .prep
  · rw [if_pos hprep, if_pos (.inl hprep)]
    obtain ⟨he, harb, ha, hr, -⟩ := settle_enterStopped (p := p) y
    exact ⟨he.trans (stoppedEngine_silent hsilent), ha.trans hattempts, hr.trans hrecord, by rw [harb]; exact hclaims⟩
  · rw [if_neg hprep]
    have hengine : (enterState (.stopping .stopped) y).seq.engine = .stopping .stopped := enterState_engine _ _
    obtain ⟨he, harb, hr, -, ha⟩ := settle_halted_stopped (p := p) hengine
    have hk := enterState_kept (.stopping .stopped) y
    have hto : haltedEngine p (enterState (.stopping .stopped) y)
        = if phase = .prep ∨ atRest p s = true then .inhibited .duplicate else .stopping .stopped := by
      unfold haltedEngine
      rw [stoppedEngine_silent (by rw [hk.link]; exact hsilent)]
      unfold atRest at hrest ⊢
      rw [hk.meas, hrest]
      simp [hprep]
    refine ⟨he.trans hto, ha ?_, hr.trans ?_, ?_⟩
    · rw [enterState_seq]
      exact hattempts
    · rw [enterState_record]
      exact hrecord
    · rw [harb, enterState_arb]
      exact hclaims

theorem redirected_state (d : StopDest) (s : State) :
    (redirected d s).seq.engine = (match d with
        | .lockedOut _ => s.seq.engine
        | .stopped => s.seq.engine
        | _ => .stopping .stopped)
      ∧ (redirected d s).seq.keptSerial = none := by
  cases d with
  | prep => exact ⟨enterState_engine _ _, by unfold redirected; rw [enterState_seq]; rfl⟩
  | retryWait => exact ⟨enterState_engine _ _, by unfold redirected; rw [enterState_seq]; rfl⟩
  | layover => exact ⟨enterState_engine _ _, by unfold redirected; rw [enterState_seq]; rfl⟩
  | stopped => exact ⟨rfl, rfl⟩
  | lockedOut r => exact ⟨rfl, rfl⟩

/-- R38: the stop destination that a duplicate leaves, and the state a link-silent engine at rest comes to by it. -/
def silencedDest : StopDest → StopDest
  | .lockedOut r => .lockedOut r
  | _ => .stopped

def silencedEngine : StopDest → EngineState
  | .lockedOut r => .lockedOut r
  | _ => .inhibited .duplicate

theorem silencedDest_stopped {d : StopDest} (h : ¬∃ r, d = .lockedOut r) :
    silencedDest d = .stopped ∧ silencedEngine d = .inhibited .duplicate := by
  cases d with
  | lockedOut r => exact absurd ⟨r, rfl⟩ h
  | stopped => exact ⟨rfl, rfl⟩
  | prep => exact ⟨rfl, rfl⟩
  | retryWait => exact ⟨rfl, rfl⟩
  | layover => exact ⟨rfl, rfl⟩

/-- R38: where a duplicate takes a STOPPING station whose link is silent. -/
theorem settle_silenced_stopping {d : StopDest} (h : s.seq.engine = .stopping d) (hl : s.link.state = .silent) :
    (settle p (silenceSequencer s)).seq.keptSerial = none
      ∧ (atRest p s = false → (settle p (silenceSequencer s)).seq.engine = .stopping (silencedDest d))
      ∧ (atRest p s = true → (settle p (silenceSequencer s)).seq.engine = silencedEngine d) := by
  have hsil := silenceSequencer_silenced s
  obtain ⟨hengine, hkept⟩ := redirected_state d s
  rw [← silenceSequencer_stopping h] at hengine hkept
  have hrest : atRest p (silenceSequencer s) = atRest p s := by
    unfold atRest
    rw [hsil.apart.meas]
  have hsilent : (silenceSequencer s).link.state = .silent := by rw [hsil.link, hl]
  generalize silenceSequencer s = y at *
  by_cases hlock : ∃ r, d = .lockedOut r
  · obtain ⟨r, rfl⟩ := hlock
    have hy : y.seq.engine = .stopping (.lockedOut r) := hengine.trans h
    obtain ⟨he, -⟩ := settle_halted (p := p) hy rfl
    rw [hrest] at he
    refine ⟨(settle_halted_kept hy rfl).trans hkept, fun hr => ?_, fun hr => ?_⟩
    · rw [he, hr, if_neg (by simp)]
      rfl
    · rw [he, hr, if_pos rfl]
      rfl
  · have hy : y.seq.engine = .stopping .stopped := by
      rw [hengine]
      cases d with
      | lockedOut r => exact absurd ⟨r, rfl⟩ hlock
      | stopped => exact h
      | prep => rfl
      | retryWait => rfl
      | layover => rfl
    obtain ⟨he, -, -, hk, -⟩ := settle_halted_stopped (p := p) hy
    rw [haltedEngine, hrest, stoppedEngine_silent hsilent] at he
    obtain ⟨hdest, hto⟩ := silencedDest_stopped hlock
    refine ⟨hk.trans hkept, fun hr => ?_, fun hr => ?_⟩
    · rw [he, hr, if_neg (by simp), hdest]
    · rw [he, hr, if_pos rfl, hto]

/-- Settles O54: the link is silent before the sequencer acts, and the judgements leave it so. -/
theorem duplicateSilencesStation : Obligations.DuplicateSilencesStation := by
  intro p s c hp hvalid
  have run (hup : s.link.state ≠ .down) : exec (frameCommand p.unit c) s = .next (settle p (takeDuplicate (frameEnded s))) := by
    rw [exec_frameCommand, receive_duplicate hp hup hvalid]
  refine ⟨fun hsilent => ?_, fun hup => ?_⟩
  · have hrun := run (by rw [hsilent]; simp)
    rw [takeDuplicate_silent hsilent] at hrun
    exact ⟨_, hrun, settle_judged (s := frameEnded s) hp⟩
  · have hrun := run (by rw [hup]; simp)
    rw [takeDuplicate_up hup] at hrun
    have hz : Apart { s with link := (silenced s).link } (silenced s) := .of_blocks
    have hseq : (silenced s).seq = s.seq := rfl
    have hmeas : (silenced s).meas = s.meas := rfl
    have hprot : (silenced s).prot = s.prot := rfl
    have hlink : (silenced s).link
        = { state := .silent, queue := [], buffer := none, statusTimer := none, receive := .waitingIdle } := rfl
    have hun : Unannounced (silenced s).layover := ⟨rfl, rfl, rfl, by unfold silenced silenceLayover; simp⟩
    generalize silenced s = z at *
    have hsil := silenceSequencer_silenced z
    have hzl : z.link.state = .silent := by rw [hlink]
    have hstarting {phase : Phase} (h : z.seq.engine = .starting phase) := settle_silenced_starting (p := p) h hzl
    have hstopping {d : StopDest} (h : z.seq.engine = .stopping d) := settle_silenced_stopping (p := p) h hzl
    have hresting (h : z.seq.engine = .stopped ∨ z.seq.engine = .retryWait ∨ z.seq.engine = .layover) :
        (settle p (silenceSequencer z)).seq.engine = .inhibited .duplicate := by
      rw [silenceSequencer_resting h, (settle_enterStopped z).1, stoppedEngine_silent hzl]
    have hkept (h : z.seq.engine = .running ∨ (∃ r, z.seq.engine = .lockedOut r) ∨ ∃ r, z.seq.engine = .inhibited r) :
        (settle p (silenceSequencer z)).seq.engine = z.seq.engine := by
      rw [silenceSequencer_kept h]
      refine settle_engine_quiet (quiet_of_restful ?_)
      rcases h with h | ⟨r, h⟩ | ⟨r, h⟩ <;> rw [h] <;> rfl
    have hquiet : (settle p (silenceSequencer z)).link = z.link := by
      rw [settle_silent (by rw [hsil.link, hzl]) (by rw [hsil.link, hlink]) (by rw [hsil.link, hlink]), hsil.link]
    obtain ⟨hphase, hown, -, -⟩ := (hsil.layover hun).settle (p := p)
    have hk := settle_kept p (silenceSequencer z)
    have hrest : atRest p z = atRest p s := by
      unfold atRest
      rw [hmeas]
    have happ : Apart { s with link := (settle p (silenceSequencer z)).link } (settle p (silenceSequencer z)) := by
      rw [hquiet]
      exact (hz.trans hsil.apart).trans hk.apart
    have hfollow : outputsFollow (settle p (silenceSequencer z)) := settle_follows ((hz.trans hsil.apart).applied hp)
    have hrecord := hk.tripRecord.trans hsil.record
    have hlatch := hk.tripLatch.trans hsil.latch
    rw [hprot] at hrecord hlatch
    rw [hlink] at hquiet
    rw [hseq] at hstarting hstopping hresting hkept
    rw [hrest] at hstarting hstopping
    have hspeed : (settle p (silenceSequencer z)).meas.speed = s.meas.speed := by rw [hk.meas, hsil.apart.meas, hmeas]
    have hend : (endAttempt .stopped z).seq.record = (endAttempt .stopped s).seq.record := by
      rw [endAttempt_record, endAttempt_record, hmeas]
      unfold phaseElapsed
      rw [hseq]
    generalize settle p (silenceSequencer z) = t at *
    refine ⟨t, hrun, hfollow, hquiet, hown, hphase, happ, hrecord, hlatch,
      fun h => hresting h, fun h => (hkept (.inl h)).trans h, fun r h => (hkept (.inr (.inl ⟨r, h⟩))).trans h,
      fun phase h => ?_, fun d h => ?_⟩
    · obtain ⟨h1, h2, h3, h4⟩ := hstarting h
      exact ⟨h1, h2, attemptClosed_of hspeed (h3.trans hend), h4⟩
    · obtain ⟨h1, h2, h3⟩ := hstopping h
      refine ⟨h1, fun hr => (h2 hr).trans ?_, fun hr => (h3 hr).trans ?_⟩
      · cases d <;> rfl
      · cases d <;> rfl

end Sys2Proof.Machine

/-! PROOFS. A new speed value below the overspeed limit in the start sequencer (R24, R25, R29, R30, R34). -/

namespace Sys2Proof.Machine

variable {s t u v : State} {p : Params} {cmd : Instr} {n : Nat}

/-! ### The value offered -/

theorem withSpeed_only (cmd : Instr) (n : Nat) (s : State) :
    withSpeed cmd n s = { s with
      meas := (withSpeed cmd n s).meas, prot := { s.prot with lastSpeed := (withSpeed cmd n s).meas.speed } } := by
  unfold withSpeed
  split <;> rfl

@[simp] theorem withSpeed_seq (cmd : Instr) (n : Nat) (s : State) : (withSpeed cmd n s).seq = s.seq := by
  rw [withSpeed_only]

@[simp] theorem withSpeed_arb (cmd : Instr) (n : Nat) (s : State) : (withSpeed cmd n s).arb = s.arb := by
  rw [withSpeed_only]

@[simp] theorem withSpeed_link (cmd : Instr) (n : Nat) (s : State) : (withSpeed cmd n s).link = s.link := by
  rw [withSpeed_only]

@[simp] theorem withSpeed_demand (cmd : Instr) (n : Nat) (s : State) : (withSpeed cmd n s).demand = s.demand := by
  rw [withSpeed_only]

@[simp] theorem withSpeed_reader (cmd : Instr) (n : Nat) (s : State) : (withSpeed cmd n s).reader = s.reader := by
  rw [withSpeed_only]

@[simp] theorem withSpeed_choices (cmd : Instr) (n : Nat) (s : State) : (withSpeed cmd n s).choices = s.choices := by
  rw [withSpeed_only]

@[simp] theorem withSpeed_layover (cmd : Instr) (n : Nat) (s : State) : (withSpeed cmd n s).layover = s.layover := by
  rw [withSpeed_only]

@[simp] theorem profileOf_withSpeed (cmd : Instr) (n : Nat) (s : State) :
    profileOf p (withSpeed cmd n s) = profileOf p s := by
  unfold profileOf
  rw [withSpeed_seq]

@[simp] theorem tableInForce_withSpeed (cmd : Instr) (n : Nat) (s : State) :
    tableInForce p (withSpeed cmd n s) = tableInForce p s := by
  unfold tableInForce lineOn
  rw [withSpeed_demand]

theorem speedComes.speed (h : speedComes p s cmd n) : (withSpeed cmd n s).meas.speed = n := by
  unfold withSpeed
  rcases h with ⟨rfl, -⟩ | ⟨rfl, -⟩
  · rw [if_pos rfl]
    rfl
  · split <;> rfl

theorem gateFails.command (h : gateFails p s cmd) : cmd ≠ .pickupEdge := by
  rcases h.2 with ⟨rfl, -⟩ | ⟨rfl, -⟩ <;> simp

/-- The value stands before it is compared. -/
def offered (cmd : Instr) (n : Nat) (s : State) : State := { s with meas := (withSpeed cmd n s).meas }

theorem compareSpeed_offered (cmd : Instr) (n : Nat) (s : State) :
    compareSpeed (offered cmd n s) = withSpeed cmd n s := (withSpeed_only cmd n s).symm

theorem compareSpeed_useChoice_offered (cmd : Instr) (n : Nat) (s : State) :
    compareSpeed (useChoice (offered cmd n s)) = withSpeed cmd n (useChoice s) := by
  unfold withSpeed offered
  unfold withSpeed
  split <;> rfl

theorem exec_offered (hp : s.reader.applied = some p) (h : speedComes p s cmd n) :
    exec cmd s = .next (offerSpeed p (offered cmd n s)) := by
  rcases h with ⟨rfl, htiming, hcount, rfl⟩ | ⟨rfl, htiming, ⟨rfl, us, htimer, hdue⟩ | ⟨rfl, hfull⟩⟩
  · refine (next_withParams hp _).trans ?_
    rw [htiming]
    show Host.Outcome.next (if _ then _ else _) = _
    rw [if_pos hcount]
    rfl
  · refine (next_withParams hp _).trans ?_
    rw [if_pos (by
      unfold stallDue
      rw [htiming, timerReached_due htimer hdue]
      rfl)]
    rfl
  · refine (next_withParams hp _).trans ?_
    rw [if_pos (by
      unfold counterFull
      rw [htiming, decide_eq_true hfull]
      rfl)]
    rfl

theorem overspeedDue_offered (h : speedComes p s cmd n) : overspeedDue p (offered cmd n s) = true
    ↔ p.protect.overspeed ≤ n ∧ s.prot.lastSpeed < p.protect.overspeed ∧ isInhibited s = false := by
  have hspeed : (offered cmd n s).meas.speed = n := h.speed
  unfold overspeedDue
  have hprot : (offered cmd n s).prot = s.prot := rfl
  have hinhibited : isInhibited (offered cmd n s) = isInhibited s := rfl
  rw [hspeed, hprot, hinhibited]
  simp [and_assoc]

/-- A value that trips nothing is all that the blocks judge. -/
theorem exec_speed (hp : s.reader.applied = some p) (h : speedComes p s cmd n) (hn : noOverspeed p s n) :
    exec cmd s = .next (settle p (speedSequencer p (withSpeed cmd n s))) := by
  have hdue : ¬overspeedDue p (offered cmd n s) = true := fun k => by
    obtain ⟨hover, hlast, -⟩ := (overspeedDue_offered h).1 k
    unfold noOverspeed at hn
    omega
  rw [exec_offered hp h]
  unfold offerSpeed
  rw [if_neg hdue, compareSpeed_offered]

/-- One that crosses the limit is judged in one of two orders. -/
theorem exec_overspeed (hp : s.reader.applied = some p) (h : speedComes p s cmd n)
    (hover : p.protect.overspeed ≤ n) (hlast : s.prot.lastSpeed < p.protect.overspeed)
    (hi : isInhibited s = false) :
    exec cmd s = .next (settle p (trip .overspeed none (settle p (speedSequencer p (withSpeed cmd n (useChoice s))))))
      ∨ exec cmd s
        = .next (settle p (speedSequencer p (settle p (trip .overspeed none (withSpeed cmd n (useChoice s)))))) := by
  rw [exec_offered hp h]
  unfold offerSpeed
  rw [if_pos ((overspeedDue_offered h).2 ⟨hover, hlast, hi⟩), compareSpeed_useChoice_offered]
  by_cases hc : Config.freeChoice (offered cmd n s).choices = true
  · rw [if_pos hc]
    exact .inl rfl
  · rw [if_neg hc]
    exact .inr rfl

theorem atRest_withSpeed (h : speedComes p s cmd n) :
    atRest p (withSpeed cmd n s) = decide (n < p.sense.stoppedSpeed) := by
  unfold atRest
  rw [h.speed]

/-! ### STOPPING (R34) -/

theorem settle_arrive_stopped (h : s.seq.engine = .stopping .stopped) (hr : atRest p s = true) :
    (settle p s).seq.attempts = 0 ∧ (settle p s).seq.engine = stoppedEngine s := by
  have harrive := settle_arrival h hr
  unfold arriveAt at harrive
  rw [harrive]
  obtain ⟨hengine, -, hattempts, -⟩ := settle_enterStopped (p := p)
    { settleOutputs p s with seq := { (settleOutputs p s).seq with attempts := 0 } }
  generalize settle p (enterState .stopped _) = t at hengine hattempts ⊢
  refine ⟨hattempts, hengine.trans ?_⟩
  unfold stoppedEngine linkSilent
  rfl

theorem settle_arrive_retryWait (h : s.seq.engine = .stopping .retryWait) (hr : atRest p s = true) :
    (settle p s).seq.engine = .retryWait ∧ (settle p s).seq.recrankTimer = some 0 := by
  rw [settle_arrival h hr]
  have hengine : (arriveAt .retryWait (settleOutputs p s)).seq.engine = .retryWait := arriveAt_engine _ _
  have hstill := settle_still (p := p) (quiet_of_restful (p := p) (s := arriveAt .retryWait (settleOutputs p s))
    (by rw [hengine]; rfl))
  refine ⟨hstill.engine.trans hengine, ?_⟩
  rw [hstill.seq]
  show (enterState .retryWait (settleOutputs p s)).seq.recrankTimer = some 0
  rw [enterState_seq]
  rfl

theorem enterPrep_claim (s : State) : claimOf .own (enterPrep s).arb.claims = some
    { who := .own, level := s.seq.startLevel.getD .routine, serial := s.seq.keptSerial.getD (s.arb.ownSerial + 1)
      state := .waiting } := by
  rw [enterPrep_arb]
  exact (claimOf_putClaim _ _ _).trans (if_pos rfl)

theorem settle_arrive_prep (h : s.seq.engine = .stopping .prep) (hr : atRest p s = true) (hc : 0 < p.crank.claimSettle) :
    (settle p s).seq.engine = .starting .prep ∧ (settle p s).seq.attempts = s.seq.attempts
      ∧ ∃ c, claimOf .own (settle p s).arb.claims = some c ∧ c.state = .waiting
          ∧ c.serial = s.seq.keptSerial.getD (s.arb.ownSerial + 1) := by
  have hstill := settle_still (enterPrep_quiet (p := p) hc (settleOutputs p s))
  refine ⟨settle_arrival_prep_engine h hr hc, ?_, ?_⟩
  · rw [settle_arrival_prep h hr, hstill.seq, enterPrep_seq]
    rfl
  · rw [settle_arrival_prep h hr, hstill.arb, enterPrep_claim]
    exact ⟨_, rfl, rfl, rfl⟩

/-! ### The restart watch (R142, R143) -/

theorem cancelIntent_watch (s : State) : (cancelIntent s).layover.watch = s.layover.watch := by
  unfold cancelIntent requestMade
  dsimp only
  split
  · rfl
  · simp

theorem settleEligible_watch (p : Params) (s : State) : (settleEligible p s).layover.watch = s.layover.watch := by
  unfold settleEligible
  dsimp only
  split
  · exact cancelIntent_watch _
  · split
    · rw [(announceIntent_state _).1]
    · rfl

/-- Before a round judges its restart watch. -/
def beforeWatch (p : Params) (s : State) : State :=
  settleEligible p (settleHotTimer (settleLubeTimer p (settleConfirm p (settlePrelube p (settleStepper p
    (settleMakeUp p (settleCaps p (settleOwnRecord p (settleArrival p s)))))))))

theorem settleRound_beforeWatch (p : Params) (s : State) :
    settleRound p s = settleLamps (settleOutputs p (settleGrant p (settleWatch p (beforeWatch p s)))) := rfl

theorem beforeWatch_still (p : Params) (s : State) : Still (settleArrival p s) (beforeWatch p s) :=
  (((((settleOwnRecord_still p _).trans (settleMakeUpCaps_still p _)).trans (settleStepper_still p _)).trans
    (settlePrelube_still p _)).trans (settleTimers_still p _)).trans (settleEligible_still p _)

theorem beforeWatch_kept (p : Params) (s : State) : Kept (settleArrival p s) (beforeWatch p s) :=
  (((((settleOwnRecord_kept p _).trans (settleCaps_kept p _)).trans (settleMakeUp_kept p _)).trans
    (settleStepper_kept p _)).trans (settleTimers_kept p _)).trans (settleEligible_kept p _)

theorem beforeWatch_watch (p : Params) (s : State) :
    (beforeWatch p s).layover.watch = (settleArrival p s).layover.watch := by
  unfold beforeWatch
  rw [settleEligible_watch]
  show (settlePrelube p _).layover.watch = _
  rw [settlePrelube_layover, settleStepper_layover]
  show (settleOwnRecord p (settleArrival p s)).layover.watch = _
  rw [settleOwnRecord_layover]

/-- The level the restart watch's triggers give once the own record is judged. -/
def levelNow (p : Params) (s : State) : Option Level := standingLevel p (settleRound p s)

theorem outputs_later (p : Params) (s : State) : Later s (settleLamps (settleOutputs p s)) :=
  ⟨rfl, rfl, rfl, rfl, rfl, rfl, rfl, rfl, .inl rfl⟩

theorem beforeWatch_level (p : Params) (s : State) : standingLevel p (beforeWatch p s) = levelNow p s := by
  unfold levelNow
  rw [settleRound_beforeWatch]
  generalize beforeWatch p s = b
  have later := ((settleWatch_later p b).trans (settleGrant_later p _)).trans (outputs_later p _)
  obtain ⟨-, -, -, -, -, -, -, hlevel, -⟩ := later.conditions (p := p)
  exact hlevel.symm

theorem standingLevel_congr (hk : Kept s t) (hd : t.demand = s.demand) : standingLevel p t = standingLevel p s := by
  have hrow : demandInForce t = demandInForce s := by
    unfold demandInForce demandConflict
    rw [hd]
  have hpeers : runningPeers p t = runningPeers p s := by
    unfold runningPeers
    rw [hk.roster]
  unfold standingLevel
  rw [hrow, hpeers, hk.meas]

theorem levelNow_settleRound (p : Params) (s : State) : levelNow p (settleRound p s) = levelNow p s := by
  have hk := settleRound_kept p s
  have hk2 := settleRound_kept p (settleRound p s)
  have hrecord : (settleRound p (settleRound p s)).demand.ownRecord = (settleRound p s).demand.ownRecord := by
    rw [settleRound_ownRecord, settleRound_ownRecord, hk.ownRecordNow]
  have hd := hk2.demand
  rw [hrecord] at hd
  unfold levelNow
  exact standingLevel_congr hk2 hd

theorem standingLevel_settle (p : Params) (s : State) : standingLevel p (settle p s) = levelNow p s := by
  have h : standingLevel p (settle p s) = levelNow p (settleRound p (settleRound p s)) := by
    unfold settle levelNow
    rfl
  rw [h, levelNow_settleRound, levelNow_settleRound]

theorem acceptsStart_congr (he : t.seq.engine = s.seq.engine) (hk : Kept s t) (l : LayoverUnit) :
    acceptsStart p { t with layover := l } ↔ acceptsStart p s := by
  have hlines := hk.lineOn p .runIsolate
  unfold acceptsStart linkSilent at *
  rw [← hlines, ← he, ← hk.meas, show s.link.state = t.link.state by rw [hk.link]]
  rfl

theorem startedAt.of_still {level : Level} (h : startedAt level v t) (hs : Still s v) : startedAt level s t := by
  obtain ⟨hengine, hattempts, horig, hstart, htimer, hrecord, hclaim⟩ := h
  refine ⟨hengine, hattempts, horig, hstart, htimer, hrecord, ?_⟩
  rw [hclaim, hs.seq, hs.arb]

/-- The level has risen and the station may start. -/
def watchStarts (p : Params) (old : Option Level) (s : State) : Prop :=
  levelRank old < levelRank (levelNow p s) ∧ acceptsStart p s

theorem outputs_still (p : Params) (s : State) : Still s (settleLamps (settleOutputs p s)) := ⟨rfl, rfl, id, rfl⟩

/-- A watch whose level has risen starts the station that may start. -/
theorem settleRound_watchStarts {old : Option Level} (he : s.seq.engine = .layover)
    (hw : s.layover.watch = .active old) (hc : 0 < p.crank.claimSettle) (h : watchStarts p old s) :
    ∃ l, levelNow p s = some l ∧ startedAt l s (settleRound p s)
      ∧ (settleRound p s).layover.watch = .inactive ∧ Quiet p (settleRound p s) := by
  obtain ⟨hrise, haccept⟩ := h
  obtain ⟨l, hl⟩ : ∃ l, levelNow p s = some l := by
    cases k : levelNow p s with
    | none =>
      rw [k] at hrise
      exact absurd hrise (Nat.not_lt_zero _)
    | some l => exact ⟨l, rfl⟩
  have ha : settleArrival p s = s := settleArrival_of_not_stopping fun d k => by
    rw [he] at k
    cases k
  have hstill := beforeWatch_still p s
  have hkept := beforeWatch_kept p s
  have hwatch := beforeWatch_watch p s
  have hlevel := beforeWatch_level p s
  rw [settleRound_beforeWatch]
  rw [ha] at hstill hkept hwatch
  generalize beforeWatch p s = b at hstill hkept hwatch hlevel ⊢
  rw [hw] at hwatch
  have hb : settleWatch p b = enterPrep (startingAt l { b with layover := { b.layover with watch := .active (some l) } }) := by
    unfold settleWatch
    rw [hwatch]
    dsimp only
    rw [hlevel, hl]
    dsimp only
    rw [← hl, if_pos hrise, hl, startRequest_accepted]
    exact (acceptsStart_congr hstill.engine hkept _).2 haccept
  have q : Quiet p (settleWatch p b) := by
    rw [hb]
    exact enterPrep_quiet hc _
  rw [settleGrant_quiet q]
  have hout := outputs_still p (settleWatch p b)
  refine ⟨l, hl, ?_, hout.watch ?_, hout.quiet q⟩
  · refine startedAt.of_still (v := { b with layover := { b.layover with watch := .active (some l) } }) ?_
      ⟨hstill.seq, hstill.arb, (fun k => by rw [hw] at k; cases k), hstill.meas⟩
    refine enterPrep_startingAt _ _ ?_
    rw [← hb]
    exact hout
  · obtain ⟨-, -, -, hlayover, -⟩ := enterPrep_blocks
      (startingAt l { b with layover := { b.layover with watch := .active (some l) } })
    rw [hb, hlayover]
    rfl

/-- Any other stays in LAYOVER, its watch at the level judged. -/
theorem settleRound_watchStays {old : Option Level} (he : s.seq.engine = .layover)
    (hw : s.layover.watch = .active old) (h : ¬watchStarts p old s) :
    (settleRound p s).seq.engine = .layover ∧ (settleRound p s).layover.watch = .active (levelNow p s)
      ∧ Still s (settleRound p s) := by
  have ha : settleArrival p s = s := settleArrival_of_not_stopping fun d k => by
    rw [he] at k
    cases k
  have hstill := beforeWatch_still p s
  have hkept := beforeWatch_kept p s
  have hwatch := beforeWatch_watch p s
  have hlevel := beforeWatch_level p s
  rw [settleRound_beforeWatch]
  rw [ha] at hstill hkept hwatch
  generalize beforeWatch p s = b at hstill hkept hwatch hlevel ⊢
  rw [hw] at hwatch
  have hb : settleWatch p b = { b with layover := { b.layover with watch := .active (levelNow p s) } } := by
    unfold settleWatch
    rw [hwatch]
    dsimp only
    rw [hlevel]
    split
    · next hnone => rw [hnone]
    · next l hl =>
      rw [hl]
      split
      · next hrise =>
        refine startRequest_not fun k => h ⟨by rw [hl]; exact hrise, ?_⟩
        exact (acceptsStart_congr hstill.engine hkept _).1 k
      · rfl
  have hgrant : settleGrant p (settleWatch p b) = settleWatch p b := by
    unfold settleGrant
    refine if_neg fun k => ?_
    have := grantHolds_prep k
    rw [hb] at this
    exact absurd ((hstill.engine.trans he).symm.trans this) (by simp)
  rw [hgrant, hb]
  exact ⟨hstill.engine.trans he, rfl, hstill.seq, hstill.arb, (fun k => by rw [hw] at k; cases k), hstill.meas⟩


theorem startedAt.until {level : Level} (h : startedAt level s u) (hs : Still u t) : startedAt level s t := by
  obtain ⟨hengine, hattempts, horig, hstart, htimer, hrecord, hclaim⟩ := h
  unfold startedAt
  rw [hs.seq, hs.arb]
  exact ⟨hengine, hattempts, horig, hstart, htimer, hrecord, hclaim⟩

theorem settle_watchStarts {old : Option Level} (he : s.seq.engine = .layover)
    (hw : s.layover.watch = .active old) (hc : 0 < p.crank.claimSettle) (h : watchStarts p old s) :
    ∃ l, levelNow p s = some l ∧ startedAt l s (settle p s) ∧ (settle p s).layover.watch = .inactive := by
  obtain ⟨l, hl, hstarted, hwatch, q⟩ := settleRound_watchStarts he hw hc h
  have one := settleRound_still q
  have both := one.trans (settleRound_still (one.quiet q))
  unfold settle
  exact ⟨l, hl, hstarted.until both, both.watch hwatch⟩

theorem settle_watchStays {old : Option Level} (he : s.seq.engine = .layover)
    (hw : s.layover.watch = .active old) (h : ¬watchStarts p old s) :
    (settle p s).seq.engine = .layover ∧ (settle p s).layover.watch = .active (levelNow p s) := by
  have stays {u : State} (hl : levelNow p u = levelNow p s) : ¬watchStarts p (levelNow p s) u := fun k => by
    have := k.1
    rw [hl] at this
    exact Nat.lt_irrefl _ this
  obtain ⟨he1, hw1, -⟩ := settleRound_watchStays he hw h
  have hl1 := levelNow_settleRound p s
  obtain ⟨he2, hw2, -⟩ := settleRound_watchStays he1 hw1 (stays hl1)
  have hl2 := (levelNow_settleRound p (settleRound p s)).trans hl1
  rw [hl1] at hw2
  obtain ⟨he3, hw3, -⟩ := settleRound_watchStays he2 hw2 (stays hl2)
  rw [hl2] at hw3
  unfold settle
  exact ⟨he3, hw3⟩

/-- R34, R141: the arrival in LAYOVER begins the watch, which may ask for a start at once. -/
theorem settle_arrive_layover (h : s.seq.engine = .stopping .layover) (hr : atRest p s = true)
    (hc : 0 < p.crank.claimSettle) :
    (settle p s).seq.engine = .layover ∧ (settle p s).layover.watch ≠ .inactive
      ∨ (settle p s).seq.engine = .starting .prep := by
  rw [settle_arrival h hr]
  have hengine : (arriveAt .layover (settleOutputs p s)).seq.engine = .layover := arriveAt_engine _ _
  have hwatch : (arriveAt .layover (settleOutputs p s)).layover.watch = .active none := by
    unfold arriveAt
    rw [enterState_layover]
    rfl
  generalize arriveAt .layover (settleOutputs p s) = u at hengine hwatch ⊢
  by_cases hs : watchStarts p none u
  · obtain ⟨l, -, hstarted, -⟩ := settle_watchStarts hengine hwatch hc hs
    exact .inr hstarted.1
  · obtain ⟨hlayover, hactive⟩ := settle_watchStays hengine hwatch hs
    refine .inl ⟨hlayover, ?_⟩
    rw [hactive]
    simp

/-- Settles O12: the value is judged where the station stands STOPPING, and the arrival of R34 is each destination's. -/
theorem speedBelowStoppedEndsStopping : Obligations.SpeedBelowStoppedEndsStopping := by
  intro p s cmd n d hp hcomes hn hengine hc
  have hw : (withSpeed cmd n s).seq.engine = .stopping d := by rw [withSpeed_seq, hengine]
  have hrest := atRest_withSpeed hcomes
  have run := exec_speed hp hcomes hn
  have same : speedSequencer p (withSpeed cmd n s) = withSpeed cmd n s := by
    unfold speedSequencer
    rw [hw]
  have hseq := withSpeed_seq cmd n s
  have harb := withSpeed_arb cmd n s
  have hlink := withSpeed_link cmd n s
  rw [same] at run
  generalize withSpeed cmd n s = w at *
  refine ⟨_, run, fun hturning => ?_, fun hstill => ?_⟩
  · obtain ⟨he, -, hoff⟩ := settle_stopping_still hw (hrest.trans (decide_eq_false (by omega)))
    exact ⟨he, hoff⟩
  · have hr : atRest p w = true := hrest.trans (decide_eq_true hstill)
    cases d with
    | stopped =>
      obtain ⟨hattempts, he⟩ := settle_arrive_stopped hw hr
      refine ⟨hattempts, he.trans ?_⟩
      unfold stoppedEngine linkSilent
      rw [hlink]
    | retryWait => exact settle_arrive_retryWait hw hr
    | lockedOut r =>
      obtain ⟨he, -⟩ := settle_halted (p := p) hw rfl
      exact he.trans (if_pos hr)
    | layover => exact settle_arrive_layover hw hr hc
    | prep =>
      have h := settle_arrive_prep hw hr hc
      rw [hseq, harb] at h
      exact h

end Sys2Proof.Machine

/-! PROOFS. A new speed value in CRANK, FIRE and CONFIRM, and in a station at rest (R24 to R30, R143, R168). -/

namespace Sys2Proof.Machine

variable {s t u v w : State} {p : Params} {cmd : Instr} {n : Nat}

/-! ### CRANK (R24, R25) -/

/-- R24: the marks a value makes in CRANK. -/
def marked (p : Params) (s : State) : State :=
  { s with seq := { s.seq with
      rolling := s.seq.rolling || decide ((profileOf p s).rollSpeed ≤ s.meas.speed)
      rackOn := s.seq.rackOn || decide ((profileOf p s).fuelOnSpeed ≤ s.meas.speed) } }

theorem speedInCrank_eq (p : Params) (s : State) : speedInCrank p s
    = if (profileOf p s).releaseSpeed ≤ s.meas.speed then releaseCrank (marked p s) else marked p s := rfl

theorem speedSequencer_crank (h : s.seq.engine = .starting .crank) : speedSequencer p s = speedInCrank p s := by
  unfold speedSequencer
  rw [h]

theorem quiet_phase {phase : Phase} (h : s.seq.engine = .starting phase) (hn : phase ≠ .prep) : Quiet p s := by
  refine quiet_of (fun d k => ?_) (fun k => ?_) (fun k => ?_) fun k => ?_
  all_goals rw [h] at k
  · cases k
  · exact hn (by cases k; rfl)
  · cases k
  · cases k

/-- The release: the crank counted and ended, FIRE begun. -/
theorem releaseCrank_state (s : State) :
    (releaseCrank s).seq.engine = .starting .fire ∧ (releaseCrank s).seq.phaseTimer = some 0
      ∧ (releaseCrank s).seq.attempts = s.seq.attempts ∧ (releaseCrank s).seq.crankCount = s.seq.crankCount + 1
      ∧ (releaseCrank s).seq.record = s.seq.record.map (fun r => { r with
          phases := closeLast (phaseElapsed s) s.meas.speed r.phases ++ [{ elapsed := 0, speed := none }] })
      ∧ (releaseCrank s).arb = (endCrankCounted releasedByte s).arb
      ∧ (releaseCrank s).link = (endCrankCounted releasedByte s).link := by
  unfold releaseCrank
  rw [endCrankCounted_eq]
  refine ⟨rfl, rfl, rfl, rfl, ?_, rfl, rfl⟩
  unfold enterPhase closePhase
  dsimp only
  rw [Option.map_map]
  rfl

theorem settle_releaseCrank {c : Claim} (hc : claimOf .own s.arb.claims = some c) :
    (settle p (releaseCrank s)).seq.engine = .starting .fire ∧ (settle p (releaseCrank s)).seq.phaseTimer = some 0
      ∧ (settle p (releaseCrank s)).seq.attempts = s.seq.attempts
      ∧ (settle p (releaseCrank s)).seq.crankCount = s.seq.crankCount + 1
      ∧ (settle p (releaseCrank s)).seq.record = s.seq.record.map (fun r => { r with
          phases := closeLast (phaseElapsed s) s.meas.speed r.phases ++ [{ elapsed := 0, speed := none }] })
      ∧ (settle p (releaseCrank s)).arb = { s.arb with
          claims := dropClaim .own s.arb.claims, claimTimer := none, overlapTimer := none
          rotation := toTail .own s.arb.rotation, crossing := [] }
      ∧ (openLink s →
          asked (.crankOff 0 (levelByte c.level) c.serial (s.seq.crankCount + 1)) (settle p (releaseCrank s))) := by
  obtain ⟨hengine, htimer, hattempts, hcount, hrecord, harb, hlink⟩ := releaseCrank_state s
  have q : Quiet p (releaseCrank s) := quiet_phase hengine (by simp)
  have hstill := settle_still q
  refine ⟨hstill.engine.trans hengine, ?_, ?_, ?_, ?_, ?_, fun hs => ?_⟩
  · rw [hstill.seq]
    exact htimer
  · rw [hstill.seq]
    exact hattempts
  · rw [hstill.seq]
    exact hcount
  · rw [hstill.seq]
    exact hrecord
  · rw [hstill.arb, harb, endCrankCounted_eq]
  · refine asked_settle_quiet hs ?_ (by simp [contentKind]) q
    rw [hlink, endCrankCounted_eq, ownClaim_of_claimOf hc]
    rfl

/-- Settles O10: below the release speed only the marks are made; at it the crank ends RELEASED. -/
theorem crankSpeedReleases : Obligations.CrankSpeedReleases := by
  intro p s cmd n hp hcomes hn hengine
  have run := exec_speed hp hcomes hn
  have hw : (withSpeed cmd n s).seq.engine = .starting .crank := by rw [withSpeed_seq, hengine]
  have hspeed := hcomes.speed
  have hprofile := profileOf_withSpeed (p := p) cmd n s
  have hseq := withSpeed_seq cmd n s
  have harb := withSpeed_arb cmd n s
  have hlink := withSpeed_link cmd n s
  have happlied : (withSpeed cmd n s).reader.applied = some p := by rw [withSpeed_reader, hp]
  rw [speedSequencer_crank hw, speedInCrank_eq, hprofile, hspeed] at run
  generalize withSpeed cmd n s = w at *
  refine ⟨fun hbelow => ?_, fun c hc hrelease => ?_⟩
  · rw [if_neg (by omega)] at run
    have hmarked : marked p w = { w with seq := { s.seq with
        rolling := s.seq.rolling || decide ((profileOf p s).rollSpeed ≤ n)
        rackOn := s.seq.rackOn || decide ((profileOf p s).fuelOnSpeed ≤ n) } } := by
      unfold marked
      rw [hprofile, hspeed, hseq]
    have q : Quiet p (marked p w) := quiet_phase (phase := .crank) hw (by simp)
    refine ⟨_, run, (settle_engine_quiet q).trans hw, ?_⟩
    rw [← hmarked]
    exact settle_judged happlied
  · rw [if_pos hrelease] at run
    obtain ⟨he, ht, hattempts, hcount, hrecord, harb', hask⟩ := settle_releaseCrank (p := p) (s := marked p w) (c := c)
      (by show claimOf .own w.arb.claims = _; rw [harb, hc])
    have happ : (releaseCrank (marked p w)).reader.applied = some p := by
      have h : Apart w (releaseCrank (marked p w)) :=
        (Apart.of_blocks (s := w) (t := marked p w)).trans
          ((endCrankCounted_apart _ _).trans (enterPhase_apart _ _))
      exact h.applied happlied
    have hfollow := settle_follows (s := releaseCrank (marked p w)) happ
    have hwmeas : (marked p w).meas.speed = n := hspeed
    have helapsed : phaseElapsed (marked p w) = phaseElapsed s := by
      unfold phaseElapsed
      show min (timerMs w.seq.phaseTimer) _ = _
      rw [hseq]
    have hwattempts : (marked p w).seq.attempts = s.seq.attempts := by
      show w.seq.attempts = _
      rw [hseq]
    have hwcount : (marked p w).seq.crankCount = s.seq.crankCount := by
      show w.seq.crankCount = _
      rw [hseq]
    have hwrecord : (marked p w).seq.record = s.seq.record := by
      show w.seq.record = _
      rw [hseq]
    have hwarb : (marked p w).arb = s.arb := harb
    have hwlink : (marked p w).link = s.link := hlink
    rw [hwattempts] at hattempts
    rw [hwcount] at hcount hask
    rw [hwrecord, helapsed, hwmeas] at hrecord
    rw [hwarb] at harb'
    exact ⟨_, run, he, ht, hattempts, hcount, hrecord, harb',
      fun hs => hask (by unfold openLink; rw [hwlink]; exact hs), hfollow⟩

/-! ### FIRE and CONFIRM (R29, R30) -/

theorem reachesIdle_iff : reachesIdle p s = true
    ↔ (rowOf (tableInForce p s) 1).setpoint ≤ s.meas.speed + (tableInForce p s).band := decide_eq_true_iff

theorem belowRoll_iff : belowRoll p s = true ↔ s.meas.speed < (profileOf p s).rollSpeed := decide_eq_true_iff

theorem inBandOf_eq (p : Params) (s : State) : inBandOf (tableInForce p s) 1 s.meas.speed
    = decide ((rowOf (tableInForce p s) 1).setpoint ≤ s.meas.speed + (tableInForce p s).band
        ∧ s.meas.speed ≤ (rowOf (tableInForce p s) 1).setpoint + (tableInForce p s).band) := by
  unfold inBandOf
  rw [Bool.decide_and]

/-- R30: a value in CONFIRM judged against the band. -/
def bandJudged (p : Params) (s : State) : State :=
  { s with seq := { s.seq with inBand := inBandOf (tableInForce p s) 1 s.meas.speed } }

theorem speedInConfirm_eq (p : Params) (s : State) :
    speedInConfirm p s = if belowRoll p s then failAttempt p .noConfirm s else bandJudged p s := rfl

theorem settle_bandJudged (h : s.seq.engine = .starting .confirm) :
    (settle p (bandJudged p s)).seq.engine = .starting .confirm
      ∧ (settle p (bandJudged p s)).seq.inBand = inBandOf (tableInForce p s) 1 s.meas.speed
      ∧ (settle p (bandJudged p s)).arb = s.arb := by
  have he : (bandJudged p s).seq.engine = .starting .confirm := h
  have hstill := settle_still (quiet_phase (p := p) he (by simp))
  refine ⟨hstill.engine.trans he, ?_, hstill.arb⟩
  rw [hstill.seq]
  rfl

/-- CONFIRM entered, its band judged by the value that led to it. -/
theorem settle_enterConfirm (s : State) :
    (settle p (enterConfirm p s)).seq.engine = .starting .confirm ∧ (settle p (enterConfirm p s)).seq.phaseTimer = some 0
      ∧ (settle p (enterConfirm p s)).seq.inBand = inBandOf (tableInForce p s) 1 s.meas.speed
      ∧ (settle p (enterConfirm p s)).seq.attempts = s.seq.attempts ∧ (settle p (enterConfirm p s)).arb = s.arb := by
  have q : Quiet p (enterConfirm p s) := quiet_phase (phase := .confirm) rfl (by simp)
  have hstill := settle_still q
  rw [hstill.seq, hstill.arb]
  exact ⟨rfl, rfl, rfl, rfl, rfl⟩

theorem enterConfirm_apart (p : Params) (s : State) : Apart s (enterConfirm p s) :=
  (enterPhase_apart .confirm s).trans .of_blocks

/-- A failure in FIRE or CONFIRM: there is no claim to end. -/
theorem settle_failUnclaimed {phase : Phase} (result : AttemptResult) (h : s.seq.engine = .starting phase)
    (hphase : phase = .fire ∨ phase = .confirm) : (settle p (failAttempt p result s)).seq.engine = failedEngine p s s.meas.speed
      ∧ (settle p (failAttempt p result s)).seq.attempts = s.seq.attempts + 1
      ∧ attemptClosed result s (settle p (failAttempt p result s))
      ∧ (settle p (failAttempt p result s)).arb = s.arb ∧ allOff (settle p (failAttempt p result s)) := by
  obtain ⟨he, hattempts, hclosed, -, hoff, -⟩ := settle_failAttempt (p := p) result h
  obtain ⟨hstopping, -, -, -, harb, -⟩ := failAttempt_state (p := p) result h
  obtain ⟨-, hkept, -⟩ := settle_halted (p := p) hstopping (haltOf_failDest p s)
  refine ⟨he, hattempts, hclosed, hkept.trans (harb.trans ?_), hoff⟩
  rcases hphase with rfl | rfl <;> rfl

theorem speedSequencer_fire (h : s.seq.engine = .starting .fire) : speedSequencer p s = speedInFire p s := by
  unfold speedSequencer
  rw [h]

theorem speedSequencer_confirm (h : s.seq.engine = .starting .confirm) : speedSequencer p s = speedInConfirm p s := by
  unfold speedSequencer
  rw [h]

/-- The value leaves what a failed attempt and its record are judged by. -/
theorem attemptClosed.before {result : AttemptResult} (h : attemptClosed result w t) (hseq : w.seq = s.seq) :
    attemptClosed result s t := by
  unfold attemptClosed phaseElapsed at *
  rw [hseq] at h
  exact h

theorem failedEngine_congr (hseq : w.seq = s.seq) (n : Nat) : failedEngine p w n = failedEngine p s n := by
  unfold failedEngine
  rw [hseq]

/-- Settles O11: the two thresholds of FIRE, and the roll speed and the band of CONFIRM. -/
theorem speedEndsFireAndConfirm : Obligations.SpeedEndsFireAndConfirm := by
  intro p s cmd n hp hcomes hn
  dsimp only
  have run := exec_speed hp hcomes hn
  have hspeed := hcomes.speed
  have hprofile := profileOf_withSpeed (p := p) cmd n s
  have htable := tableInForce_withSpeed (p := p) cmd n s
  have hseq := withSpeed_seq cmd n s
  have harb := withSpeed_arb cmd n s
  have hchoices := withSpeed_choices cmd n s
  have happlied : (withSpeed cmd n s).reader.applied = some p := by rw [withSpeed_reader, hp]
  generalize withSpeed cmd n s = w at *
  have hidle := reachesIdle_iff (p := p) (s := w)
  have hroll := belowRoll_iff (p := p) (s := w)
  have hband := inBandOf_eq p w
  rw [htable, hspeed] at hidle
  rw [hprofile, hspeed] at hroll
  rw [htable, hspeed] at hband
  refine ⟨fun he hi hr => ?_, fun he hi hr => ?_, fun he hi hr => ?_, fun he hi hr => ?_, fun he hr => ?_, fun he hr => ?_⟩
  · rw [speedSequencer_fire (by rw [hseq, he])] at run
    unfold speedInFire at run
    rw [if_neg (fun k => by have := hroll.1 k.2; omega), if_pos (hidle.2 hi)] at run
    obtain ⟨h1, h2, h3, h4, h5⟩ := settle_enterConfirm (p := p) w
    have hfollow := settle_follows (s := enterConfirm p w) ((enterConfirm_apart p w).applied happlied)
    rw [htable, hspeed, hband] at h3
    rw [hseq] at h4
    rw [harb] at h5
    exact ⟨_, run, h1, h2, h3, h4, h5, hfollow⟩
  · have hwe : w.seq.engine = .starting .fire := by rw [hseq, he]
    rw [speedSequencer_fire hwe] at run
    unfold speedInFire at run
    have hno : ¬reachesIdle p w = true := fun k => by have := hidle.1 k; omega
    rw [if_neg (fun k => hno k.1), if_neg hno, if_pos (hroll.2 hr)] at run
    obtain ⟨h1, h2, h3, h4, h5⟩ := settle_failUnclaimed (p := p) .noRun hwe (.inl rfl)
    rw [hspeed, failedEngine_congr hseq] at h1
    rw [hseq] at h2
    rw [harb] at h4
    exact ⟨_, run, h1, h2, h3.before hseq, h4, h5⟩
  · rw [speedSequencer_fire (by rw [hseq, he])] at run
    unfold speedInFire at run
    rw [if_pos ⟨hidle.2 hi, hroll.2 hr⟩] at run
    have hcount : (useChoice w).choices = s.choices + 1 := congrArg (· + 1) hchoices
    refine ⟨_, run, ?_, ?_⟩
    · rw [(settle_kept p _).choices, ← hcount]
      split
      · exact (enterConfirm_apart p _).choices
      · exact (failAttempt_apart p .noRun _).choices
    · split
      · exact .inl (settle_enterConfirm _).1
      · obtain ⟨h1, -⟩ := settle_failUnclaimed (p := p) (s := useChoice w) .noRun (by show w.seq.engine = _; rw [hseq, he]) (.inl rfl)
        refine .inr (h1.trans ?_)
        show failedEngine p (useChoice w) w.meas.speed = _
        rw [hspeed]
        exact failedEngine_congr hseq n
  · have hwe : w.seq.engine = .starting .fire := by rw [hseq, he]
    rw [speedSequencer_fire hwe] at run
    unfold speedInFire at run
    have hno : ¬reachesIdle p w = true := fun k => by have := hidle.1 k; omega
    rw [if_neg (fun k => hno k.1), if_neg hno, if_neg (fun k => by have := hroll.1 k; omega)] at run
    exact ⟨_, run, (settle_engine_quiet (quiet_phase hwe (by simp))).trans hwe, settle_judged happlied⟩
  · have hwe : w.seq.engine = .starting .confirm := by rw [hseq, he]
    rw [speedSequencer_confirm hwe] at run
    rw [speedInConfirm_eq] at run
    rw [if_pos (hroll.2 hr)] at run
    obtain ⟨h1, h2, h3, h4, h5⟩ := settle_failUnclaimed (p := p) .noConfirm hwe (.inr rfl)
    rw [hspeed, failedEngine_congr hseq] at h1
    rw [hseq] at h2
    rw [harb] at h4
    exact ⟨_, run, h1, h2, h3.before hseq, h4, h5⟩
  · have hwe : w.seq.engine = .starting .confirm := by rw [hseq, he]
    rw [speedSequencer_confirm hwe] at run
    rw [speedInConfirm_eq] at run
    rw [if_neg (fun k => by have := hroll.1 k; omega)] at run
    obtain ⟨h1, h2, h3⟩ := settle_bandJudged (p := p) hwe
    have hfollow := settle_follows (s := bandJudged p w) happlied
    rw [htable, hspeed, hband] at h2
    exact ⟨_, run, h1, h2, h3.trans harb, hfollow⟩

end Sys2Proof.Machine

/-! PROOFS. A station at rest: the turning watch, and what the restart watch asks at (R142, R143, R168). -/

namespace Sys2Proof.Machine

variable {s t u v w : State} {p : Params} {cmd : Instr} {src : UnitNo}

/-! ### What the restart watch is judged with -/

/-- A command has moved nothing of what an accepted start and the restart watch stand on but the triggers. -/
structure Watched (s v : State) : Prop where
  seq : v.seq = s.seq := by rfl
  watch : v.layover.watch = s.layover.watch := by rfl
  ownSerial : v.arb.ownSerial = s.arb.ownSerial := by rfl
  demand : v.demand = s.demand := by rfl
  speed : v.meas.speed = s.meas.speed := by rfl
  link : v.link.state = s.link.state := by rfl

theorem Watched.refl (s : State) : Watched s s := {}

theorem Watched.trans (h : Watched s v) (k : Watched v w) : Watched s w :=
  ⟨k.seq.trans h.seq, k.watch.trans h.watch, k.ownSerial.trans h.ownSerial, k.demand.trans h.demand,
    k.speed.trans h.speed, k.link.trans h.link⟩

theorem Watched.acceptsStart (h : Watched s v) : Machine.acceptsStart p v ↔ Machine.acceptsStart p s := by
  unfold Machine.acceptsStart linkSilent lineOn
  rw [h.seq, h.demand, h.link, h.speed]

theorem Watched.startedAt {level : Level} (h : Watched s v) (hv : Machine.startedAt level v t) :
    Machine.startedAt level s t := by
  obtain ⟨hengine, hattempts, horig, hstart, htimer, hrecord, hclaim⟩ := hv
  refine ⟨hengine, hattempts, horig, hstart, htimer, hrecord, ?_⟩
  rw [hclaim, h.seq, h.ownSerial]

theorem levelRank_lt {old : Option Level} {l : Level} :
    levelRank old < levelRank (some l) ↔ ∀ o, old = some o → levelNum o < levelNum l := by
  cases old with
  | none => simp [levelRank]
  | some o => simp [levelRank]

/-- R142, R143: the watch takes the level of its triggers, and asks where it has risen. -/
theorem Watched.outcome {old : Option Level} (h : Watched s v) (hrun : exec cmd s = .next (settle p v))
    (he : s.seq.engine = .layover) (hw : s.layover.watch = .active old) (hc : 0 < p.crank.claimSettle) :
    ∃ t level, exec cmd s = .next t ∧ LevelStands p t level
      ∧ (∀ l, level = some l → (∀ o, old = some o → levelNum o < levelNum l) → Machine.acceptsStart p s →
          Machine.startedAt l s t ∧ t.layover.watch = .inactive)
      ∧ (level = none ∨ (∃ o l, old = some o ∧ level = some l ∧ levelNum l ≤ levelNum o)
            ∨ ¬Machine.acceptsStart p s →
          t.seq.engine = .layover ∧ t.layover.watch = .active level) := by
  have hve : v.seq.engine = .layover := by rw [h.seq, he]
  have hvw : v.layover.watch = .active old := by rw [h.watch, hw]
  have hstands := standingLevel_stands p (settle p v)
  rw [standingLevel_settle] at hstands
  refine ⟨_, levelNow p v, hrun, hstands, fun l hl hrise haccept => ?_, fun hnot => ?_⟩
  · obtain ⟨k, hk, hstarted, hinactive⟩ := settle_watchStarts hve hvw hc
      ⟨by rw [hl]; exact levelRank_lt.2 hrise, h.acceptsStart.2 haccept⟩
    rw [hl] at hk
    cases hk
    exact ⟨h.startedAt hstarted, hinactive⟩
  · refine settle_watchStays hve hvw fun ⟨hrise, haccept⟩ => ?_
    rcases hnot with hnone | ⟨o, l, ho, hl, hle⟩ | hrefused
    · rw [hnone] at hrise
      exact Nat.not_lt_zero _ hrise
    · rw [hl] at hrise
      have := levelRank_lt.1 hrise o ho
      omega
    · exact hrefused (h.acceptsStart.1 haccept)

/-! ### The commands at which it is judged -/

theorem makeStale_watched (c : Channel) (s : State) : Watched s (makeStale c s) := by
  unfold makeStale setChannel
  cases c <;> exact {}

theorem channelValue_watched (c : Channel) (raw : BitVec 12) (h : s.seq.engine ≠ .starting .crank) :
    Watched s (channelValue p c (sampleValue p c raw s) (withSample p c raw s)) := by
  have hsample : Watched s (withSample p c raw s) :=
    ⟨withSample_seq p c raw s, by rw [withSample_only], by rw [withSample_arb], by rw [withSample_only],
      (withSample_meas p c raw s).2.2.2.2.2.1, by rw [withSample_link]⟩
  refine hsample.trans ?_
  cases c with
  | lube | batt => exact .refl _
  | cool => exact {}
  | resv =>
    show Watched _ (resvValue p _ _)
    unfold resvValue
    rw [if_neg fun k => h (by rw [← withSample_seq p .resv raw s]; exact k.1)]
    exact .refl _

theorem repaired_watched (c : StatusContent) (h : s.seq.engine ≠ .starting .crank) :
    Watched s (repaired p src c s) := by
  obtain ⟨w, hw, hrepaired⟩ := repaired_repaired (p := p) (src := src) c s
  have hsw : Watched s w := by
    rw [hw.state]
    exact {}
  have houtside : judgeCrossing p src w = w := judgeCrossing_outside (.inl (by rw [hsw.seq]; exact h))
  rw [houtside] at hrepaired
  rcases hrepaired with k | k <;> rwa [k]

theorem cancelIntent_watched (s : State) : Watched s (cancelIntent s) := by
  obtain ⟨hseq, harb, -, -⟩ := (cancelIntent_only s).same
  have happ := (cancelIntent_only s).apart
  refine ⟨hseq, cancelIntent_watch s, by rw [harb], ?_, by rw [happ.meas], by rw [happ.link]⟩
  obtain ⟨l, h | ⟨f, -, h⟩⟩ := cancelIntent_only s <;> rw [h]

theorem recordIntent_watched (serial : Byte) (s : State) : Watched s (recordIntent p src serial s) := by
  have same (f : RosterEntry → RosterEntry) : Watched s (updateEntry src f s) := {}
  cases he : entryOf src s.roster.entries with
  | none =>
    rw [recordIntent_absent he]
    exact .refl s
  | some e =>
    by_cases hold : e.intent.map (·.serial) = some serial
    · rw [recordIntent_stands he hold]
      exact .refl s
    · rw [recordIntent_new he hold]
      split
      · exact (same _).trans (cancelIntent_watched _)
      · exact same _

theorem takeStatus_watched (c : StatusContent) (h : s.seq.engine ≠ .starting .crank) :
    Watched s (takeStatus p src c s) := by
  show Watched s (repairIntent p src c (takeCount src c.crankCount false
    (repaired p src c (updateEntry src (shown c) s))))
  have h1 : Watched s (updateEntry src (shown c) s) := {}
  have h2 := h1.trans (repaired_watched (p := p) (src := src) c h)
  generalize repaired p src c (updateEntry src (shown c) s) = y at h2 ⊢
  have h3 : Watched y (takeCount src c.crankCount false y) := by
    obtain ⟨r, rot, cr, hmoved⟩ := takeCount_moved (src := src) c.crankCount false y
    rw [hmoved]
    exact {}
  refine (h2.trans h3).trans ?_
  generalize takeCount src c.crankCount false y = z
  unfold repairIntent
  split
  · exact recordIntent_watched _ z
  · split
    · exact .refl z
    · exact {}

/-- A STATUS of a peer or a tool, where the station is in no crank of its own. -/
theorem exec_status_watched {c : StatusContent} (hheard : heard p src s) (hvalid : statusValid c = true)
    (h : s.seq.engine ≠ .starting .crank) : ∃ v, exec (.status src c) s = .next (settle p v) ∧ Watched s v := by
  have run : exec (.status src c) s = .next (settle p (takeValid p src (.status c) (frameEnded s))) := by
    show Host.Outcome.next (receiveContent src (.status c) s) = _
    rw [receiveContent_heard (c := .status c) hheard hvalid]
  refine ⟨_, run, ?_⟩
  show Watched s (rosterTake p src (.status c) (frameEnded s))
  have hended : Watched s (frameEnded s) := {}
  by_cases h0 : src = 0
  · unfold rosterTake
    rw [if_pos h0]
    exact hended
  · rw [rosterTake_heard h0]
    have hjoined : Watched s (heardBy src s) := by
      rw [heardBy_only]
      exact {}
    split
    · exact hjoined.trans (takeStatus_watched c (by rw [hjoined.seq]; exact h))
    · exact hjoined

/-! ### A speed in STOPPED and in LAYOVER -/

theorem askAgain_standing {level : Level} (h : s.layover.watch = .active (some level)) :
    askAgain p s = startRequest p level s := by
  unfold askAgain
  rw [h]

/-- Settles O13: the turning watch by its cases, and the restart watch by the level of its triggers. -/
theorem speedJudgesStillEngine : Obligations.SpeedJudgesStillEngine := by
  intro p s hp
  refine ⟨fun n us hgate hn hengine hwatch hturning => ?_, fun us htimer hdue => ?_, fun us htimer hshort => ?_,
    fun cmd n level hcomes hn hengine hwatch hstill hisolate hlink hc => ?_,
    fun level hon hengine hwatch hrest hlink hc => ?_, fun cmd old hengine hwatch hc hcmd => ?_⟩
  · have hcomes : speedComes p s .pickupEdge n := .inl ⟨rfl, hgate⟩
    have run := exec_speed hp hcomes hn
    have hrest := atRest_withSpeed hcomes
    have hspeed := hcomes.speed
    have hseq := withSpeed_seq .pickupEdge n s
    generalize withSpeed .pickupEdge n s = w at *
    have hstops : speedSequencer p w = enterState (.stopping .stopped) w := by
      unfold speedSequencer
      rw [hseq, hengine]
      dsimp only
      unfold speedInStopped
      rw [if_pos ⟨by rw [hseq, hwatch]; rfl, by rw [hspeed]; exact hturning⟩]
    have he : (enterState (.stopping .stopped) w).seq.engine = .stopping .stopped := by
      rw [enterState_engine]
      rfl
    have hr : atRest p (enterState (.stopping .stopped) w) = false := by
      unfold atRest at hrest ⊢
      rw [enterState_meas, hrest]
      exact decide_eq_false (by omega)
    have hended : (enterState (.stopping .stopped) w).seq.turningWatch = none := by
      rw [enterState_seq]
      rfl
    rw [hstops] at run
    obtain ⟨h1, h2, h3⟩ := settle_stopping_still he hr
    refine ⟨_, run, h1, ?_, h3⟩
    rw [h2.seq]
    exact hended
  · refine (next_withParams hp _).trans ?_
    rw [if_pos (timerReached_due htimer hdue)]
  · refine (next_withParams hp _).trans ?_
    rw [if_neg (not_timerReached htimer hshort)]
  · have run := exec_speed hp hcomes hn
    have hr : atRest p (withSpeed cmd n s) = true := (atRest_withSpeed hcomes).trans (decide_eq_true hstill)
    have hseq := withSpeed_seq cmd n s
    have hlayover := withSpeed_layover cmd n s
    have haccept : acceptsStart p (withSpeed cmd n s) := by
      refine ⟨.inr (by rw [hseq, hengine]), ?_, ?_, of_decide_eq_true hr⟩
      · rw [← hisolate]
        unfold lineOn
        rw [withSpeed_demand]
      · rw [← hlink]
        unfold linkSilent
        rw [withSpeed_link]
    generalize withSpeed cmd n s = w at *
    have hasks : speedSequencer p w = startRequest p level w := by
      unfold speedSequencer
      rw [hseq, hengine]
      dsimp only
      rw [if_pos hr, askAgain_standing (by rw [hlayover, hwatch])]
    rw [hasks] at run
    obtain ⟨⟨h1, h2, h3, h4, -⟩, h5, -⟩ := settle_startRequest haccept hc
    exact ⟨_, run, h1, h4, h3, h2, h5⟩
  · have run : exec (.debounceTimeout .runIsolate) s = .next (settle p (askAgain p (inputTaken .runIsolate s))) :=
      debounceTimeout_goesOn hp hon
    have honly := inputTaken_only .runIsolate s
    have hline : lineOn p (inputTaken .runIsolate s) .runIsolate = true := by
      rw [inputTaken_lineOn]
      exact hon.2.2
    have hw : (inputTaken .runIsolate s).layover.watch = .active (some level) := by
      rw [honly]
      exact hwatch
    have haccept : acceptsStart p (inputTaken .runIsolate s) := by
      refine ⟨.inr ?_, hline, ?_, ?_⟩
      · rw [honly]
        exact hengine
      · rw [honly]
        exact hlink
      · rw [honly]
        exact of_decide_eq_true hrest
    rw [askAgain_standing hw] at run
    obtain ⟨hstarted, hinactive, -⟩ := settle_startRequest (level := level) haccept hc
    refine ⟨_, run, ?_, hinactive⟩
    unfold startedAt at hstarted ⊢
    rw [honly] at hstarted ⊢
    exact hstarted
  · have hcrank : s.seq.engine ≠ .starting .crank := by rw [hengine]; simp
    rcases hcmd with ⟨c, us, rfl, htimer, hdue⟩ | ⟨c, raw, rfl, hreq, htaken⟩ | ⟨src, c, rfl, hheard, hvalid⟩
    · exact (makeStale_watched c s).outcome (stalenessTimeout_due hp (timerReached_due htimer (by omega))) hengine hwatch hc
    · refine (channelValue_watched (p := p) c raw hcrank).outcome ?_ hengine hwatch hc
      rw [exec_converterReply_valid raw hp hreq htaken, validSample_eq]
    · obtain ⟨v, run, hv⟩ := exec_status_watched hheard hvalid hcrank
      exact hv.outcome run hengine hwatch hc

end Sys2Proof.Machine

/-! PROOFS. A speed value that crosses the overspeed limit, in either order of its effects (R49). -/

namespace Sys2Proof.Machine

variable {s t u v w : State} {p : Params} {cmd : Instr} {n : Nat} {r : LockReason} {src : Option CutSource}

/-! ### What a speed value leaves of the protection unit -/

/-- No trip has been taken, and of the blocks outside the sequencer only the free choices may have moved. -/
structure Spared (s t : State) : Prop where
  apart : Apart { s with choices := t.choices } t
  record : t.prot.record = s.prot.record
  latch : t.prot.tripLatch = s.prot.tripLatch
  hold : t.prot.holdTimer = s.prot.holdTimer

theorem Spared.of_kept (h : Kept s t) : Spared s t :=
  ⟨{ h.apart with choices := rfl }, h.tripRecord, h.tripLatch, h.holdTimer⟩

theorem Spared.of_apart (h : Apart s t) (hprot : t.prot = s.prot) : Spared s t :=
  ⟨{ h with choices := rfl }, by rw [hprot], by rw [hprot], by rw [hprot]⟩

theorem Spared.trans (h : Spared s t) (k : Spared t u) : Spared s u where
  apart := by
    have h' : Apart { s with choices := u.choices } { t with choices := u.choices } := { h.apart with choices := rfl }
    exact h'.trans k.apart
  record := k.record.trans h.record
  latch := k.latch.trans h.latch
  hold := k.hold.trans h.hold

theorem useChoice_spared (s : State) : Spared s (useChoice s) := ⟨.refl _, rfl, rfl, rfl⟩

theorem closeClaim_prot (phase : Phase) (b : Byte) (s : State) : (closeClaim phase b s).prot = s.prot := by
  cases phase with
  | prep =>
    unfold closeClaim
    rw [withdrawClaim_eq]
  | crank => exact endCrankCounted_prot b
  | fire | confirm => rfl

theorem failAttempt_spared (p : Params) (result : AttemptResult) (s : State) : Spared s (failAttempt p result s) := by
  cases he : s.seq.engine with
  | starting phase =>
    rw [failAttempt_starting result he]
    have hclosed : Spared s (endAttempt result (closeClaim phase failedByte s)) :=
      .of_apart ((closeClaim_apart phase failedByte s).trans (endAttempt_apart _ _)) (closeClaim_prot phase failedByte s)
    generalize endAttempt result (closeClaim phase failedByte s) = b at hclosed ⊢
    have hcount : Spared b { b with seq := { b.seq with attempts := s.seq.attempts + 1 } } := .of_apart .of_blocks rfl
    exact (hclosed.trans hcount).trans (.of_kept (enterState_kept _ _))
  | _ =>
    rw [failAttempt_idle result (fun phase k => by rw [he] at k; cases k)]
    exact .of_kept (.refl s)

theorem enterConfirm_spared (p : Params) (s : State) : Spared s (enterConfirm p s) :=
  .of_apart (enterConfirm_apart p s) rfl

theorem startRequest_spared (p : Params) (level : Level) (s : State) : Spared s (startRequest p level s) :=
  .of_kept (startRequest_kept p level s)

theorem speedInCrank_spared (p : Params) (s : State) : Spared s (speedInCrank p s) := by
  have hmarked : Spared s (marked p s) := .of_apart .of_blocks rfl
  rw [speedInCrank_eq]
  split
  · refine hmarked.trans (.of_apart ((endCrankCounted_apart _ _).trans (enterPhase_apart _ _)) ?_)
    exact endCrankCounted_prot releasedByte
  · exact hmarked

theorem speedInFire_spared (p : Params) (s : State) : Spared s (speedInFire p s) := by
  unfold speedInFire
  split
  · split
    · exact (useChoice_spared s).trans (enterConfirm_spared p _)
    · exact (useChoice_spared s).trans (failAttempt_spared p _ _)
  · split
    · exact enterConfirm_spared p s
    · split
      · exact failAttempt_spared p _ s
      · exact .of_kept (.refl s)

theorem speedInConfirm_spared (p : Params) (s : State) : Spared s (speedInConfirm p s) := by
  rw [speedInConfirm_eq]
  split
  · exact failAttempt_spared p _ s
  · exact .of_apart .of_blocks rfl

theorem askAgain_spared (p : Params) (s : State) : Spared s (askAgain p s) := by
  unfold askAgain
  split
  · exact startRequest_spared p _ s
  · exact .of_kept (.refl s)
  · exact .of_kept (.refl s)

theorem speedInStopped_spared (p : Params) (s : State) : Spared s (speedInStopped p s) := by
  unfold speedInStopped
  split
  · exact .of_kept (enterState_kept _ s)
  · exact .of_kept (.refl s)

theorem speedSequencer_spared (p : Params) (s : State) : Spared s (speedSequencer p s) := by
  have same : Spared s s := .of_kept (.refl s)
  cases he : s.seq.engine with
  | starting phase =>
    cases phase with
    | prep =>
      unfold speedSequencer
      rw [he]
      exact same
    | crank =>
      rw [speedSequencer_crank he]
      exact speedInCrank_spared p s
    | fire =>
      rw [speedSequencer_fire he]
      exact speedInFire_spared p s
    | confirm =>
      rw [speedSequencer_confirm he]
      exact speedInConfirm_spared p s
  | stopped =>
    unfold speedSequencer
    rw [he]
    exact speedInStopped_spared p s
  | layover =>
    unfold speedSequencer
    rw [he]
    dsimp only
    split
    · exact askAgain_spared p s
    · exact same
  | running =>
    unfold speedSequencer
    rw [he]
    exact .of_kept (settleRow_kept p s)
  | stopping _ | retryWait | lockedOut _ | inhibited _ =>
    unfold speedSequencer
    rw [he]
    exact same

/-! ### A turning engine -/

theorem acceptsStart_turning (hr : atRest p s = false) : ¬acceptsStart p s := fun h =>
  absurd (decide_eq_true h.2.2.2) (by unfold atRest at hr; rw [hr]; simp)

theorem settleWatch_turning (hr : atRest p s = false) : (settleWatch p s).seq = s.seq := by
  unfold settleWatch
  split
  · rfl
  · dsimp only
    split
    · rfl
    · split
      · rw [startRequest_not (acceptsStart_turning (by exact hr))]
      · rfl

theorem grantHolds_turning (hr : atRest p s = false) : grantHolds p s = false := by
  unfold grantHolds
  rw [hr, Bool.and_false]

/-- An engine that turns keeps its state in the judgements. -/
theorem settleRound_turning (hr : atRest p s = false) : (settleRound p s).seq.engine = s.seq.engine := by
  have ha : settleArrival p s = s := by
    unfold settleArrival
    split
    · rw [hr]
      rfl
    · rfl
  obtain ⟨b, hb, hkept, hstill, -⟩ := settleRound_split p s
  rw [ha] at hkept hstill
  have hbr : atRest p b = false := by
    unfold atRest at *
    rw [hkept.meas]
    exact hr
  have hwr : atRest p (settleWatch p b) = false := by
    unfold atRest at *
    rw [(settleWatch_kept p b).meas]
    exact hbr
  rw [hb]
  unfold settleGrant
  rw [grantHolds_turning hwr, if_neg (by simp)]
  show (settleWatch p b).seq.engine = _
  rw [settleWatch_turning hbr, hstill.engine]

theorem settle_turning (hr : atRest p s = false) : (settle p s).seq.engine = s.seq.engine := by
  have next (u : State) (hu : atRest p u = false) : atRest p (settleRound p u) = false := by
    unfold atRest at *
    rw [(settleRound_kept p u).meas]
    exact hu
  unfold settle
  rw [settleRound_turning (next _ (next _ hr)), settleRound_turning (next _ hr), settleRound_turning hr]

/-- R37: the engine state a trip leads to while the engine turns. -/
def trippedTo (r : LockReason) : EngineState → EngineState
  | .lockedOut k => .lockedOut k
  | .inhibited k => .inhibited k
  | .stopping (.lockedOut k) => .stopping (.lockedOut k)
  | _ => .stopping (.lockedOut r)

theorem tripEngine_turning (hr : atRest p s = false) : tripEngine p s r = trippedTo r s.seq.engine := by
  unfold tripEngine
  rw [hr]
  cases s.seq.engine with
  | stopping d => cases d <;> rfl
  | _ => rfl

/-- While the engine turns, a speed value leads to where a trip leads from before it, but for a last attempt it
fails. -/
theorem speedSequencer_trippedTo (hr : atRest p s = false) :
    (trippedTo r (speedSequencer p s).seq.engine = trippedTo r s.seq.engine
        ∧ isInhibited (speedSequencer p s) = isInhibited s)
      ∨ (s.seq.engine = .starting .fire ∨ s.seq.engine = .starting .confirm) ∧ belowRoll p s = true
        ∧ p.crank.maxAttempts ≤ s.seq.attempts + 1
        ∧ (speedSequencer p s).seq.engine = .stopping (.lockedOut .attempts) := by
  have fails {phase : Phase} (result : AttemptResult) {u : State} (hu : u.seq = s.seq)
      (hengine : s.seq.engine = .starting phase) :
      (trippedTo r (failAttempt p result u).seq.engine = trippedTo r s.seq.engine
        ∧ isInhibited (failAttempt p result u) = isInhibited s)
      ∨ p.crank.maxAttempts ≤ s.seq.attempts + 1
        ∧ (failAttempt p result u).seq.engine = .stopping (.lockedOut .attempts) := by
    obtain ⟨hdest, -⟩ := failAttempt_state (p := p) result (s := u) (by rw [hu]; exact hengine)
    unfold failDest at hdest
    rw [hu] at hdest
    by_cases hlast : p.crank.maxAttempts ≤ s.seq.attempts + 1
    · rw [if_pos hlast] at hdest
      exact .inr ⟨hlast, hdest⟩
    · rw [if_neg hlast] at hdest
      refine .inl ⟨by rw [hdest, hengine]; rfl, ?_⟩
      unfold isInhibited
      rw [hdest, hengine]
  have confirms {u : State} (hengine : s.seq.engine = .starting .fire) :
      trippedTo r (enterConfirm p u).seq.engine = trippedTo r s.seq.engine
        ∧ isInhibited (enterConfirm p u) = isInhibited s := by
    have he : (enterConfirm p u).seq.engine = .starting .confirm := rfl
    refine ⟨by rw [he, hengine]; rfl, ?_⟩
    unfold isInhibited
    rw [he, hengine]
  cases he : s.seq.engine with
  | starting phase =>
    cases phase with
    | prep =>
      refine .inl ?_
      unfold speedSequencer
      rw [he]
      exact ⟨by rw [he], rfl⟩
    | crank =>
      refine .inl ?_
      rw [speedSequencer_crank he, speedInCrank_eq]
      split
      · have hfire := (releaseCrank_state (marked p s)).1
        refine ⟨by rw [hfire]; rfl, ?_⟩
        unfold isInhibited
        rw [hfire, he]
      · exact ⟨by show trippedTo r s.seq.engine = _; rw [he], rfl⟩
    | fire =>
      rw [speedSequencer_fire he]
      have h0 := fails (u := s) .noRun rfl he
      have h1 := fails (u := useChoice s) .noRun rfl he
      have hc0 := confirms (u := s) he
      have hc1 := confirms (u := useChoice s) he
      rw [he] at h0 h1 hc0 hc1
      unfold speedInFire
      split
      · rename_i hboth
        split
        · exact .inl hc1
        · exact h1.imp_right fun h => ⟨.inl rfl, hboth.2, h⟩
      · split
        · exact .inl hc0
        · split
          · rename_i hbelow
            exact h0.imp_right fun h => ⟨.inl rfl, hbelow, h⟩
          · exact .inl ⟨by rw [he], rfl⟩
    | confirm =>
      rw [speedSequencer_confirm he, speedInConfirm_eq]
      have h0 := fails (u := s) .noConfirm rfl he
      rw [he] at h0
      split
      · rename_i hbelow
        exact h0.imp_right fun h => ⟨.inr rfl, hbelow, h⟩
      · exact .inl ⟨by show trippedTo r s.seq.engine = _; rw [he], rfl⟩
  | stopped =>
    refine .inl ?_
    unfold speedSequencer
    rw [he]
    dsimp only
    unfold speedInStopped
    split
    · have hto : (enterState (.stopping .stopped) s).seq.engine = .stopping .stopped := by
        rw [enterState_engine]
        rfl
      refine ⟨by rw [hto]; rfl, ?_⟩
      unfold isInhibited
      rw [hto, he]
    · exact ⟨by rw [he], rfl⟩
  | layover =>
    refine .inl ?_
    unfold speedSequencer
    rw [he]
    dsimp only
    rw [hr, if_neg (by simp)]
    exact ⟨by rw [he], rfl⟩
  | running =>
    refine .inl ?_
    unfold speedSequencer
    rw [he]
    dsimp only
    unfold isInhibited
    rw [settleRow_seq]
    exact ⟨by rw [he], rfl⟩
  | stopping _ | retryWait | lockedOut _ | inhibited _ =>
    refine .inl ?_
    unfold speedSequencer
    rw [he]
    exact ⟨by rw [he], rfl⟩

end Sys2Proof.Machine

/-! PROOFS. The speed gate and the overspeed trip: what a completed and an abandoned gate leave (R1 to R4, R49). -/

namespace Sys2Proof.Machine

variable {s t u v w : State} {p : Params} {cmd : Instr} {n : Nat} {r : LockReason} {src : Option CutSource}

/-! ### A trip of a turning engine -/

/-- R54, R57: the record, the latch and the hold of a trip. -/
def tripRecorded (r : LockReason) (src : Option CutSource) (s : State) : State :=
  { s with prot := { s.prot with record := some (tripRecordOf r src s), tripLatch := true, holdTimer := some 0 } }

theorem trip_recorded (h : isInhibited s = false) : trip r src s = tripRequest r (tripRecorded r src s) :=
  if_neg (by rw [h]; decide)

/-- A trip in an attempt: the sequencer and the own claim of the attempt that ends. -/
theorem trip_starting {phase : Phase} (h : s.seq.engine = .starting phase) :
    (trip r src s).seq.engine = .stopping (.lockedOut r) ∧ (trip r src s).seq.attempts = s.seq.attempts
      ∧ (phase = .crank → claimOf .own (trip r src s).arb.claims = none)
      ∧ (phase = .fire → (trip r src s).arb = s.arb) := by
  have he : (tripRecorded r src s).seq.engine = .starting phase := h
  have hattempts : (closeClaim phase failedByte (tripRecorded r src s)).seq.attempts = s.seq.attempts := by
    rw [closeClaim_seq failedByte he]
    rfl
  obtain ⟨hclaims, -⟩ := closeClaim_claims failedByte he
  rw [trip_recorded (by unfold isInhibited; rw [h]), tripRequest_starting r he, enterState_engine, enterState_arb,
    enterState_seq]
  refine ⟨rfl, hattempts, fun hcrank => hclaims (.inr (by rw [he, hcrank])), fun hfire => ?_⟩
  subst hfire
  rfl

/-- In a state a trip has locked out a speed value brings nothing more. -/
theorem speedSequencer_locked (h : s.seq.engine = trippedTo r t.seq.engine) (hi : isInhibited t = false) :
    speedSequencer p s = s := by
  unfold isInhibited at hi
  unfold speedSequencer
  cases he : t.seq.engine with
  | inhibited k =>
    rw [he] at hi
    cases hi
  | stopping d =>
    rw [h, he]
    cases d <;> rfl
  | _ =>
    rw [h, he]
    rfl

/-- What a trip left stands through the judgements. -/
theorem Tripped.settle {record : TripRecord} (h : Tripped record s) : Tripped record (settle p s) := by
  have hk := settle_kept p s
  exact ⟨hk.tripRecord.trans h.record, hk.tripLatch.trans h.latch, hk.holdTimer.trans h.hold,
    settle_allOff_of_latch h.latch⟩

theorem atRest_of_meas (h : t.meas = s.meas) : atRest p t = atRest p s := by
  unfold atRest
  rw [h]

/-- The trip, and then the value's other effects. -/
theorem trip_then_speed (hi : isInhibited w = false) (hr : atRest p w = false) :
    Tripped (tripRecordOf .overspeed none w) (settle p (speedSequencer p (settle p (trip .overspeed none w))))
      ∧ (settle p (speedSequencer p (settle p (trip .overspeed none w)))).seq.engine = trippedTo .overspeed w.seq.engine
      ∧ speedSequencer p (settle p (trip .overspeed none w)) = settle p (trip .overspeed none w) := by
  obtain ⟨htripped, hengine, -⟩ := settle_after_trip (p := p) (v := trip .overspeed none w) hi rfl rfl (trip_apart _ _ w).meas
  rw [tripEngine_turning hr] at hengine
  have hmeas : (settle p (trip .overspeed none w)).meas = w.meas :=
    (settle_kept p _).meas.trans (trip_apart _ _ w).meas
  generalize settle p (trip .overspeed none w) = u at *
  have same := speedSequencer_locked (p := p) hengine hi
  rw [same]
  exact ⟨htripped.settle, (settle_turning ((atRest_of_meas hmeas).trans hr)).trans hengine, rfl⟩

/-- The value's other effects, and then the trip. -/
theorem speed_then_trip (hi : isInhibited w = false) (hr : atRest p w = false) :
    ∃ record, Tripped record (settle p (trip .overspeed none (settle p (speedSequencer p w))))
      ∧ record.reason = .overspeed ∧ record.source = none ∧ record.speed = w.meas.speed ∧ record.stalled = w.meas.stalled
      ∧ ((settle p (trip .overspeed none (settle p (speedSequencer p w)))).seq.engine = trippedTo .overspeed w.seq.engine
        ∨ (w.seq.engine = .starting .fire ∨ w.seq.engine = .starting .confirm) ∧ belowRoll p w = true
          ∧ p.crank.maxAttempts ≤ w.seq.attempts + 1
          ∧ (settle p (trip .overspeed none (settle p (speedSequencer p w)))).seq.engine
              = .stopping (.lockedOut .attempts)) := by
  have hmeas := (speedSequencer_spared p w).apart.meas
  have hsr : atRest p (speedSequencer p w) = false := (atRest_of_meas hmeas).trans hr
  have hto := speedSequencer_trippedTo (r := .overspeed) hr
  have hkept := settle_kept p (speedSequencer p w)
  have hengine := settle_turning hsr
  have hum : (settle p (speedSequencer p w)).meas = w.meas := hkept.meas.trans hmeas
  have hinhibited : isInhibited (settle p (speedSequencer p w)) = false := by
    unfold isInhibited
    rw [hengine]
    rcases hto with ⟨-, h⟩ | ⟨-, -, -, h⟩
    · exact h.trans hi
    · rw [h]
  rw [← hengine] at hto
  generalize settle p (speedSequencer p w) = u at *
  have hur : atRest p u = false := (atRest_of_meas hum).trans hr
  obtain ⟨htripped, he, -⟩ :=
    settle_after_trip (p := p) (v := trip .overspeed none u) hinhibited rfl rfl (trip_apart _ _ u).meas
  rw [tripEngine_turning hur] at he
  refine ⟨_, htripped, rfl, rfl, congrArg Measurement.speed hum, congrArg Measurement.stalled hum, ?_⟩
  rw [he]
  rcases hto with ⟨h, -⟩ | ⟨h1, h2, h3, h4⟩
  · exact .inl h
  · exact .inr ⟨h1, h2, h3, by rw [h4]; rfl⟩

/-- A value at the overspeed limit is no speed of an engine at rest. -/
theorem atRest_overspeed (hcomes : speedComes p s cmd n) (hover : p.protect.overspeed ≤ n)
    (hstopped : p.sense.stoppedSpeed ≤ p.protect.overspeed) : atRest p (withSpeed cmd n (useChoice s)) = false := by
  have h := atRest_withSpeed (p := p) (s := useChoice s) (cmd := cmd) (n := n) hcomes
  rw [h]
  exact decide_eq_false (by omega)

/-- Settles O8: both orders trip once; a value that crosses nothing leaves the protection unit's trips alone. -/
theorem overspeedTripsOnce : Obligations.OverspeedTripsOnce := by
  intro p s n hp hgate
  have hcomes : speedComes p s .pickupEdge n := .inl ⟨rfl, hgate⟩
  refine ⟨fun hover hlast hi hstopped => ?_, fun hn => ?_⟩
  · have hr := atRest_overspeed hcomes hover hstopped
    have hwi : isInhibited (withSpeed .pickupEdge n (useChoice s)) = false := hi
    have hspeed : (withSpeed .pickupEdge n (useChoice s)).meas.speed = n := rfl
    have hstalled : (withSpeed .pickupEdge n (useChoice s)).meas.stalled = false := rfl
    have hseq : (withSpeed .pickupEdge n (useChoice s)).seq = s.seq := rfl
    have hto : tripEngine p (atSpeed n s) .overspeed = trippedTo .overspeed s.seq.engine := tripEngine_turning hr
    have hroll : belowRoll p (withSpeed .pickupEdge n (useChoice s)) = true ↔ n < (profileOf p s).rollSpeed := by
      rw [belowRoll_iff, profileOf_withSpeed]
      rfl
    rw [hto]
    have run := exec_overspeed hp hcomes hover hlast hi
    generalize withSpeed .pickupEdge n (useChoice s) = w at *
    rcases run with run | run
    · obtain ⟨record, htripped, h1, h2, h3, h4, h5⟩ := speed_then_trip hwi hr
      rw [hseq, hroll] at h5
      exact ⟨_, record, run, htripped, h1, h2, h3.trans hspeed, h4.trans hstalled, h5⟩
    · obtain ⟨htripped, hengine, -⟩ := trip_then_speed hwi hr
      rw [hseq] at hengine
      exact ⟨_, _, run, htripped, rfl, rfl, hspeed, hstalled, .inl hengine⟩
  · have hw : Spared (atSpeed n s) (speedSequencer p (withSpeed .pickupEdge n s)) := speedSequencer_spared p _
    have hk := settle_kept p (speedSequencer p (withSpeed .pickupEdge n s))
    exact ⟨_, exec_speed hp hcomes hn, hk.tripRecord.trans hw.record, hk.tripLatch.trans hw.latch, hk.holdTimer.trans hw.hold⟩

/-- The crank trips, and the value is then ignored. -/
theorem crank_trip_then_speed (he : w.seq.engine = .starting .crank) (hr : atRest p w = false) :
    ∃ t, settle p (speedSequencer p (settle p (trip .overspeed none w))) = t
      ∧ t.seq.crankCount = w.seq.crankCount + 1 ∧ claimOf .own t.arb.claims = none ∧ t.seq.attempts = w.seq.attempts := by
  have hi : isInhibited w = false := by
    unfold isInhibited
    rw [he]
  obtain ⟨-, -, same⟩ := trip_then_speed (p := p) hi hr
  obtain ⟨hengine, hattempts, hclaims, -⟩ := trip_starting (r := .overspeed) (src := none) he
  obtain ⟨-, -, hcount⟩ := settle_after_trip (p := p) (v := trip .overspeed none w) hi rfl rfl (trip_apart _ _ w).meas
  obtain ⟨hengine1, harb1, hattempts1, -⟩ := settle_halted (p := p) hengine rfl
  rw [atRest_of_meas (trip_apart _ _ w).meas, hr] at hengine1
  rw [same]
  have hk := settle_kept p (settle p (trip .overspeed none w))
  obtain ⟨-, harb2, hattempts2, -⟩ := settle_halted (p := p) hengine1 rfl
  refine ⟨_, rfl, ?_, ?_, ?_⟩
  · rw [hk.crankCount, hcount]
    unfold cranksEnded
    rw [if_pos he]
  · rw [harb2, harb1]
    exact hclaims rfl
  · rw [hattempts2, hattempts1, hattempts]

/-- The crank is released, and FIRE trips. -/
theorem crank_speed_then_trip (he : w.seq.engine = .starting .crank)
    (hrelease : (profileOf p w).releaseSpeed ≤ w.meas.speed) :
    ∃ t, settle p (trip .overspeed none (settle p (speedSequencer p w))) = t
      ∧ t.seq.crankCount = w.seq.crankCount + 1 ∧ claimOf .own t.arb.claims = none ∧ t.seq.attempts = w.seq.attempts := by
  rw [speedSequencer_crank he, speedInCrank_eq, if_pos hrelease]
  obtain ⟨hengine, -, hattempts, hcount, -, harb, -⟩ := releaseCrank_state (marked p w)
  have hstill := settle_still (p := p) (quiet_phase hengine (by simp))
  have hclaims : claimOf .own (releaseCrank (marked p w)).arb.claims = none := by
    rw [harb, endCrankCounted_arb]
    exact claimOf_dropClaim_self _ _
  generalize releaseCrank (marked p w) = x at *
  have hue : (settle p x).seq.engine = .starting .fire := hstill.engine.trans hengine
  have huc : (settle p x).seq.crankCount = w.seq.crankCount + 1 := by
    rw [hstill.seq]
    exact hcount
  have hua : (settle p x).seq.attempts = w.seq.attempts := by
    rw [hstill.seq]
    exact hattempts
  have hul : claimOf .own (settle p x).arb.claims = none := by
    rw [hstill.arb]
    exact hclaims
  generalize settle p x = u at *
  have hi : isInhibited u = false := by
    unfold isInhibited
    rw [hue]
  obtain ⟨hengine1, hattempts1, -, harb1⟩ := trip_starting (r := .overspeed) (src := none) hue
  obtain ⟨-, -, hcount1⟩ := settle_after_trip (p := p) (v := trip .overspeed none u) hi rfl rfl (trip_apart _ _ u).meas
  obtain ⟨-, harb2, hattempts2, -⟩ := settle_halted (p := p) hengine1 rfl
  refine ⟨_, rfl, ?_, ?_, ?_⟩
  · rw [hcount1, huc]
    unfold cranksEnded
    rw [if_neg (by rw [hue]; simp)]
    simp
  · rw [harb2, harb1 rfl]
    exact hul
  · rw [hattempts2, hattempts1, hua]

/-- Settles O9: released and tripped, or tripped and ignored, the crank counts once. -/
theorem overspeedCrankCountsOnce : Obligations.OverspeedCrankCountsOnce := by
  intro p s n hp hgate hengine hrelease hover hlast hstopped
  have hcomes : speedComes p s .pickupEdge n := .inl ⟨rfl, hgate⟩
  have hi : isInhibited s = false := by
    unfold isInhibited
    rw [hengine]
  have hr := atRest_overspeed hcomes hover hstopped
  have hwe : (withSpeed .pickupEdge n (useChoice s)).seq.engine = .starting .crank := hengine
  have hwi : isInhibited (withSpeed .pickupEdge n (useChoice s)) = false := hi
  have hspeed : (withSpeed .pickupEdge n (useChoice s)).meas.speed = n := rfl
  have hprofile : profileOf p (withSpeed .pickupEdge n (useChoice s)) = profileOf p s := profileOf_withSpeed _ _ _
  have hseq : (withSpeed .pickupEdge n (useChoice s)).seq = s.seq := rfl
  have run := exec_overspeed hp hcomes hover hlast hi
  generalize withSpeed .pickupEdge n (useChoice s) = w at *
  rcases run with run | run
  · obtain ⟨record, htripped, -, -, -, -, hto⟩ := speed_then_trip hwi hr
    obtain ⟨t, ht, hcount, hclaims, hattempts⟩ :=
      crank_speed_then_trip hwe (by rw [hprofile, hspeed]; exact hrelease)
    rw [ht] at run htripped hto
    rw [hseq] at hcount hattempts
    refine ⟨t, run, hcount, ?_, hclaims, hattempts, htripped.off⟩
    rcases hto with h | ⟨h | h, -⟩
    · rw [h, hwe]
      rfl
    · rw [hwe] at h
      cases h
    · rw [hwe] at h
      cases h
  · obtain ⟨htripped, hto, -⟩ := trip_then_speed hwi hr
    obtain ⟨t, ht, hcount, hclaims, hattempts⟩ := crank_trip_then_speed hwe hr
    rw [ht] at run htripped hto
    rw [hseq] at hcount hattempts
    exact ⟨t, run, hcount, by rw [hto, hwe]; rfl, hclaims, hattempts, htripped.off⟩

end Sys2Proof.Machine

/-! PROOFS. What a new speed leaves where no block acts on it by itself, and the row it settles (R1 to R4, R84, R91). -/

namespace Sys2Proof.Machine

variable {s t u v w : State} {p : Params} {cmd : Instr} {n : Nat} {r : Row}

/-! ### A RUNNING station at its target -/

/-- A RUNNING station whose target is the row it stands on, its ground cap resting on GROUND-RELAY alone. -/
structure Aims (p : Params) (r : Row) (s : State) : Prop where
  running : s.seq.engine = .running
  current : s.step.current = some r
  target : targetAfter p s = some r
  present : (outputOf s.lines .loadPermit).present ≠ .sensedOn

/-- What the judgements leave of the row a station aims at. -/
structure RowStands (s t : State) : Prop where
  current : t.step.current = s.step.current
  settled : t.step.settled = s.step.settled
  settleTimer : t.step.settleTimer = s.step.settleTimer
  loadRow : t.step.loadRow = s.step.loadRow
  dwell : t.step.dwell = s.step.dwell
  laboringCap : t.prot.laboringCap = s.prot.laboringCap

theorem RowStands.trans (h : RowStands s t) (k : RowStands t u) : RowStands s u :=
  ⟨k.current.trans h.current, k.settled.trans h.settled, k.settleTimer.trans h.settleTimer,
    k.loadRow.trans h.loadRow, k.dwell.trans h.dwell, k.laboringCap.trans h.laboringCap⟩

theorem Aims.settleRound (h : Aims p r s) : Aims p r (settleRound p s) ∧ RowStands s (settleRound p s)
    ∧ (settleRound p s).step.staggerHold = none := by
  have hrk := settleRound_kept p s
  have hb := begun_step p s
  have hbcur : (begun p s).step.current = some r := by rw [hb]; exact h.current
  have hbtarget : (begun p s).step.target = some r := by rw [begun_target, h.target]
  have hbelow : targetBelow (begun p s) = false := by
    unfold targetBelow
    rw [hbcur, hbtarget]
    simp
  have hready : stepUpReady p (begun p s) r = false := by
    unfold stepUpReady
    rw [hbtarget]
    simp
  have hup : stepUpHolds p (begun p s) r = false := by
    unfold stepUpHolds
    rw [hready]
    rfl
  have hdown : stepDownHolds p (begun p s) = false := by
    unfold stepDownHolds
    rw [hbelow]
    rfl
  obtain ⟨hstep, hcap, hrun⟩ := settleRound_unstepped h.running h.current hup hdown
  rw [begun_laboringCap, hbelow, if_neg (by simp)] at hcap
  rw [settleStaggerHold_waits hbcur hready, hb] at hstep
  have hpresent : (outputOf (Machine.settleRound p s).lines .loadPermit).present ≠ .sensedOn := by
    rcases settleRound_present (p := p) h.running .loadPermit with hp | hp
    · rw [hp]
      exact h.present
    · rw [hp]
      simp
  have hground : groundHolds p (Machine.settleRound p s) = groundHolds p s := by
    have h1 : ((Machine.settleRound p s).lines.loadPermit.present == .sensedOn) = false := by simpa [outputOf] using hpresent
    have h2 : (s.lines.loadPermit.present == .sensedOn) = false := by simpa [outputOf] using h.present
    unfold groundHolds
    rw [hrk.lineOn, h1, h2]
  have htarget := targetAfter_settleRound h.running (availableNow_settleRound h.running hcap hground)
  refine ⟨⟨hrun, by rw [hstep]; exact h.current, htarget.trans h.target, hpresent⟩, ?_, by rw [hstep]⟩
  constructor
  · rw [hstep]
  · rw [hstep]
  · rw [hstep]
  · rw [hstep]
  · rw [hstep]
  · exact hcap

theorem Aims.settle (h : Aims p r s) : Aims p r (settle p s) ∧ RowStands s (settle p s)
    ∧ (Machine.settle p s).step.staggerHold = none := by
  obtain ⟨h1, k1, -⟩ := h.settleRound
  obtain ⟨h2, k2, -⟩ := h1.settleRound
  obtain ⟨h3, k3, hold⟩ := h2.settleRound
  exact ⟨h3, (k1.trans k2).trans k3, hold⟩

/-- The target depends on no more of the row than the caps and low idle. -/
theorem targetAfter_congr (hk : Kept s t) (hs : s.seq.engine = .running) (he : t.seq.engine = s.seq.engine)
    (hlines : t.lines = s.lines) (hcap : t.prot.laboringCap = s.prot.laboringCap)
    (hreached : t.step.lowIdleReached = s.step.lowIdleReached) : targetAfter p t = targetAfter p s := by
  have ha : availableNow p t = availableNow p s := by
    have hstale : lubeStaleHolds t = lubeStaleHolds s := by
      unfold lubeStaleHolds isRunning
      rw [he, hk.meas]
    have hground : groundHolds p t = groundHolds p s := by
      unfold groundHolds
      rw [hk.lineOn, hlines]
    unfold availableNow
    rw [hstale, hground, hcap, hk.derate1, hk.derate2, hk.hotStop]
  rw [targetAfter_eq (he.trans hs), targetAfter_eq hs, targetRow_aimed_congr hk he ha]
  rw [aimed_reached, aimed_reached, lowIdleHolds_settleOwnRecord hk he, hreached]

/-! ### The row a value settles (R84, R91) -/

/-- R48: the laboring cap once a row has settled. -/
def capCleared (r : Row) (s : State) : Option Row :=
  if s.prot.laboringCap = some r then none else s.prot.laboringCap

theorem settleRow_settles (hcur : s.step.current = some r) (hun : s.step.settled = false)
    (hband : inBandOf (tableInForce p s) r s.meas.speed = true) : settleRow p s = { s with
      step := { s.step with settled := true, settleTimer := none, loadRow := some r }
      prot := { s.prot with laboringCap := capCleared r s } } := by
  unfold settleRow
  rw [hcur]
  dsimp only
  rw [hun, hband]
  rfl

theorem settleRow_leaves (hcur : s.step.current = some r)
    (h : s.step.settled = true ∨ inBandOf (tableInForce p s) r s.meas.speed = false) : settleRow p s = s := by
  unfold settleRow
  rw [hcur]
  dsimp only
  rcases h with h | h
  · rw [h]
    rfl
  · rw [h, Bool.and_false]
    rfl

theorem settleRow_lines (p : Params) (s : State) : (settleRow p s).lines = s.lines := by
  unfold settleRow
  split
  · rfl
  · split <;> rfl

/-- A station whose row a value settles, its target the row once the cap has cleared. -/
theorem settle_settleRow (hrun : s.seq.engine = .running) (hcur : s.step.current = some r)
    (hun : s.step.settled = false) (hband : inBandOf (tableInForce p s) r s.meas.speed = true)
    (hpresent : (outputOf s.lines .loadPermit).present ≠ .sensedOn)
    (htarget : targetAfter p { s with prot := { s.prot with laboringCap := capCleared r s } } = some r) :
    (settle p (settleRow p s)).step.current = some r ∧ (settle p (settleRow p s)).step.settled = true
      ∧ (settle p (settleRow p s)).step.settleTimer = none ∧ (settle p (settleRow p s)).step.loadRow = some r
      ∧ (settle p (settleRow p s)).step.dwell = s.step.dwell
      ∧ (settle p (settleRow p s)).prot.laboringCap = capCleared r s := by
  have hsettles := settleRow_settles hcur hun hband
  have aims : Aims p r (settleRow p s) := by
    rw [hsettles]
    refine ⟨hrun, hcur, ?_, hpresent⟩
    rw [← htarget]
    exact targetAfter_congr { Kept.refl s with } hrun rfl rfl rfl rfl
  obtain ⟨-, stands, -⟩ := aims.settle
  have hcur' : (settleRow p s).step.current = some r := aims.current
  have hset : (settleRow p s).step.settled = true := by rw [hsettles]
  have htimer : (settleRow p s).step.settleTimer = none := by rw [hsettles]
  have hload : (settleRow p s).step.loadRow = some r := by rw [hsettles]
  have hdwell : (settleRow p s).step.dwell = s.step.dwell := by rw [hsettles]
  have hcap : (settleRow p s).prot.laboringCap = capCleared r s := by rw [hsettles]
  exact ⟨stands.current.trans hcur', stands.settled.trans hset, stands.settleTimer.trans htimer,
    stands.loadRow.trans hload, stands.dwell.trans hdwell, stands.laboringCap.trans hcap⟩

/-! ### A value offered -/

theorem Apart.chosen (h : Apart { s with choices := t.choices } t) (k : Apart { t with choices := u.choices } u) :
    Apart { s with choices := u.choices } u := by
  have h' : Apart { s with choices := u.choices } { t with choices := u.choices } := { h with choices := rfl }
  exact h'.trans k

theorem Apart.choose (h : Apart s t) : Apart { s with choices := t.choices } t := { h with choices := rfl }

/-- Whatever the order of its effects, a value leaves what no change of engine state moves. -/
theorem offerSpeed_apart (p : Params) (cmd : Instr) (n : Nat) (s : State) :
    Apart { withSpeed cmd n s with choices := (offerSpeed p (offered cmd n s)).choices } (offerSpeed p (offered cmd n s)) := by
  have settled (a : State) := (settle_apart p a).choose
  have tripped (a : State) := (trip_apart .overspeed none a).choose
  have judged (a : State) := (speedSequencer_spared p a).apart
  have hw : Apart { withSpeed cmd n s with choices := (withSpeed cmd n (useChoice s)).choices }
      (withSpeed cmd n (useChoice s)) := by
    have : withSpeed cmd n (useChoice s)
        = { withSpeed cmd n s with choices := (withSpeed cmd n (useChoice s)).choices } := by
      unfold withSpeed
      split <;> rfl
    rw [← this]
    exact .refl _
  unfold offerSpeed
  rw [compareSpeed_offered, compareSpeed_useChoice_offered]
  split
  · split
    · exact (((hw.chosen (judged _)).chosen (settled _)).chosen (tripped _)).chosen (settled _)
    · exact (((hw.chosen (tripped _)).chosen (settled _)).chosen (judged _)).chosen (settled _)
  · exact (judged _).chosen (settled _)

theorem offerSpeed_follows (hp : s.reader.applied = some p) : outputsFollow (offerSpeed p (offered cmd n s)) := by
  have applied {a b : State} (h : Apart { a with choices := b.choices } b) (ha : a.reader.applied = some p) :
      b.reader.applied = some p := h.applied ha
  have judged {a : State} (ha : a.reader.applied = some p) : (speedSequencer p a).reader.applied = some p :=
    applied (speedSequencer_spared p a).apart ha
  have tripped {a : State} (ha : a.reader.applied = some p) : (trip .overspeed none a).reader.applied = some p :=
    (trip_apart _ _ a).applied ha
  have settled {a : State} (ha : a.reader.applied = some p) : (settle p a).reader.applied = some p :=
    (settle_apart p a).applied ha
  have hw (a : State) (ha : a.reader.applied = some p) : (withSpeed cmd n a).reader.applied = some p := by
    rw [withSpeed_reader, ha]
  unfold offerSpeed
  rw [compareSpeed_offered, compareSpeed_useChoice_offered]
  split
  · split
    · exact settle_follows (tripped (settled (judged (hw (useChoice s) hp))))
    · exact settle_follows (judged (settled (tripped (hw (useChoice s) hp))))
  · exact settle_follows (judged (hw s hp))

/-- Where no block acts on a value by itself, it is all that the other conditions are judged with. -/
theorem speedSequencer_judged (hp : s.reader.applied = some p)
    (h : s.seq.engine = .stopped ∧ s.meas.speed ≤ p.sense.stoppedSpeed ∨ s.seq.engine = .starting .prep
      ∨ s.seq.engine = .running ∨ s.seq.engine = .retryWait ∨ (∃ k, s.seq.engine = .lockedOut k)
      ∨ ∃ k, s.seq.engine = .inhibited k) : Judged p s (settle p (speedSequencer p s)) := by
  have same (he : speedSequencer p s = s) : Judged p s (settle p (speedSequencer p s)) := by
    rw [he]
    exact settle_judged hp
  rcases h with ⟨h, hspeed⟩ | h | h | h | ⟨k, h⟩ | ⟨k, h⟩
  · refine same ?_
    unfold speedSequencer
    rw [h]
    dsimp only
    unfold speedInStopped
    rw [if_neg fun hturn => by have := hturn.2; omega]
  · exact same (by unfold speedSequencer; rw [h])
  · have hrow : speedSequencer p s = settleRow p s := by
      unfold speedSequencer
      rw [h]
    have happlied : (settleRow p s).reader.applied = some p := by rw [(settleRow_kept p s).reader, hp]
    have hj := settle_judged happlied
    rw [hrow]
    exact ⟨(settleRow_kept p s).trans hj.kept, hj.outputs, fun q =>
      (settleRow_still p s).trans (hj.still ((settleRow_still p s).quiet q))⟩
  · exact same (by unfold speedSequencer; rw [h])
  · exact same (by unfold speedSequencer; rw [h])
  · exact same (by unfold speedSequencer; rw [h])

/-! ### The gate -/

/-- Settles O6: the gate by its cases; in RUNNING a value in the band of an unsettled row settles it, and the rounds
leave the row there. -/
theorem pickupEdgeTimesGates : Obligations.PickupEdgeTimesGates := by
  intro p s hp
  refine ⟨fun hidle => ?_, fun htiming hcount => ?_, fun n hgate => ?_⟩
  · refine (next_withParams hp _).trans ?_
    rw [hidle]
    rfl
  · refine (next_withParams hp _).trans ?_
    rw [htiming]
    show Host.Outcome.next (if _ then _ else _) = _
    rw [if_neg (by omega)]
    rfl
  · have hcomes : speedComes p s .pickupEdge n := .inl ⟨rfl, hgate⟩
    have hapart := offerSpeed_apart p .pickupEdge n s
    have hmeas : (offerSpeed p (offered .pickupEdge n s)).meas = (withSpeed .pickupEdge n s).meas := hapart.meas
    have hlast : (offerSpeed p (offered .pickupEdge n s)).prot.lastSpeed = n := hapart.lastSpeed
    have hwp : (withSpeed .pickupEdge n s).reader.applied = some p := hp
    have hws : withSpeed .pickupEdge n s = atSpeed n s := if_pos rfl
    have quiet (hn : noOverspeed p s n) : offerSpeed p (offered .pickupEdge n s)
        = settle p (speedSequencer p (withSpeed .pickupEdge n s)) := by
      have h := (exec_offered hp hcomes).symm.trans (exec_speed hp hcomes hn)
      injection h
    refine ⟨_, exec_offered hp hcomes, hmeas, hlast, hapart, offerSpeed_follows hp, fun hn he => ?_,
      fun r hn hrun hcur hpresent => ?_⟩
    · rw [quiet hn, ← hws]
      refine speedSequencer_judged hwp (.inr ?_)
      rcases he with h | h | h | h
      · exact .inl h
      · exact .inr (.inl h)
      · exact .inr (.inr (.inl h))
      · exact .inr (.inr (.inr (.inl h)))
    · have hrow : speedSequencer p (withSpeed .pickupEdge n s) = settleRow p (withSpeed .pickupEdge n s) := by
        have he : (withSpeed .pickupEdge n s).seq.engine = .running := hrun
        unfold speedSequencer
        rw [he]
      have hband : inBandOf (tableInForce p (withSpeed .pickupEdge n s)) r (withSpeed .pickupEdge n s).meas.speed
          = (decide ((rowOf (tableInForce p s) r).setpoint ≤ n + (tableInForce p s).band)
            && decide (n ≤ (rowOf (tableInForce p s) r).setpoint + (tableInForce p s).band)) := rfl
      rw [quiet hn, hrow]
      dsimp only
      refine ⟨fun hun hlow hhigh htarget => ?_, fun hout htarget => ?_⟩
      · rw [decide_eq_true hlow, decide_eq_true hhigh] at hband
        exact settle_settleRow (s := withSpeed .pickupEdge n s) hrun hcur hun hband hpresent htarget
      · have hleaves : settleRow p (withSpeed .pickupEdge n s) = withSpeed .pickupEdge n s := by
          refine settleRow_leaves hcur (hout.imp id fun h => ?_)
          rw [hband]
          rcases h with h | h
          · rw [decide_eq_false (by omega), Bool.false_and]
          · rw [decide_eq_false (p := n ≤ _) (by omega), Bool.and_false]
        have aims : Aims p r (withSpeed .pickupEdge n s) := ⟨hrun, hcur, htarget, hpresent⟩
        obtain ⟨-, stands, -⟩ := aims.settle
        rw [hleaves]
        exact ⟨stands.current.trans hcur, stands.settled, stands.settleTimer, stands.loadRow, stands.laboringCap⟩

/-- Settles O7: the 0 of a stall never reaches the overspeed limit from below, and is judged like any other value. -/
theorem stallAbandonsGate : Obligations.StallAbandonsGate := by
  intro p s hp
  refine ⟨fun cmd hfails => ?_, fun us hstall hshort => ?_, fun hshort => ?_, fun hidle => ⟨?_, ?_⟩⟩
  · have hcomes : speedComes p s cmd 0 := .inr ⟨rfl, hfails⟩
    have run := exec_speed hp hcomes (by unfold noOverspeed; omega)
    have hws : withSpeed cmd 0 s = atStall s := if_neg hfails.command
    have hspared := speedSequencer_spared p (withSpeed cmd 0 s)
    have hkept := settle_kept p (speedSequencer p (withSpeed cmd 0 s))
    have hwp : (atStall s).reader.applied = some p := hp
    have hjudged := speedSequencer_judged (s := atStall s) hwp
    rw [hws] at run hspared hkept
    have happlied := hspared.apart.applied hwp
    have hmeas : (settle p (speedSequencer p (atStall s))).meas = (atStall s).meas := hkept.meas.trans hspared.apart.meas
    have hfollow := settle_follows happlied
    have hfrom := hspared.apart.chosen hkept.apart.choose
    have hlatch := hkept.tripLatch.trans hspared.latch
    have hrecord := hkept.tripRecord.trans hspared.record
    generalize settle p (speedSequencer p (atStall s)) = t at *
    refine ⟨t, run, ?_, ?_, ?_, hfrom.lastSpeed, ?_, hfollow, hrecord, hlatch, fun he => ?_⟩
    · rw [hmeas]
      rfl
    · rw [hmeas]
      rfl
    · rw [hmeas]
      rfl
    · rw [hmeas]
      exact hfrom
    · rw [hmeas]
      refine hjudged ?_
      rcases he with h | h
      · exact .inl ⟨h, Nat.zero_le _⟩
      · exact .inr h
  · refine (next_withParams hp _).trans ?_
    rw [if_neg]
    unfold stallDue
    rw [Bool.and_eq_true]
    exact fun h => not_timerReached hstall hshort h.2
  · refine (next_withParams hp _).trans ?_
    rw [if_neg]
    unfold counterFull
    rw [Bool.and_eq_true, decide_eq_true_iff]
    omega
  · refine (next_withParams hp _).trans ?_
    rw [if_neg]
    unfold stallDue
    rw [hidle]
    simp
  · refine (next_withParams hp _).trans ?_
    rw [if_neg]
    unfold counterFull
    rw [hidle]
    simp

end Sys2Proof.Machine

/-! PROOFS. Input lines: the debounce, the ground cap and its off command, and the change of notch table (R47, R58,
R76). -/

namespace Sys2Proof.Machine

variable {s t u v w : State} {p : Params} {r : Row}

/-! ### The off command for a ground (R47) -/

theorem settleRow_groundOff (p : Params) (s : State) : (settleRow p s).prot.groundOff = s.prot.groundOff := by
  unfold settleRow
  split
  · rfl
  · split <;> rfl

theorem settleSteps_groundOff (p : Params) :
    ∀ (n : Nat) (s : State), (settleSteps p n s).prot.groundOff = s.prot.groundOff
  | 0, _ => rfl
  | n + 1, s => by
    unfold settleSteps
    split
    · rfl
    · rename_i r _
      split
      · rw [settleSteps_groundOff p n, afterStep, settleRow_groundOff]
        unfold stepUp requestMade
        rw [settleLubeTimer, requestFrame_eq]
        rfl
      · split
        · rw [settleSteps_groundOff p n, afterStep, settleRow_groundOff]
          rfl
        · rfl

theorem settleStepper_groundOff (p : Params) (s : State) : (settleStepper p s).prot.groundOff = s.prot.groundOff := by
  have hreport (v : State) : (settleReport v).prot.groundOff = v.prot.groundOff := by
    unfold settleReport
    split <;> rfl
  show (settleSteps p 9 _).prot.groundOff = _
  rw [settleSteps_groundOff, hreport]
  rfl

/-- What a round leaves of the off command is what it judged with the caps. -/
theorem settleRound_groundOff (p : Params) (s : State) :
    (settleRound p s).prot.groundOff = groundOffAfter p (settleOwnRecord p (settleArrival p s)) := by
  unfold settleRound
  dsimp only
  generalize settleOwnRecord p (settleArrival p s) = a
  have hb : (settleStepper p (settleMakeUp p (settleCaps p a))).prot.groundOff = groundOffAfter p a := by
    rw [settleStepper_groundOff]
    rfl
  generalize settleStepper p (settleMakeUp p (settleCaps p a)) = b at hb ⊢
  have hc : (settleHotTimer (settleLubeTimer p (settleConfirm p (settlePrelube p b)))).prot.groundOff
      = groundOffAfter p a := by
    rw [← hb]
    show (settlePrelube p b).prot.groundOff = _
    unfold settlePrelube
    split <;> rfl
  generalize settleHotTimer (settleLubeTimer p (settleConfirm p (settlePrelube p b))) = c at hc ⊢
  have later := ((settleEligible_later p c).trans (settleWatch_later p _)).trans (settleGrant_later p _)
  show (settleGrant p (settleWatch p (settleEligible p c))).prot.groundOff = _
  rw [later.prot]
  exact hc

theorem enterState_groundOff (e : EngineState) (s : State) : (enterState e s).prot.groundOff = s.prot.groundOff := by
  unfold enterState changeLayover clearStepper startStepper endIntent
  dsimp only
  split_ifs <;> rfl

theorem enterPrep_groundOff (s : State) : (enterPrep s).prot.groundOff = s.prot.groundOff := by
  unfold enterPrep postOwnClaim requestMade
  rw [requestFrame_prot]
  exact enterState_groundOff _ s

theorem settleArrival_groundOff (p : Params) (s : State) : (settleArrival p s).prot.groundOff = s.prot.groundOff := by
  unfold settleArrival
  split
  · split
    · unfold arriveAt
      split
      · exact enterState_groundOff _ _
      · exact enterState_groundOff _ _
      · exact enterState_groundOff _ _
      · exact enterState_groundOff _ _
      · exact enterPrep_groundOff _
    · rfl
  · rfl

theorem arriveAt_lines (d : StopDest) (s : State) : (arriveAt d s).lines = s.lines := by
  unfold arriveAt
  split
  · exact enterState_lines _ _
  · exact enterState_lines _ _
  · exact enterState_lines _ _
  · exact enterState_lines _ _
  · exact (enterPrep_blocks s).1

theorem settleArrival_lines (p : Params) (s : State) :
    (settleArrival p s).lines = s.lines ∨ (settleArrival p s).lines = (settleOutputs p s).lines := by
  unfold settleArrival
  split
  · split
    · exact .inr (arriveAt_lines _ _)
    · exact .inl rfl
  · exact .inl rfl

theorem settleOutputs_line (p : Params) (s : State) (out : Output) :
    outputOf (settleOutputs p s).lines out = judgeLine (resolvedCommand s out) (sensedOn s out) (outputOf s.lines out) := by
  cases out <;> rfl

/-! ### The ground cap lifted -/

/-- No ground cap's condition holds: GROUND-RELAY off, and no LOAD-PERMIT sensed on against its command. -/
structure Ungrounded (p : Params) (s : State) : Prop where
  relay : lineOn p s .groundRelay = false
  present : (outputOf s.lines .loadPermit).present ≠ .sensedOn

theorem Ungrounded.settleOutputs (h : Ungrounded p s) :
    (outputOf (settleOutputs p s).lines .loadPermit).present ≠ .sensedOn := by
  rw [settleOutputs_line]
  rcases judgeLine_present (resolvedCommand s .loadPermit) (sensedOn s .loadPermit) (outputOf s.lines .loadPermit) with k | k
  · rw [k]
    exact h.present
  · rw [k]
    simp

theorem Ungrounded.settleArrival (h : Ungrounded p s) : Ungrounded p (settleArrival p s) := by
  refine ⟨by rw [(settleArrival_kept p s).lineOn, h.relay], ?_⟩
  rcases settleArrival_lines p s with k | k
  · rw [k]
    exact h.present
  · rw [k]
    exact h.settleOutputs

theorem Ungrounded.groundHolds (h : Ungrounded p s) : groundHolds p s = false := by
  have hpresent := h.present
  unfold Machine.groundHolds
  rw [h.relay]
  simpa [outputOf] using hpresent

theorem Ungrounded.settleRound (h : Ungrounded p s) : Ungrounded p (settleRound p s) := by
  obtain ⟨v, hv, hlines⟩ := settleRound_lines p s
  refine ⟨by rw [(settleRound_kept p s).lineOn, h.relay], ?_⟩
  have hpresent := h.settleArrival.present
  rw [← hlines] at hpresent
  rw [hv]
  show (outputOf (Machine.settleOutputs p v).lines .loadPermit).present ≠ .sensedOn
  rw [settleOutputs_line]
  rcases judgeLine_present (resolvedCommand v .loadPermit) (sensedOn v .loadPermit) (outputOf v.lines .loadPermit) with k | k
  · rw [k]
    exact hpresent
  · rw [k]
    simp

/-- What the last round judges the caps with. -/
theorem Ungrounded.judged (h : Ungrounded p s) : Ungrounded p (settleOwnRecord p (Machine.settleArrival p s)) :=
  ⟨by rw [(settleOwnRecord_kept p _).lineOn, h.settleArrival.relay],
    by rw [(settleOwnRecord_blocks p _).2]; exact h.settleArrival.present⟩

theorem Ungrounded.settle (h : Ungrounded p s) :
    (settle p s).prot.groundCap = none ∧ ground (settle p s) = false ∧ (settle p s).prot.groundOff = false := by
  have hj := h.settleRound.settleRound.judged
  have hcap := (settleRound_caps p (Machine.settleRound p (Machine.settleRound p s))).ground
  have hoff := settleRound_groundOff p (Machine.settleRound p (Machine.settleRound p s))
  have hnone : (settleCaps p (settleOwnRecord p (Machine.settleArrival p
      (Machine.settleRound p (Machine.settleRound p s))))).prot.groundCap = none := by
    show (if Machine.groundHolds p _ then some (1 : Row) else none) = none
    rw [hj.groundHolds]
    rfl
  rw [hnone] at hcap
  unfold groundOffAfter at hoff
  rw [hj.relay, hj.groundHolds, Bool.and_false, Bool.or_false] at hoff
  unfold Machine.settle ground
  rw [hcap]
  exact ⟨rfl, rfl, hoff⟩

/-! ### The ground cap held by LOAD-PERMIT's own disagreement -/

/-- LOAD-PERMIT is sensed on against the off command that a ground gave. -/
structure Grounded (s : State) : Prop where
  off : s.prot.groundOff = true
  present : (outputOf s.lines .loadPermit).present = .sensedOn
  command : (outputOf s.lines .loadPermit).command = false
  sense : sensedOn s .loadPermit = true

theorem Grounded.groundHolds (h : Grounded s) : groundHolds p s = true := by
  have hpresent : s.lines.loadPermit.present = .sensedOn := h.present
  unfold Machine.groundHolds
  rw [hpresent]
  simp

theorem Grounded.resolved (h : Grounded s) : resolvedCommand s .loadPermit = false := by
  unfold resolvedCommand protectionOff
  rw [h.off]
  simp

theorem Grounded.judgeLine (h : Grounded s) :
    judgeLine (resolvedCommand s .loadPermit) (sensedOn s .loadPermit) (outputOf s.lines .loadPermit)
      = outputOf s.lines .loadPermit := by
  have hpresent := h.present
  have hcommand := h.command
  rw [h.resolved, h.sense]
  generalize outputOf s.lines .loadPermit = l at hpresent hcommand ⊢
  unfold Machine.judgeLine
  rw [if_neg (by simp), if_neg]
  · rw [← hcommand]
  · rintro (k | ⟨-, k⟩)
    · exact k hcommand.symm
    · rw [hpresent] at k
      cases k

theorem Grounded.of_line (h : Grounded s) (hk : Kept s t) (hoff : t.prot.groundOff = true)
    (hline : outputOf t.lines .loadPermit = outputOf s.lines .loadPermit) : Grounded t :=
  ⟨hoff, by rw [hline, h.present], by rw [hline, h.command], by rw [hk.apart.sensedOn, h.sense]⟩

theorem Grounded.settleArrival (h : Grounded s) : Grounded (settleArrival p s) := by
  refine h.of_line (settleArrival_kept p s) ((settleArrival_groundOff p s).trans h.off) ?_
  rcases settleArrival_lines p s with k | k
  · rw [k]
  · rw [k, settleOutputs_line, h.judgeLine]

theorem Grounded.judged (h : Grounded s) : Grounded (settleOwnRecord p (Machine.settleArrival p s)) := by
  have ha := h.settleArrival (p := p)
  obtain ⟨hprot, hlines⟩ := settleOwnRecord_blocks p (Machine.settleArrival p s)
  exact ha.of_line (settleOwnRecord_kept p _) (by rw [hprot, ha.off]) (by rw [hlines])

theorem Grounded.settleRound (h : Grounded s) : Grounded (settleRound p s) := by
  have hj := h.judged (p := p)
  have hoff : (Machine.settleRound p s).prot.groundOff = true := by
    rw [settleRound_groundOff]
    unfold groundOffAfter
    rw [hj.off, hj.groundHolds]
    simp
  have hkept := settleRound_kept p s
  obtain ⟨v, hv, hlines⟩ := settleRound_lines p s
  have hgv : Grounded v := by
    have ha := h.settleArrival (p := p)
    have hvs : sensedOn (settleLamps (settleOutputs p v)) .loadPermit = sensedOn v .loadPermit :=
      (settleOutputs_kept p v).apart.sensedOn .loadPermit
    have hvoff : v.prot.groundOff = true := by
      rw [hv] at hoff
      exact hoff
    refine ⟨hvoff, by rw [hlines, ha.present], by rw [hlines, ha.command], ?_⟩
    rw [← hvs, ← hv, hkept.apart.sensedOn, h.sense]
  refine h.of_line hkept hoff ?_
  have ha : outputOf (Machine.settleArrival p s).lines .loadPermit = outputOf s.lines .loadPermit := by
    rcases settleArrival_lines p s with k | k
    · rw [k]
    · rw [k, settleOutputs_line, h.judgeLine]
  rw [hv]
  show outputOf (settleOutputs p v).lines .loadPermit = _
  rw [settleOutputs_line, hgv.judgeLine, hlines, ha]

theorem Grounded.settle (h : Grounded s) :
    (settle p s).prot.groundCap = some 1 ∧ (settle p s).prot.groundOff = true
      ∧ (outputOf (settle p s).lines .loadPermit).command = false := by
  have h2 := h.settleRound (p := p) |>.settleRound (p := p)
  have h3 := h2.settleRound (p := p)
  have hcap := (settleRound_caps p (Machine.settleRound p (Machine.settleRound p s))).ground
  have hone : (settleCaps p (settleOwnRecord p (Machine.settleArrival p
      (Machine.settleRound p (Machine.settleRound p s))))).prot.groundCap = some 1 := by
    show (if Machine.groundHolds p _ then some (1 : Row) else none) = some 1
    rw [(h2.judged (p := p)).groundHolds]
    rfl
  rw [hone] at hcap
  unfold Machine.settle
  exact ⟨hcap, h3.off, h3.command⟩

/-- GROUND-RELAY on: the cap, and LOAD-PERMIT off. -/
theorem settle_groundRelay (h : lineOn p s .groundRelay = true) :
    (settle p s).prot.groundCap = some 1 ∧ ground (settle p s) = true ∧ (settle p s).prot.available ≤ 1
      ∧ (outputOf (settle p s).lines .loadPermit).command = false := by
  obtain ⟨v, hkept, -, hcaps⟩ := settle_caps p s
  have hholds : groundHolds p v = true := by
    unfold groundHolds
    rw [hkept.lineOn, h]
    rfl
  have hone : (settleCaps p v).prot.groundCap = some 1 := by
    show (if groundHolds p v then some (1 : Row) else none) = some 1
    rw [hholds]
    rfl
  have havailable : (settleCaps p v).prot.available ≤ capRow (settleCaps p v).prot.groundCap :=
    (availableOf_le _ _ _ _).2.2.1
  rw [hone] at havailable
  rw [← hcaps.ground] at hone
  rw [← hcaps.available] at havailable
  have hpermit : (settle p s).step.loadPermit = false := by
    have hstanding := (settle_standing p s).loadPermit
    by_contra hon
    obtain ⟨-, -, -, hoff, -⟩ := hstanding.1 (by simpa using hon)
    rw [(settle_kept p s).lineOn, h] at hoff
    cases hoff
  refine ⟨hone, by unfold ground; rw [hone]; rfl, havailable, ?_⟩
  rw [(settle_outputs p s).1]
  unfold resolvedCommand
  rw [hpermit]
  rfl

/-! ### The change of notch table (R76) -/

/-- A row whose setpoint has changed: unsettled, before the speed that stands is judged. -/
def unsettled (s : State) : State :=
  { s with step := { s.step with settled := false, settleTimer := some 0, staggerHold := none } }

theorem tableChanged_row {old new : Config.NotchTable} (hcur : s.step.current = some r) :
    tableChanged p old new s
      = if (rowOf old r).setpoint = (rowOf new r).setpoint then s else settleRow p (unsettled s) := by
  unfold tableChanged
  rw [hcur]
  rfl

theorem tableChanged_judged (old new : Config.NotchTable) (s : State) :
    Kept s (tableChanged p old new s) ∧ Still s (tableChanged p old new s) := by
  have hk : Kept s (unsettled s) := { Kept.refl s with }
  have hs : Still s (unsettled s) := ⟨rfl, rfl, id, rfl⟩
  cases hcur : s.step.current with
  | none =>
    unfold tableChanged
    rw [hcur]
    exact ⟨.refl s, .refl s⟩
  | some r =>
    rw [tableChanged_row hcur]
    split
    · exact ⟨.refl s, .refl s⟩
    · exact ⟨hk.trans (settleRow_kept p _), hs.trans (settleRow_still p _)⟩

/-! ### What a debounced change moves -/

/-- A handed-on change leaves the input lines, and moves no more outside the demand unit than an engine state does. -/
structure HandedOn (s t : State) : Prop where
  apart : Apart { s with demand := t.demand } t
  inputs : t.demand.inputs = s.demand.inputs

theorem HandedOn.of_apart (h : Apart s t) : HandedOn s t where
  apart := { h with demand := rfl }
  inputs := by rw [h.demand]

theorem HandedOn.trans (h : HandedOn s t) (k : HandedOn t u) : HandedOn s u where
  apart := (h.apart.with_demand u.demand).trans k.apart
  inputs := k.inputs.trans h.inputs

theorem inputTaken_moved (line : InputLine) (s : State) : Apart { s with demand := (inputTaken line s).demand } (inputTaken line s) :=
  .of_blocks

theorem handOn_handed (p : Params) (before : State) (line : InputLine) (on : Bool) (s : State) :
    HandedOn s (handOn p before line on s) := by
  have same : HandedOn s s := .of_apart (.refl s)
  have code : HandedOn s (takeCode p s) := by
    refine ⟨?_, (takeCode_demand p s).1⟩
    unfold takeCode
    split
    · exact .of_blocks
    · split
      · exact .of_blocks
      · exact .refl s
  have start : HandedOn s (startPress p s) := by
    have hcount : HandedOn s (pressCounted p s) := by
      obtain ⟨k, hk, -⟩ := pressCounted_only p s
      rw [hk]
      exact ⟨.of_blocks, rfl⟩
    rw [startPress_eq]
    exact hcount.trans (.of_apart (startRequest_kept p _ _).apart)
  unfold handOn
  cases line with
  | handle1 | handle2 | handle3 | handle4 => exact code
  | cabActive =>
    cases on with
    | true =>
      show HandedOn s (cabOn p s)
      refine ⟨?_, by rw [cabOn_demand]⟩
      rw [cabOn_eq]
      exact .of_blocks
    | false => exact ⟨.of_blocks, rfl⟩
  | runIsolate =>
    cases on with
    | true => exact .of_apart (askAgain_apart p s)
    | false => exact same
  | startPb =>
    cases on with
    | true => exact start
    | false => exact same
  | stopPb =>
    cases on with
    | true => exact .of_apart (stopPress_apart p s)
    | false => exact same
  | estop =>
    cases on with
    | true =>
      show HandedOn s (requestFrame (.made .fuelCut) (trip .fuelCut (some .localEstop) s))
      refine .of_apart ((trip_apart .fuelCut (some .localEstop) s).trans ?_)
      rw [requestFrame_eq]
      exact .of_blocks
    | false => exact same
  | derateSelect => exact .of_apart (tableChanged_judged _ _ s).1.apart
  | reverserCentre | brakeSet | groundRelay => exact same

/-- A debounced change, handed on or not. -/
theorem takeLevel_handed (p : Params) (line : InputLine) (s : State) : HandedOn (inputTaken line s) (takeLevel p line s) := by
  unfold takeLevel
  dsimp only
  split
  · exact .of_apart (settle_apart p _)
  · exact (handOn_handed p s line _ (inputTaken line s)).trans (.of_apart (settle_apart p _))

/-- Where nothing is handed on, the changed input is all that the blocks judge. -/
theorem settle_inputTaken_judged {line : InputLine} (hp : s.reader.applied = some p) :
    Judged p { s with demand := { s.demand with inputs := (settle p (inputTaken line s)).demand.inputs } }
      (settle p (inputTaken line s)) := by
  have hj := settle_judged (s := inputTaken line s) hp
  have hinputs : (settle p (inputTaken line s)).demand.inputs = (inputTaken line s).demand.inputs := by
    rw [hj.kept.demand]
  rw [hinputs]
  exact hj

/-! ### DERATE-SELECT (R76) -/

/-- A RUNNING row at its target after the change of table. -/
theorem settle_tableChanged {old new : Config.NotchTable} (hnew : tableInForce p s = new)
    (hrun : s.seq.engine = .running) (hcur : s.step.current = some r) (htarget : targetAfter p s = some r)
    (hpresent : (outputOf s.lines .loadPermit).present ≠ .sensedOn) (hcap : s.prot.laboringCap = none) :
    let t := settle p (tableChanged p old new s)
    t.step.current = some r ∧ t.step.dwell = s.step.dwell ∧ t.lines.speedSet = speedDuty new r
      ∧ ((rowOf old r).setpoint ≠ (rowOf new r).setpoint → inBandOf new r s.meas.speed = false →
          t.step.settled = false ∧ t.step.settleTimer = some 0 ∧ t.step.staggerHold = none
          ∧ t.step.loadRow = s.step.loadRow)
      ∧ ((rowOf old r).setpoint ≠ (rowOf new r).setpoint → inBandOf new r s.meas.speed = true →
          t.step.settled = true ∧ t.step.settleTimer = none ∧ t.step.loadRow = some r)
      ∧ ((rowOf old r).setpoint = (rowOf new r).setpoint →
          t.step.settled = s.step.settled ∧ t.step.settleTimer = s.step.settleTimer
          ∧ t.step.loadRow = s.step.loadRow) := by
  intro t
  have hk : Kept s (unsettled s) := { Kept.refl s with }
  have hutarget : targetAfter p (unsettled s) = some r := (targetAfter_congr hk hrun rfl rfl rfl rfl).trans htarget
  have hnone : capCleared r (unsettled s) = none := by
    have h : (unsettled s).prot.laboringCap = none := hcap
    unfold capCleared
    rw [h]
    rfl
  have hprot : { (unsettled s) with prot := { (unsettled s).prot with laboringCap := capCleared r (unsettled s) } }
      = unsettled s := by
    rw [hnone, ← hcap]
    rfl
  have speedSet (h : (settle p (tableChanged p old new s)).seq.engine = .running)
      (hc : (settle p (tableChanged p old new s)).step.current = some r) : t.lines.speedSet = speedDuty new r := by
    have hkept := (tableChanged_judged (p := p) old new s).1.trans (settle_kept p _)
    have hset := (settle_outputs p (tableChanged p old new s)).2.1
    unfold speedSetOf at hset
    rw [h, hc, hkept.tableInForce, hnew] at hset
    exact hset
  have hchanged := tableChanged_row (p := p) (old := old) (new := new) hcur
  have hband : inBandOf (tableInForce p (unsettled s)) r (unsettled s).meas.speed = inBandOf new r s.meas.speed := by
    rw [hk.tableInForce, hnew]
    rfl
  by_cases hsame : (rowOf old r).setpoint = (rowOf new r).setpoint
  · rw [if_pos hsame] at hchanged
    have aims : Aims p r s := ⟨hrun, hcur, htarget, hpresent⟩
    obtain ⟨done, stands, -⟩ := aims.settle
    have ht : t = settle p s := by
      show settle p (tableChanged p old new s) = _
      rw [hchanged]
    rw [hchanged] at speedSet
    have hspeed := speedSet done.running done.current
    rw [ht] at hspeed ⊢
    exact ⟨done.current, stands.dwell, hspeed, fun h => absurd hsame h, fun h => absurd hsame h,
      fun _ => ⟨stands.settled, stands.settleTimer, stands.loadRow⟩⟩
  · rw [if_neg hsame] at hchanged
    have ht : t = settle p (settleRow p (unsettled s)) := by
      show settle p (tableChanged p old new s) = _
      rw [hchanged]
    rw [hchanged] at speedSet
    cases hin : inBandOf new r s.meas.speed with
    | false =>
      rw [hin] at hband
      have hleaves : settleRow p (unsettled s) = unsettled s := settleRow_leaves hcur (.inr hband)
      have aims : Aims p r (unsettled s) := ⟨hrun, hcur, hutarget, hpresent⟩
      obtain ⟨done, stands, hold⟩ := aims.settle
      rw [hleaves] at ht speedSet
      have hspeed := speedSet done.running done.current
      rw [ht] at hspeed ⊢
      exact ⟨done.current, stands.dwell, hspeed, fun _ _ => ⟨stands.settled, stands.settleTimer, hold, stands.loadRow⟩,
        (fun _ h => by cases h), fun h => absurd h hsame⟩
    | true =>
      rw [hin] at hband
      have h := settle_settleRow (p := p) (s := unsettled s) hrun hcur rfl hband hpresent (by rw [hprot]; exact hutarget)
      obtain ⟨hc, hset, htimer, hload, hdwell, -⟩ := h
      have hengine : (settle p (settleRow p (unsettled s))).seq.engine = .running := by
        have hrow : (settleRow p (unsettled s)).seq.engine = .running := by
          rw [settleRow_seq]
          exact hrun
        rw [settle_engine_quiet (quiet_of_restful (by rw [hrow]; rfl)), hrow]
      have hspeed := speedSet hengine hc
      rw [ht] at hspeed ⊢
      exact ⟨hc, hdwell, hspeed, (fun _ h => by cases h), fun _ _ => ⟨hset, htimer, hload⟩, fun h => absurd h hsame⟩

theorem tableInForce_inputTaken (hon : goesOn p s .derateSelect ∨ goesOff p s .derateSelect) :
    tableInForce p (inputTaken .derateSelect s) = if lineOn p s .derateSelect then p.notch else p.notchAlt := by
  unfold tableInForce
  rw [inputTaken_lineOn]
  rcases hon with ⟨-, hbefore, hafter⟩ | ⟨-, hbefore, hafter⟩
  · rw [hbefore, hafter]
    rfl
  · rw [hbefore, hafter]
    rfl

/-- A DERATE-SELECT that has gone on or off. -/
theorem exec_derateSelect (hp : s.reader.applied = some p)
    (hchange : goesOn p s .derateSelect ∨ goesOff p s .derateSelect) : exec (.debounceTimeout .derateSelect) s
      = .next (settle p (tableChanged p (tableInForce p s) (tableInForce p (inputTaken .derateSelect s))
          (inputTaken .derateSelect s))) := by
  rcases hchange with h | h
  · exact debounceTimeout_goesOn hp h
  · exact debounceTimeout_goesOff hp h

/-- Settles O21: the debounce of every line, and what GROUND-RELAY and DERATE-SELECT hand on. -/
theorem inputsAreDebounced : Obligations.InputsAreDebounced := by
  refine ⟨fun s line => ⟨fun level => ⟨_, rfl, rfl, ?_, fun m hm => inputOf_setInput_other _ _ hm⟩, fun hd hne => ?_,
    fun h => ?_⟩, fun p s hp => ⟨fun hon => ?_, fun hoff => ?_, fun hchange => ?_⟩⟩
  · exact (inputOf_setInput_self _ _ _).trans (rawChange_eq _ _)
  · have hdue := (debounceDue_iff _).2 ⟨hd, hne⟩
    have hself : inputOf (inputTaken line s).demand.inputs line
        = { inputOf s.demand.inputs line with settled := some (inputOf s.demand.inputs line).raw } :=
      inputOf_setInput_self _ _ _
    have hother (m : InputLine) (hm : m ≠ line) :
        inputOf (inputTaken line s).demand.inputs m = inputOf s.demand.inputs m := inputOf_setInput_other _ _ hm
    cases happ : s.reader.applied with
    | none =>
      have run : exec (.debounceTimeout line) s = .next (inputTaken line s) := by
        show execDebounceTimeout line s = _
        unfold execDebounceTimeout
        rw [if_pos hdue, happ]
        rfl
      exact ⟨_, run, hself, hother, .of_blocks, fun _ => rfl⟩
    | some p =>
      have run := debounceTimeout_due happ hdue
      obtain ⟨hapart, hinputs⟩ := takeLevel_handed p line s
      generalize takeLevel p line s = t at *
      exact ⟨t, run, by rw [hinputs, hself], fun m hm => by rw [hinputs, hother m hm], hapart, nofun⟩
  · show execDebounceTimeout line s = _
    unfold execDebounceTimeout
    rw [if_neg]
    rw [debounceDue_iff]
    rintro ⟨hd, hne⟩
    rcases h with h | h
    · omega
    · exact hne h
  · have run : exec (.debounceTimeout .groundRelay) s = .next (settle p (inputTaken .groundRelay s)) :=
      debounceTimeout_goesOn hp hon
    have hline : lineOn p (inputTaken .groundRelay s) .groundRelay = true := (inputTaken_lineOn p _ s).trans hon.2.2
    obtain ⟨hcap, hground, havailable, hcommand⟩ := settle_groundRelay hline
    exact ⟨_, run, settle_inputTaken_judged hp, hcap, hground, havailable, hcommand⟩
  · have run : exec (.debounceTimeout .groundRelay) s = .next (settle p (inputTaken .groundRelay s)) :=
      debounceTimeout_goesOff hp hoff
    have hline : lineOn p (inputTaken .groundRelay s) .groundRelay = false := (inputTaken_lineOn p _ s).trans hoff.2.2
    refine ⟨_, run, settle_inputTaken_judged hp, fun hpresent => ?_, fun hpresent hcommand hsense hground => ?_⟩
    · exact Ungrounded.settle ⟨hline, hpresent⟩
    · exact Grounded.settle ⟨hground, hpresent, hcommand, hsense⟩
  · dsimp only
    have run := exec_derateSelect hp hchange
    have hnew := tableInForce_inputTaken hchange
    rw [hnew] at run
    have haims (r : Row) := settle_tableChanged (p := p) (s := inputTaken .derateSelect s) (r := r)
      (old := tableInForce p s) hnew
    generalize (if lineOn p s .derateSelect = true then p.notch else p.notchAlt) = other at *
    obtain ⟨hk, hs⟩ := tableChanged_judged (p := p) (tableInForce p s) other (inputTaken .derateSelect s)
    have happlied : (tableChanged p (tableInForce p s) other (inputTaken .derateSelect s)).reader.applied = some p := by
      rw [hk.reader]
      exact hp
    have hj := settle_judged happlied
    have hjudged : Judged p (inputTaken .derateSelect s)
        (settle p (tableChanged p (tableInForce p s) other (inputTaken .derateSelect s))) :=
      ⟨hk.trans hj.kept, hj.outputs, fun q => hs.trans (hj.still (hs.quiet q))⟩
    have hinputs := congrArg DemandUnit.inputs hjudged.kept.demand
    refine ⟨_, run, ?_, (hjudged.kept.tableInForce p).trans hnew, fun r hrun hcur htarget hpresent hcap =>
      haims r hrun hcur htarget hpresent hcap⟩
    generalize settle p (tableChanged p (tableInForce p s) other (inputTaken .derateSelect s)) = t at *
    rw [show t.demand.inputs = (inputTaken .derateSelect s).demand.inputs from hinputs]
    exact hjudged

end Sys2Proof.Machine

/-! PROOFS. Line faults: what the mismatch time raises, and its trip or failure (R150 to R152). -/

namespace Sys2Proof.Machine

variable {s t u v w : State} {p : Params} {out : Output} {c : Bool}

/-! ### A fault that stands through the judgements -/

/-- The fault of a line that goes on disagreeing with its command. -/
structure FaultStands (out : Output) (c : Bool) (s : State) : Prop where
  command : (outputOf s.lines out).command = c
  mismatch : (outputOf s.lines out).mismatch = none
  present : (outputOf s.lines out).present = if c then .sensedOff else .sensedOn
  sense : sensedOn s out ≠ c

theorem FaultStands.judgeLine (h : FaultStands out c s) :
    judgeLine c (sensedOn s out) (outputOf s.lines out) = outputOf s.lines out := by
  obtain ⟨hcommand, hmismatch, hpresent, hsense⟩ := h
  have hstands : (outputOf s.lines out).present ≠ .none := by
    rw [hpresent]
    split <;> simp
  generalize outputOf s.lines out = l at *
  unfold Machine.judgeLine
  rw [if_neg hsense.symm, if_neg]
  · rw [← hcommand]
  · rintro (k | ⟨-, k⟩)
    · exact k hcommand.symm
    · exact hstands k

/-- A round in which the command resolves to what it is leaves the fault. -/
theorem FaultStands.settleRound (h : FaultStands out c s)
    (harrive : settleArrival p s = s ∨ resolvedCommand s out = c)
    (hresolved : resolvedCommand (settleRound p s) out = c) : FaultStands out c (settleRound p s) := by
  have hkept := settleRound_kept p s
  obtain ⟨v, hv, hlines⟩ := settleRound_lines p s
  have ha : outputOf (settleArrival p s).lines out = outputOf s.lines out := by
    rcases harrive with k | k
    · rw [k]
    · rcases settleArrival_lines p s with hl | hl
      · rw [hl]
      · rw [hl, settleOutputs_line, k, h.judgeLine]
  have hvl : outputOf v.lines out = outputOf s.lines out := by rw [hlines, ha]
  have hvs : sensedOn v out = sensedOn s out := by
    have hout : sensedOn (settleLamps (settleOutputs p v)) out = sensedOn v out :=
      (settleOutputs_kept p v).apart.sensedOn out
    rw [← hout, ← hv, hkept.apart.sensedOn]
  have hvr : resolvedCommand v out = c := by
    rw [hv] at hresolved
    exact hresolved
  have hline : outputOf (Machine.settleRound p s).lines out = outputOf s.lines out := by
    rw [hv]
    show outputOf (settleOutputs p v).lines out = _
    rw [settleOutputs_line, hvr, hvs, hvl, h.judgeLine]
  exact ⟨by rw [hline, h.command], by rw [hline, h.mismatch], by rw [hline, h.present],
    by rw [hkept.apart.sensedOn]; exact h.sense⟩

theorem FaultStands.lineFault (h : FaultStands out c s) : lineFault s = true := by
  have hp : (outputOf s.lines out).present ≠ .none := by
    rw [h.present]
    split <;> simp
  unfold Machine.lineFault
  cases out
  all_goals
    rw [outputOf] at hp
    simp [hp]

/-- A trip in force holds every command off. -/
theorem resolvedCommand_latched (h : s.prot.tripLatch = true) : resolvedCommand s out = false := by
  unfold resolvedCommand protectionOff
  rw [h]
  simp

theorem FaultStands.latched (h : FaultStands out false s) (hlatch : s.prot.tripLatch = true) :
    FaultStands out false (settle p s) := by
  have round {u : State} (hu : FaultStands out false u) (hl : u.prot.tripLatch = true) :
      FaultStands out false (Machine.settleRound p u) ∧ (Machine.settleRound p u).prot.tripLatch = true := by
    have hk := (settleRound_kept p u).tripLatch.trans hl
    exact ⟨hu.settleRound (.inr (resolvedCommand_latched hl)) (resolvedCommand_latched hk), hk⟩
  obtain ⟨h1, l1⟩ := round h hlatch
  obtain ⟨h2, l2⟩ := round h1 l1
  exact (round h2 l2).1

/-- In a quiet state a line but LOAD-PERMIT keeps its resolved command. -/
theorem resolvedCommand_still (hk : Kept s t) (hs : Still s t) (hout : out ≠ .loadPermit) :
    resolvedCommand t out = resolvedCommand s out := by
  have hsequencer : sequencerCommand t out = sequencerCommand s out := by
    unfold sequencerCommand
    rw [hs.seq]
  have hoff : protectionOff t out = protectionOff s out := by
    unfold protectionOff
    rw [hk.tripLatch, beq_eq_false_iff_ne.2 hout]
    rfl
  unfold resolvedCommand fuelHold
  rw [hoff, hk.holdTimer]
  cases out with
  | loadPermit => exact absurd rfl hout
  | _ => rw [hsequencer]

theorem FaultStands.still (h : FaultStands out c s) (q : Quiet p s) (hout : out ≠ .loadPermit)
    (hresolved : resolvedCommand s out = c) : FaultStands out c (settle p s) := by
  have round {u : State} (hu : FaultStands out c u) (hq : Quiet p u) (hr : resolvedCommand u out = c) :
      FaultStands out c (Machine.settleRound p u) ∧ Quiet p (Machine.settleRound p u)
        ∧ resolvedCommand (Machine.settleRound p u) out = c := by
    have hs := settleRound_still hq
    have hr' := (resolvedCommand_still (settleRound_kept p u) hs hout).trans hr
    exact ⟨hu.settleRound (.inr hr) hr', hs.quiet hq, hr'⟩
  obtain ⟨h1, q1, r1⟩ := round h q hresolved
  obtain ⟨h2, q2, r2⟩ := round h1 q1 r1
  exact (round h2 q2 r2).1

/-- What keeps LOAD-PERMIT off whatever the stepper's rows. -/
def permitBarred (p : Params) (s : State) : Prop :=
  isRunning s = false ∨ s.prot.tripLatch = true ∨ lineOn p s .groundRelay = true ∨ isolated s = true

theorem Kept.isolated (h : Kept s t) : isolated t = isolated s := by
  unfold Machine.isolated
  rw [h.reader]
  split
  · rfl
  · rw [h.lineOn]

theorem permitBarred.still (h : permitBarred p s) (hk : Kept s t) (hs : Still s t) : permitBarred p t := by
  unfold permitBarred isRunning at *
  rw [hs.engine, hk.tripLatch, hk.lineOn, hk.isolated]
  exact h

theorem permitBarred.resolved (h : permitBarred p s) (hst : Standing p s) : resolvedCommand s .loadPermit = false := by
  by_cases hlatch : s.prot.tripLatch = true
  · exact resolvedCommand_latched hlatch
  have hoff : s.step.loadPermit = false := by
    by_contra hon
    obtain ⟨hrun, hisolated, -, hground, -⟩ := hst.loadPermit.1 (by simpa using hon)
    rcases h with h | h | h | h
    · unfold isRunning at h
      rw [hrun] at h
      cases h
    · exact hlatch h
    · rw [hground] at h
      cases h
    · rw [hisolated] at h
      cases h
  unfold resolvedCommand
  rw [hoff]
  rfl

/-- LOAD-PERMIT's fault stands in a quiet state that bars it, and brings the ground cap. -/
theorem FaultStands.barred (h : FaultStands .loadPermit false s) (q : Quiet p s) (hb : permitBarred p s) :
    FaultStands .loadPermit false (settle p s) ∧ (settle p s).prot.groundCap = some 1
      ∧ ground (settle p s) = true ∧ (settle p s).prot.available ≤ 1 := by
  have round {u : State} (hu : FaultStands .loadPermit false u) (hq : Quiet p u) (hbar : permitBarred p u) :
      FaultStands .loadPermit false (Machine.settleRound p u) ∧ Quiet p (Machine.settleRound p u)
        ∧ permitBarred p (Machine.settleRound p u) := by
    have hs := settleRound_still hq
    have hbar' := hbar.still (settleRound_kept p u) hs
    exact ⟨hu.settleRound (.inl (settleArrival_quiet hq)) (hbar'.resolved (settleRound_standing p u)), hs.quiet hq, hbar'⟩
  obtain ⟨h1, q1, b1⟩ := round h q hb
  obtain ⟨h2, q2, b2⟩ := round h1 q1 b1
  obtain ⟨h3, -⟩ := round h2 q2 b2
  have hcaps := settleRound_caps p (Machine.settleRound p (Machine.settleRound p s))
  rw [settleArrival_quiet q2] at hcaps
  unfold Machine.settle
  generalize Machine.settleRound p (Machine.settleRound p s) = u at *
  have hholds : groundHolds p (settleOwnRecord p u) = true := by
    have hp : (settleOwnRecord p u).lines.loadPermit.present = .sensedOn := by
      rw [(settleOwnRecord_blocks p u).2]
      exact h2.present
    unfold groundHolds
    rw [hp]
    simp
  have hone : (settleCaps p (settleOwnRecord p u)).prot.groundCap = some 1 := by
    show (if groundHolds p _ then some (1 : Row) else none) = some 1
    rw [hholds]
    rfl
  have havailable : (settleCaps p (settleOwnRecord p u)).prot.available
      ≤ capRow (settleCaps p (settleOwnRecord p u)).prot.groundCap := (availableOf_le _ _ _ _).2.2.1
  rw [hone] at havailable
  rw [← hcaps.ground] at hone
  rw [← hcaps.available] at havailable
  exact ⟨h3, hone, by unfold ground; rw [hone]; rfl, havailable⟩

/-! ### The fault raised -/

/-- The fault raised on an output. -/
def faultRaised (out : Output) (s : State) : State := updateOutput out raiseFault s

theorem mismatchTimeExpiry_due {us : Nat} (hp : s.reader.applied = some p)
    (hm : (outputOf s.lines out).mismatch = some us) (hdue : (outputParams p.lines out).mismatch * 1000 ≤ us) :
    exec (.mismatchTimeExpiry out) s
      = .next (settle p (handFault p out (mismatchFault (outputOf s.lines out)) (faultRaised out s))) := by
  refine (next_withParams hp _).trans ?_
  rw [if_pos (timerReached_due hm hdue)]
  rfl

theorem handFault_apart (p : Params) (out : Output) (f : LineFault) (s : State) : Apart s (handFault p out f s) := by
  unfold handFault
  split
  · exact trip_apart _ _ s
  · split
    · exact failAttempt_apart p _ s
    · exact .refl s
  · exact trip_apart _ _ s
  · exact .refl s

/-- R151: the faults that stop nothing. -/
def stopsNothing (out : Output) (c : Bool) : Prop :=
  out = .fuelPump ∨ out = .prelube ∨ out = .loadPermit ∨ out = .rackEnable ∧ c = true

theorem handFault_nothing (h : stopsNothing out c) (l : OutputLine) (hl : l.command = c) (s : State) :
    handFault p out (mismatchFault l) s = s := by
  rcases h with rfl | rfl | rfl | ⟨rfl, hc⟩
  · rfl
  · rfl
  · rfl
  · unfold mismatchFault
    rw [hl, hc]
    rfl

/-- R52: the faults that trip the station, by the reason. -/
def faultReason : Output → Option LockReason
  | .crankValve => some .valve
  | .rackEnable => some .rack
  | _ => none

theorem handFault_trips {reason : LockReason} (h : faultReason out = some reason) (l : OutputLine)
    (hl : l.command = false) (s : State) : handFault p out (mismatchFault l) s = trip reason none s := by
  unfold mismatchFault
  rw [hl]
  cases out with
  | crankValve =>
    cases h
    rfl
  | rackEnable =>
    cases h
    rfl
  | fuelPump | prelube | loadPermit => cases h

theorem quiet_lines {l : LineDriver} (q : Quiet p s) : Quiet p { s with lines := l } := ⟨q.moving, q.ungranted, q.unwatched⟩

/-- The fault of a line that goes on disagreeing, as the command leaves it. -/
theorem faultRaised_stands {t : State} (ht : Apart (faultRaised out s) t) (hlines : t.lines = (faultRaised out s).lines)
    (hsense : sensedOn s out ≠ (outputOf s.lines out).command) :
    FaultStands out (outputOf s.lines out).command t := by
  have hline : outputOf t.lines out = raiseFault (outputOf s.lines out) := by
    rw [hlines]
    exact outputOf_updateOutput_self (s := s) out raiseFault
  refine ⟨by rw [hline]; rfl, by rw [hline]; rfl, by rw [hline]; rfl, ?_⟩
  have hraised : sensedOn (faultRaised out s) out = sensedOn s out := by
    unfold sensedOn
    refine congrArg (·.getD false) (sensed_congr (s := s) (t := faultRaised out s) rfl ?_)
    unfold faultRaised
    rw [outputOf_updateOutput_self]
    rfl
  rw [ht.sensedOn, hraised]
  exact hsense

theorem tripRequest_lines (r : LockReason) (s : State) : (tripRequest r s).lines = s.lines := by
  cases he : s.seq.engine with
  | starting phase =>
    rw [tripRequest_starting r he, enterState_lines]
    show (closeClaim phase failedByte s).lines = _
    cases phase with
    | prep =>
      unfold closeClaim
      rw [withdrawClaim_eq]
    | crank =>
      unfold closeClaim
      rw [endCrankCounted_eq]
    | fire | confirm => rfl
  | stopping d =>
    unfold tripRequest
    rw [he]
    dsimp only
    cases d with
    | lockedOut k => rfl
    | prep =>
      show (enterState _ (discardKept s)).lines = _
      rw [enterState_lines]
      unfold discardKept
      split
      · rfl
      · unfold requestMade
        rw [requestFrame_eq]
    | stopped | retryWait | layover => exact enterState_lines _ s
  | running | retryWait | layover | stopped =>
    unfold tripRequest
    rw [he]
    exact enterState_lines _ s
  | lockedOut k | inhibited k =>
    unfold tripRequest
    rw [he]

theorem trip_lines (r : LockReason) (src : Option CutSource) (s : State) : (trip r src s).lines = s.lines := by
  unfold trip
  split
  · rfl
  · exact tripRequest_lines r _

theorem faultRaised_only (out : Output) (s : State) :
    faultRaised out s = { s with lines := (faultRaised out s).lines } := updateOutput_only out raiseFault s

/-- The fault of a line that goes on disagreeing stands once every block has judged. -/
theorem settle_faultRaised (q : Quiet p s) (hresolved : (outputOf s.lines out).command = resolvedCommand s out)
    (hsense : sensedOn s out ≠ (outputOf s.lines out).command)
    (hvalve : out = .crankValve → (outputOf s.lines out).command = false)
    (hpermit : out = .loadPermit → (outputOf s.lines out).command = false ∧ permitBarred p s) :
    let t := settle p (handFault p out (mismatchFault (outputOf s.lines out)) (faultRaised out s))
    FaultStands out (outputOf s.lines out).command t
      ∧ (out = .loadPermit → t.prot.groundCap = some 1 ∧ ground t = true ∧ t.prot.available ≤ 1) := by
  intro t
  have honly := faultRaised_only out s
  have hq : Quiet p (faultRaised out s) := by
    rw [honly]
    exact quiet_lines q
  have hres : resolvedCommand (faultRaised out s) out = resolvedCommand s out := by rw [honly]; rfl
  have stands := faultRaised_stands (.refl (faultRaised out s)) rfl hsense
  by_cases hp : out = .loadPermit
  · subst hp
    obtain ⟨hoff, hbar⟩ := hpermit rfl
    have hbar' : permitBarred p (faultRaised .loadPermit s) := by
      rw [honly]
      exact hbar
    rw [hoff] at stands ⊢
    have ht : t = settle p (faultRaised .loadPermit s) := rfl
    obtain ⟨h1, h2, h3, h4⟩ := stands.barred hq hbar'
    rw [ht]
    exact ⟨h1, fun _ => ⟨h2, h3, h4⟩⟩
  refine ⟨?_, fun h => absurd h hp⟩
  by_cases hn : stopsNothing out (outputOf s.lines out).command
  · show FaultStands out _ (settle p (handFault p out _ _))
    rw [handFault_nothing hn _ rfl]
    exact stands.still hq hp (hres.trans hresolved.symm)
  · have hoff : (outputOf s.lines out).command = false := by
      by_cases hv : out = .crankValve
      · exact hvalve hv
      · by_contra hon
        refine hn ?_
        cases out with
        | fuelPump => exact .inl rfl
        | prelube => exact .inr (.inl rfl)
        | loadPermit => exact absurd rfl hp
        | crankValve => exact absurd rfl hv
        | rackEnable => exact .inr (.inr (.inr ⟨rfl, by simpa using hon⟩))
    obtain ⟨reason, hreason⟩ : ∃ reason, faultReason out = some reason := by
      cases out with
      | fuelPump => exact absurd (.inl rfl) hn
      | prelube => exact absurd (.inr (.inl rfl)) hn
      | loadPermit => exact absurd rfl hp
      | crankValve => exact ⟨_, rfl⟩
      | rackEnable => exact ⟨_, rfl⟩
    show FaultStands out _ (settle p (handFault p out _ _))
    rw [handFault_trips hreason _ hoff]
    cases hi : isInhibited (faultRaised out s) with
    | true =>
      have hsame : trip reason none (faultRaised out s) = faultRaised out s := if_pos hi
      rw [hsame]
      exact stands.still hq hp (hres.trans hresolved.symm)
    | false =>
      have hstands := faultRaised_stands (trip_apart reason none _) (trip_lines reason none _) hsense
      rw [hoff] at hstands ⊢
      exact hstands.latched (trip_prot reason none hi).1

/-- Settles O50: the fault raised is handed on by line and side, and stands where line and command go on disagreeing. -/
theorem mismatchRaisesFault : Obligations.MismatchRaisesFault := by
  intro p s out us hp hm
  refine ⟨fun hdue => ?_, fun hshort => ?_⟩
  · have run := mismatchTimeExpiry_due hp hm hdue
    have honly := faultRaised_only out s
    have hself : outputOf (faultRaised out s).lines out = raiseFault (outputOf s.lines out) :=
      outputOf_updateOutput_self (s := s) out raiseFault
    have hother (o : Output) (ho : o ≠ out) : outputOf (faultRaised out s).lines o = outputOf s.lines o :=
      outputOf_updateOutput_other (s := s) raiseFault ho
    have happlied : (faultRaised out s).reader.applied = some p := by
      rw [honly]
      exact hp
    have hhanded := handFault_apart p out (mismatchFault (outputOf s.lines out)) (faultRaised out s)
    have hkept := settle_kept p (handFault p out (mismatchFault (outputOf s.lines out)) (faultRaised out s))
    have hall := hhanded.trans hkept.apart
    have hfollow := settle_follows (hhanded.applied happlied)
    refine ⟨_, run, hfollow, ?_, ?_, fun o ho => ?_, fun hoff hi => ⟨fun hv => ?_, fun hr => ?_⟩, fun hon hv hcrank => ?_,
      fun hn q => ?_, fun q hres hsense hvalve hpermit => ?_⟩
    · refine Apart.own_lines (l := (faultRaised out s).lines) ?_
      rw [← honly]
      exact hall
    · rw [hall.last, hself]
      rfl
    · rw [hall.last, hother o ho]
    · subst hv
      rw [handFault_trips (reason := .valve) rfl _ hoff]
      have hi' : isInhibited (faultRaised .crankValve s) = false := by
        rw [honly]
        exact hi
      obtain ⟨htripped, hengine, -⟩ := settle_after_trip (p := p) (v := trip .valve none (faultRaised .crankValve s)) hi'
        rfl rfl (trip_apart _ _ _).meas
      refine ⟨hengine.trans ?_, _, htripped, rfl⟩
      rw [honly]
      rfl
    · subst hr
      rw [handFault_trips (reason := .rack) rfl _ hoff]
      have hi' : isInhibited (faultRaised .rackEnable s) = false := by
        rw [honly]
        exact hi
      obtain ⟨htripped, hengine, -⟩ := settle_after_trip (p := p) (v := trip .rack none (faultRaised .rackEnable s)) hi'
        rfl rfl (trip_apart _ _ _).meas
      refine ⟨hengine.trans ?_, _, htripped, rfl⟩
      rw [honly]
      rfl
    · subst hv
      have hcrank' : (faultRaised .crankValve s).seq.engine = .starting .crank := hcrank
      have hfails : handFault p .crankValve (mismatchFault (outputOf s.lines .crankValve)) (faultRaised .crankValve s)
          = failAttempt p .noRoll (faultRaised .crankValve s) := by
        unfold mismatchFault
        rw [hon]
        exact if_pos hcrank'
      rw [hfails]
      obtain ⟨hengine, -, hclosed, hclaim, -⟩ := settle_failAttempt (p := p) .noRoll hcrank'
      exact ⟨hengine, hclosed, hclaim⟩
    · rw [handFault_nothing hn _ rfl]
      have hq : Quiet p (faultRaised out s) := by
        rw [honly]
        exact quiet_lines q
      have hstill := settle_still hq
      refine ⟨hstill.engine.trans ?_, hstill.arb.trans ?_⟩
      · rw [honly]
      · rw [honly]
    · obtain ⟨hstands, hground⟩ := settle_faultRaised q hres hsense hvalve hpermit
      have hlamp := (settle_outputs p
        (handFault p out (mismatchFault (outputOf s.lines out)) (faultRaised out s))).2.2.2.2.2
      have hfault := hstands.lineFault
      refine ⟨hstands.command, hstands.present, hstands.mismatch, hfault, ?_, hground⟩
      rw [hlamp]
      unfold faultLampOf
      rw [hfault]
      simp
  · refine (next_withParams hp _).trans ?_
    rw [if_neg (not_timerReached hm hshort)]

end Sys2Proof.Machine

/-! PROOFS. Handover of a good image (R59, R167). -/

namespace Sys2Proof.Machine

variable {s t u v w : State} {p : Params} {r : LockReason} {src : Option CutSource}

/-! ### The starting levels (R59) -/

/-- The handle code read, and CAB-ACTIVE found on taken. -/
def cabOffered (p : Params) (s : State) : State :=
  if lineOn p (takeCode p s) .cabActive then cabOn p (takeCode p s) else takeCode p s

theorem offerInputs_eq (p : Params) (s : State) : offerInputs p s
    = if lineOn p (cabOffered p s) .estop then estopOn (cabOffered p s) else cabOffered p s := rfl

theorem lineOn_inputs (h : t.demand.inputs = s.demand.inputs) (line : InputLine) : lineOn p t line = lineOn p s line := by
  unfold lineOn
  rw [h]

theorem takeCode_only (p : Params) (s : State) : takeCode p s = { s with demand := (takeCode p s).demand } := by
  unfold takeCode
  split
  · rfl
  · split <;> rfl

theorem takeCode_source (p : Params) (s : State) : (takeCode p s).demand.source = s.demand.source
    ∧ (takeCode p s).demand.demandTimer = s.demand.demandTimer := by
  unfold takeCode
  split
  · exact ⟨rfl, rfl⟩
  · split <;> exact ⟨rfl, rfl⟩

/-- What the starting levels but ESTOP leave: the demand unit's own, and one DEMAND at most. -/
theorem cabOffered_only (p : Params) (s : State) : ∃ q, cabOffered p s = { s with
      demand := (cabOffered p s).demand, link := { s.link with queue := q } }
    ∧ (s.link.queue.length ≤ 8 → q.length ≤ 8) := by
  have hcode := takeCode_only p s
  unfold cabOffered
  split
  · rw [cabOn_eq]
    refine ⟨queueAfter (.made (demandContent (ownRecordNow p (takeCode p s)))) (takeCode p s), ?_, fun h => ?_⟩
    · rw [hcode]
    · refine length_queueAfter _ ?_
      rw [hcode]
      exact h
  · exact ⟨s.link.queue, hcode, id⟩

theorem cabOffered_demand (p : Params) (s : State) : (cabOffered p s).demand.inputs = s.demand.inputs
    ∧ (cabOffered p s).demand.source = (if lineOn p s .cabActive then .own else s.demand.source)
    ∧ (lineOn p s .cabActive = false → (cabOffered p s).demand.demandTimer = s.demand.demandTimer)
    ∧ ∀ r, handleCode p s = some r → (cabOffered p s).demand.handle = r := by
  obtain ⟨hinputs, hvalid, -⟩ := takeCode_demand p s
  obtain ⟨hsource, htimer⟩ := takeCode_source p s
  have hline : lineOn p (takeCode p s) .cabActive = lineOn p s .cabActive := lineOn_inputs hinputs _
  unfold cabOffered
  rw [hline]
  cases lineOn p s .cabActive with
  | true =>
    rw [if_pos rfl, if_pos rfl, cabOn_demand]
    exact ⟨hinputs, rfl, nofun, fun r h => (hvalid r h).1⟩
  | false =>
    rw [if_neg (by simp), if_neg (by simp)]
    exact ⟨hinputs, hsource, fun _ => htimer, fun r h => (hvalid r h).1⟩

/-! ### ESTOP found on in STOPPED (R53) -/

theorem trip_stopped (h : s.seq.engine = .stopped) :
    (trip r src s).seq = changeSequencer (.stopping (.lockedOut r)) s.seq ∧ (trip r src s).arb = s.arb
      ∧ (trip r src s).link = s.link ∧ (trip r src s).demand = s.demand := by
  have he : (tripRecorded r src s).seq.engine = .stopped := h
  rw [trip_recorded (by unfold isInhibited; rw [h])]
  unfold tripRequest
  rw [he]
  dsimp only
  rw [enterState_seq, enterState_arb, enterState_link, enterState_demand]
  exact ⟨rfl, rfl, rfl, rfl⟩

/-- A stop that leaves STOPPED ends the turning watch for good. -/
theorem settle_locked_watch (h : s.seq.engine = .stopping (.lockedOut r)) (hw : s.seq.turningWatch = none) :
    (settle p s).seq.turningWatch = none := by
  cases hr : atRest p s with
  | false =>
    obtain ⟨-, hstill, -⟩ := settle_stopping_still h hr
    rw [hstill.seq]
    exact hw
  | true =>
    rw [settle_arrival h hr]
    have hengine : (arriveAt (.lockedOut r) (settleOutputs p s)).seq.engine = .lockedOut r := arriveAt_engine _ _
    have hended : (arriveAt (.lockedOut r) (settleOutputs p s)).seq.turningWatch = none := by
      unfold arriveAt
      rw [enterState_seq]
      rfl
    rw [(settle_still (quiet_of_restful (p := p) (by rw [hengine]; rfl))).seq]
    exact hended

theorem estopOn_eq (s : State) : estopOn s = { trip .fuelCut (some .localEstop) s with
    link := { (trip .fuelCut (some .localEstop) s).link with
      queue := queueAfter (.made .fuelCut) (trip .fuelCut (some .localEstop) s) } } := requestFrame_eq _ _

/-- ESTOP found on in STOPPED: the trip, and FUEL-CUT asked for. -/
theorem settle_estopOn (h : s.seq.engine = .stopped) :
    Tripped (tripRecordOf .fuelCut (some .localEstop) s) (settle p (estopOn s))
      ∧ (settle p (estopOn s)).seq.engine = tripEngine p s .fuelCut
      ∧ (settle p (estopOn s)).seq.turningWatch = none ∧ (settle p (estopOn s)).arb = s.arb
      ∧ (s.link.state = .up → s.link.queue.length ≤ 8 → asked .fuelCut (settle p (estopOn s))) := by
  obtain ⟨hseq, harb, hlink, -⟩ := trip_stopped (r := .fuelCut) (src := some .localEstop) h
  have hs : (estopOn s).seq = (trip .fuelCut (some .localEstop) s).seq := by rw [estopOn_eq]
  have hp : (estopOn s).prot = (trip .fuelCut (some .localEstop) s).prot := by rw [estopOn_eq]
  have ha : (estopOn s).arb = s.arb := by
    rw [estopOn_eq]
    exact harb
  have hm : (estopOn s).meas = s.meas := by
    rw [estopOn_eq]
    exact (trip_apart _ _ s).meas
  have hq : (estopOn s).link.queue = queueAfter (.made .fuelCut) (trip .fuelCut (some .localEstop) s) := by
    rw [estopOn_eq]
  have hhalt : (estopOn s).seq.engine = .stopping (.lockedOut .fuelCut) := by
    rw [hs, hseq]
    rfl
  obtain ⟨htripped, hengine, -⟩ := settle_after_trip (p := p) (by unfold isInhibited; rw [h]) hs hp hm
  obtain ⟨-, harb', -⟩ := settle_halted (p := p) hhalt rfl
  refine ⟨htripped, hengine, settle_locked_watch hhalt (by rw [hs, hseq]; rfl), harb'.trans ha, fun hup hlen => ?_⟩
  refine asked_fuelCut_settle ?_
  unfold asked
  rw [hq]
  unfold queueAfter
  rw [hlink, if_pos hup]
  exact mem_enqueue_lowest hlen fun _ _ => Nat.zero_le _

theorem estopOn_handed (s : State) : HandedOn s (estopOn s) := by
  refine .of_apart ((trip_apart .fuelCut (some .localEstop) s).trans ?_)
  rw [estopOn_eq]
  exact .of_blocks

/-! ### Handover (R167) -/

/-- What every block has once the applied set is handed over. -/
theorem offerInputs_handed (p : Params) (s : State) : HandedOn s (offerInputs p s) := by
  have hcab : HandedOn s (cabOffered p s) := by
    obtain ⟨q, honly, -⟩ := cabOffered_only p s
    refine ⟨?_, (cabOffered_demand p s).1⟩
    generalize cabOffered p s = z at honly ⊢
    rw [honly]
    exact .of_blocks
  rw [offerInputs_eq]
  split
  · exact hcab.trans (estopOn_handed _)
  · exact hcab

theorem offerInputs_demand (p : Params) (s : State) :
    (offerInputs p s).demand = { (cabOffered p s).demand with ownRecord := (offerInputs p s).demand.ownRecord } := by
  rw [offerInputs_eq]
  split
  · have h := (trip_apart .fuelCut (some .localEstop) (cabOffered p s)).demand
    rw [estopOn_eq]
    exact h
  · rfl

/-- What the starting levels leave of a STOPPED station whose watch is inactive. -/
structure Offered (p : Params) (s t : State) : Prop where
  follows : outputsFollow t
  apart : Apart { s with demand := t.demand } t
  arb : t.arb = s.arb
  free : lineOn p s .estop = false → t.seq.engine = .stopped ∧ t.seq.turningWatch = s.seq.turningWatch
    ∧ t.prot.record = s.prot.record
  tripped : lineOn p s .estop = true → Tripped (tripRecordOf .fuelCut (some .localEstop) s) t
    ∧ t.seq.engine = tripEngine p s .fuelCut ∧ t.seq.turningWatch = none
    ∧ (s.link.state = .up → s.link.queue.length ≤ 8 → asked .fuelCut t)
  inputs : t.demand.inputs = s.demand.inputs
  source : t.demand.source = if lineOn p s .cabActive then .own else s.demand.source
  timer : lineOn p s .cabActive = false → t.demand.demandTimer = s.demand.demandTimer
  handle : ∀ r, handleCode p s = some r → t.demand.handle = r

theorem settle_offerInputs (hp : s.reader.applied = some p) (he : s.seq.engine = .stopped)
    (hw : s.layover.watch = .inactive) : Offered p s (settle p (offerInputs p s)) := by
  have hhanded := offerInputs_handed p s
  have hkept := settle_kept p (offerInputs p s)
  have hdemand := offerInputs_demand p s
  have hoffer := offerInputs_eq p s
  obtain ⟨hinputs, hsource, htimer, hhandle⟩ := cabOffered_demand p s
  obtain ⟨q, honly, hlength⟩ := cabOffered_only p s
  have hestop : lineOn p (cabOffered p s) .estop = lineOn p s .estop := lineOn_inputs hinputs .estop
  rw [hestop] at hoffer
  have hfollow : outputsFollow (settle p (offerInputs p s)) := settle_follows (hhanded.apart.applied hp)
  have hapart := (HandedOn.trans hhanded (.of_apart hkept.apart)).apart
  have htd : (settle p (offerInputs p s)).demand
      = { (cabOffered p s).demand with ownRecord := (settle p (offerInputs p s)).demand.ownRecord } := by
    have h := hkept.demand
    rw [hdemand] at h
    exact h
  generalize cabOffered p s = z at *
  have hze : z.seq = s.seq := by rw [honly]
  have hza : z.arb = s.arb := by rw [honly]
  have free (h : lineOn p s .estop = false) : Still z (settle p (offerInputs p s)) ∧ Kept z (settle p (offerInputs p s)) := by
    have hz : offerInputs p s = z := by rw [hoffer, h, if_neg (by simp)]
    have hzq : Quiet p z := by
      refine ⟨fun d k => ?_, fun k => ?_, fun _ => by rw [honly]; exact hw⟩
      · rw [hze, he] at k
        cases k
      · rw [hze, he] at k
        cases k
    rw [hz]
    exact ⟨settle_still hzq, settle_kept p z⟩
  have tripped (h : lineOn p s .estop = true) := settle_estopOn (p := p) (s := z) (by rw [hze, he])
  have hestopOn (h : lineOn p s .estop = true) : offerInputs p s = estopOn z := by rw [hoffer, if_pos h]
  have hrecord : tripRecordOf .fuelCut (some .localEstop) z = tripRecordOf .fuelCut (some .localEstop) s := by
    rw [honly]
    rfl
  have hto : tripEngine p z .fuelCut = tripEngine p s .fuelCut := by
    rw [honly]
    rfl
  refine ⟨hfollow, hapart, ?_, fun h => ?_, fun h => ?_, ?_, ?_, fun h => ?_, fun r h => ?_⟩
  · cases h : lineOn p s .estop with
    | false => exact (free h).1.arb.trans hza
    | true =>
      rw [hestopOn h]
      exact (tripped h).2.2.2.1.trans hza
  · obtain ⟨hstill, hk⟩ := free h
    refine ⟨hstill.engine.trans (by rw [hze, he]), ?_, hk.tripRecord.trans (by rw [honly])⟩
    rw [hstill.seq, hze]
  · obtain ⟨h1, h2, h3, -, h5⟩ := tripped h
    rw [hestopOn h]
    rw [hrecord] at h1
    rw [hto] at h2
    refine ⟨h1, h2, h3, fun hup hlen => h5 ?_ ?_⟩
    · rw [honly]
      exact hup
    · rw [honly]
      exact hlength hlen
  · rw [htd]
    exact hinputs
  · rw [htd]
    exact hsource
  · rw [htd]
    exact htimer h
  · rw [htd]
    exact hhandle r h

/-- Settles O5: the blocks start, the starting levels are offered, and an ESTOP found on trips. -/
theorem handoverBringsStationUp : Obligations.HandoverBringsStationUp := by
  intro b s p clamped hreading hcomplete hgood hengine hwatch
  have run : exec (.memoryAnswer b) s = .next (settle p (offerInputs p (startBlocks p clamped (takeByte b s)))) := by
    rw [memoryAnswer_reading b hreading, if_pos hcomplete, endRead_good (s := takeByte b s) hgood]
    rfl
  have h : Offered p (startBlocks p clamped (takeByte b s)) (settle p (offerInputs p (startBlocks p clamped (takeByte b s)))) :=
    settle_offerInputs rfl hengine hwatch
  generalize settle p (offerInputs p (startBlocks p clamped (takeByte b s))) = t at run h
  have hreader : t.reader = (startBlocks p clamped (takeByte b s)).reader := h.apart.reader
  have hlink : t.link = { (startBlocks p clamped (takeByte b s)).link with queue := t.link.queue } := h.apart.link
  have hrecord : tripRecordOf .fuelCut (some .localEstop) (startBlocks p clamped (takeByte b s))
      = { reason := .fuelCut, source := some .localEstop, engine := .stopped, row := none
          speed := s.meas.speed, stalled := s.meas.stalled
          cool := freshValue s.meas.cool, lube := freshValue s.meas.lube } := by
    unfold tripRecordOf
    rw [show (startBlocks p clamped (takeByte b s)).seq.engine = .stopped from hengine]
    rfl
  refine ⟨t, run, hreader, ?_, ?_, ?_, h.apart.meas, h.free, fun hon => ?_, h.apart.driven, h.apart.polarities,
    h.apart.roster, h.arb, h.apart.choices, h.apart.pending, h.source, h.timer, ?_, h.handle, h.follows⟩
  · rw [hlink]
    rfl
  · rw [hlink]
    rfl
  · rw [h.arb]
    rfl
  · obtain ⟨h1, h2, h3, h4⟩ := h.tripped hon
    rw [hrecord] at h1
    refine ⟨h1, h2, h3, fun hempty => h4 rfl ?_⟩
    show s.link.queue.length ≤ 8
    rw [hempty]
    exact Nat.zero_le _
  · unfold isolated
    rw [hreader]
    exact congrArg (!·) (lineOn_inputs h.inputs .runIsolate)

end Sys2Proof.Machine

/-! PROOFS. A frame on the line: the inserted bits come off again, bits and bytes read back, each code of a STATUS
stands for what it was written for, and a frame sent reads back as its sender and content (O55). -/

namespace Sys2Proof.Machine

/-! ### Inserted bits -/

/-- R156: the receiver takes off the bits the transmitter inserted, at any run below five. -/
theorem removeBits_insertBits (bits : List Bool) :
    ∀ last run, run < 5 → removeBits last run (insertBits last run bits) = some bits := by
  induction bits with
  | nil =>
    intro last run hrun
    simp [insertBits, removeBits, Nat.ne_of_lt hrun]
  | cons b bs ih =>
    intro last run hrun
    have hbefore : run ≠ 5 := Nat.ne_of_lt hrun
    generalize hafter : (if b = last then run + 1 else 1) = after
    have hle : after ≤ 5 := by split at hafter <;> omega
    by_cases hfive : after = 5
    · simp [insertBits, removeBits, hbefore, hafter, hfive, ih (!b) 1 (by decide)]
    · simp [insertBits, removeBits, hbefore, hafter, hfive, ih b after (by omega)]

/-! ### Bits and bytes -/

@[simp] theorem length_bitsOfNat (w n : Nat) : (bitsOfNat w n).length = w := by
  induction w with
  | zero => rfl
  | succ w ih => simp [bitsOfNat, ih]

theorem foldl_bitsOfNat (w n acc : Nat) :
    (bitsOfNat w n).foldl (fun n b => 2 * n + b.toNat) acc = acc * 2 ^ w + n % 2 ^ w := by
  induction w generalizing acc with
  | zero => simp [bitsOfNat, Nat.mod_one]
  | succ w ih =>
    have hbit : n % 2 ^ (w + 1) = 2 ^ w * (n.testBit w).toNat + n % 2 ^ w := by
      rw [Nat.toNat_testBit, Nat.mod_pow_succ, Nat.add_comm]
    rw [bitsOfNat, List.foldl_cons, ih, hbit, pow_succ]
    ring

/-- R169: a number below 2^w reads back from its `w` bits. -/
theorem natOfBits_bitsOfNat {w n : Nat} (h : n < 2 ^ w) : natOfBits (bitsOfNat w n) = n := by
  rw [natOfBits, foldl_bitsOfNat, Nat.zero_mul, Nat.zero_add, Nat.mod_eq_of_lt h]

@[simp] theorem length_bitsOfBytes (bytes : List Byte) : (bitsOfBytes bytes).length = 8 * bytes.length := by
  induction bytes with
  | nil => rfl
  | cons b bs ih => simp [bitsOfBytes, ih]; omega

theorem bytesOfBits_bitsOfBytes (bytes : List Byte) (rest : List Bool) :
    bytesOfBits bytes.length (bitsOfBytes bytes ++ rest) = bytes := by
  induction bytes with
  | nil => rfl
  | cons b bs ih =>
    have hbyte : natOfBits (bitsOfNat 8 b.toNat) = b.toNat := natOfBits_bitsOfNat b.isLt
    simp [bitsOfBytes, bytesOfBits, List.append_assoc, List.take_left', List.drop_left', hbyte, ih]

/-! ### The frame -/

/-- R160 checks 1 to 3: a frame whose kind and length fit their fields reads back as it was sent. -/
theorem frameOfLine_frameLine {f : Frame} (hkind : f.kind < 16) (hlen : f.payload.length ≤ 32) :
    frameOfLine (frameLine f) = some f := by
  have hheadLen : (frameHead f).length = 18 + 8 * f.payload.length := by simp [frameHead]; omega
  generalize hcrc : bitsOfNat 16 (crcOfBits (frameHead f)).toNat = crc
  have hcrcLen : crc.length = 16 := by rw [← hcrc, length_bitsOfNat]
  have hcrcRead : natOfBits crc = (crcOfBits (frameHead f)).toNat := by
    rw [← hcrc]; exact natOfBits_bitsOfNat (BitVec.isLt _)
  have hfields : frameHead f ++ crc = bitsOfNat 4 f.kind ++ (f.addressed :: (bitsOfNat 5 f.source.val
      ++ (bitsOfNat 8 f.payload.length ++ (bitsOfBytes f.payload ++ crc)))) := by simp [frameHead]
  generalize hall : frameHead f ++ crc = bits at hfields
  have hline : frameLine f = insertBits false 0 bits ++ [false] := by rw [frameLine, hcrc, hall]
  have hbitsLen : bits.length = 34 + 8 * f.payload.length := by
    rw [← hall, List.length_append, hheadLen, hcrcLen]; omega
  have hhead : bits.take (18 + 8 * f.payload.length) = frameHead f := by rw [← hall, List.take_left' hheadLen]
  have htail : bits.drop (18 + 8 * f.payload.length) = crc := by rw [← hall, List.drop_left' hheadLen]
  have hlenField : natOfBits ((bits.drop 10).take 8) = f.payload.length := by
    rw [hfields]
    simpa [List.drop_append, List.drop_eq_nil_of_le] using natOfBits_bitsOfNat (w := 8) (n := f.payload.length) (by omega)
  have hkindField : natOfBits (bits.take 4) = f.kind := by
    rw [hfields]; simpa using natOfBits_bitsOfNat (w := 4) hkind
  have hmark : bits[4]?.getD false = f.addressed := by rw [hfields]; simp
  have hsource : natOfBits ((bits.drop 5).take 5) = f.source.val := by
    rw [hfields]
    simpa [List.drop_append, List.drop_eq_nil_of_le] using natOfBits_bitsOfNat (w := 5) f.source.isLt
  have hpayload : bytesOfBits f.payload.length (bits.drop 18) = f.payload := by
    rw [hfields]
    simpa [List.drop_append, List.drop_eq_nil_of_le] using bytesOfBits_bitsOfBytes f.payload crc
  rw [hline, frameOfLine, List.getLast?_concat, List.dropLast_concat, removeBits_insertBits bits false 0 (by decide)]
  simp [hlenField, hbitsLen, hlen, hhead, htail, hcrcRead, hkindField, hmark, hsource, hpayload]

/-! ### The codes of a STATUS -/

@[simp] theorem engineOfByte_engineByte (e : EngineCode) : engineOfByte (engineByte e) = some e := by
  cases e <;> rfl

@[simp] theorem phaseOfByte_phaseByte (phase : Option Phase) : phaseOfByte (phaseByte phase) = some phase := by
  rcases phase with _ | phase
  · rfl
  · cases phase <;> rfl

@[simp] theorem destOfByte_destByte (dest : Option DestCode) : destOfByte (destByte dest) = some dest := by
  rcases dest with _ | dest
  · rfl
  · cases dest <;> rfl

@[simp] theorem lockReasonOfByte_lockReasonByte (reason : Option LockReason) :
    lockReasonOfByte (lockReasonByte reason) = some reason := by
  rcases reason with _ | reason
  · rfl
  · cases reason <;> rfl

@[simp] theorem classOfByte_classByte (c : TempClass) : classOfByte (classByte c) = some c := by
  cases c <;> rfl

@[simp] theorem rowOfByte_rowByte (row : Option Row) : rowOfByte (rowByte row) = some row := by
  rcases row with _ | row
  · rfl
  · have hbyte : row.val % 256 = row.val := Nat.mod_eq_of_lt (Nat.lt_trans row.isLt (by decide))
    simp [rowOfByte, rowByte, hbyte]

@[simp] theorem claimOfBytes_none (serial : Byte) : claimOfBytes 255 serial = some none := rfl

@[simp] theorem claimOfBytes_levelByte (level : Level) (serial : Byte) :
    claimOfBytes (levelByte level) serial = some (some (level, serial)) := by
  cases level <;> rfl

@[simp] theorem intentOfBytes_none (serial : Byte) : intentOfBytes 0 serial = some none := rfl

@[simp] theorem intentOfBytes_some (serial : Byte) : intentOfBytes 1 serial = some (some serial) := rfl

/-- R169: a number of at most 16 bits reads back from its two bytes. -/
theorem natOfTwo_bytes {n : Nat} (h : n < 65536) : natOfTwo (BitVec.ofNat 8 (n / 256)) (BitVec.ofNat 8 n) = n := by
  simp only [natOfTwo, BitVec.toNat_ofNat]
  omega

/-- Section 13.1: the eight marks of a byte read back, the first from bit 7. -/
theorem getLsbD_packBits : ∀ b7 b6 b5 b4 b3 b2 b1 b0 : Bool,
    (packBits b7 b6 b5 b4 b3 b2 b1 b0).getLsbD 7 = b7 ∧ (packBits b7 b6 b5 b4 b3 b2 b1 b0).getLsbD 6 = b6
    ∧ (packBits b7 b6 b5 b4 b3 b2 b1 b0).getLsbD 5 = b5 ∧ (packBits b7 b6 b5 b4 b3 b2 b1 b0).getLsbD 4 = b4
    ∧ (packBits b7 b6 b5 b4 b3 b2 b1 b0).getLsbD 3 = b3 ∧ (packBits b7 b6 b5 b4 b3 b2 b1 b0).getLsbD 2 = b2
    ∧ (packBits b7 b6 b5 b4 b3 b2 b1 b0).getLsbD 1 = b1 ∧ (packBits b7 b6 b5 b4 b3 b2 b1 b0).getLsbD 0 = b0 := by
  decide

theorem length_statusBytes (c : StatusContent) : (statusBytes c).length = 24 := by
  cases hclaim : c.claim <;> cases hintent : c.intent <;> simp [statusBytes, hclaim, hintent, twoBytes]

/-- Section 13.1, R170: a STATUS whose powers are in range reads back from its 24 bytes. -/
theorem statusOfBytes_statusBytes {c : StatusContent} (hvalid : statusValid c = true) :
    statusOfBytes (statusBytes c) = some c := by
  obtain ⟨engine, phase, dest, lockReason, attempts, crankCount, current, target, available, demandRow, claim, intent,
    rated, avail, headroom, tempClass, settled, stalled, lubeStale, resvStale, coolStale, battStale, cabActive,
    isolated, derated, laboring, ground, fuelHold, handleFault, demandLost, demandConflict, rosterFull, lineFault,
    configClamped⟩ := c
  have hpowers := hvalid
  simp only [statusValid, Bool.and_eq_true, decide_eq_true_eq] at hpowers
  obtain ⟨⟨hrated, havail⟩, hheadroom⟩ := hpowers
  rcases claim with _ | ⟨level, serial⟩ <;> rcases intent with _ | intent <;>
    simp only [statusBytes, twoBytes, List.cons_append, List.nil_append, statusOfBytes, Option.bind_eq_bind,
      Option.bind_some, engineOfByte_engineByte, phaseOfByte_phaseByte, destOfByte_destByte,
      lockReasonOfByte_lockReasonByte, rowOfByte_rowByte, claimOfBytes_none, claimOfBytes_levelByte,
      intentOfBytes_none, intentOfBytes_some, classOfByte_classByte, getLsbD_packBits,
      natOfTwo_bytes (Nat.lt_of_le_of_lt hrated (by decide)), natOfTwo_bytes (Nat.lt_of_le_of_lt havail (by decide)),
      natOfTwo_bytes (Nat.lt_of_le_of_lt hheadroom (by decide)), hvalid, if_true]

/-! ### The content -/

theorem contentKind_lt (c : Content) : contentKind c < 16 := by cases c <;> simp [contentKind]

theorem length_contentBytes {c : Content} (hvalid : contentValid c = true) : (contentBytes c).length ≤ 32 := by
  cases c
  case status c => simp [contentBytes, length_statusBytes]
  case reply payload =>
    simp only [contentValid, Bool.and_eq_true, decide_eq_true_eq] at hvalid
    exact hvalid.2
  all_goals simp [contentBytes]

/-- R160 step 5: the payload of a valid content reads back as that content. -/
theorem contentOfBytes_contentBytes {c : Content} (hvalid : contentValid c = true) :
    contentOfBytes (contentKind c) (contentBytes c) = some c := by
  cases c
  case status c =>
    have hread : statusOfBytes (statusBytes c) = some c := statusOfBytes_statusBytes hvalid
    simp [contentKind, contentBytes, contentOfBytes, hread]
  all_goals rfl

theorem contentOfFrame_frameOfContent (source : UnitNo) {c : Content} (hvalid : contentValid c = true) :
    contentOfFrame (frameOfContent source c) = some (source, c) := by
  simp [contentOfFrame, frameOfContent, contentOfBytes_contentBytes hvalid, hvalid]

/-- Settles O55: the bits of the frame give the frame back, and its payload gives the content back. -/
theorem frameReadsBack : Obligations.FrameReadsBack := by
  intro source c hvalid
  have hframe : frameOfLine (frameLine (frameOfContent source c)) = some (frameOfContent source c) :=
    frameOfLine_frameLine (contentKind_lt c) (length_contentBytes hvalid)
  rw [receiveLine, hframe]
  exact contentOfFrame_frameOfContent source hvalid

end Sys2Proof.Machine

/-! PROOFS. The status period and the idle line: what is asked for, and which frame begins (R156, R158, R159). -/

namespace Sys2Proof.Machine

variable {s t : State} {p : Params}

/-! ### The status period -/

theorem length_enqueue_le_succ (f : TxFrame) {q : List TxFrame} (hroom : q.length < 8) :
    (enqueue f q).length ≤ q.length + 1 := by
  by_cases hsame : ∃ g ∈ q, txKind g = txKind f
  · rw [enqueue_replaces hsame, List.length_map]
    exact Nat.le_succ _
  · have hnew : ∀ g ∈ q, txKind g ≠ txKind f := fun g hg hk => hsame ⟨g, hg, hk⟩
    rw [enqueue_joins hnew (uncancelled_room (by omega) (.inl hroom)), length_insertFrame]
    exact Nat.succ_le_succ (List.length_filter_le _ q)

/-- R159: the queue with the STATUS of the period, and in OWN the DEMAND. -/
def periodQueue (s : State) : List TxFrame :=
  if s.demand.source = .own then enqueue (.made (demandContent s.demand.ownRecord)) (enqueue .status s.link.queue)
  else enqueue .status s.link.queue

/-- R159: at the status period the timer starts again and the frames are asked for. -/
theorem exec_statusPeriodExpiry_due {us : Nat} (hp : s.reader.applied = some p) (htimer : s.link.statusTimer = some us)
    (hdue : p.link.statusPeriod * 1000 ≤ us) (hup : s.link.state = .up) :
    exec .statusPeriodExpiry s = .next { s with link := { s.link with
      statusTimer := some 0, queue := periodQueue s } } := by
  refine (next_withParams hp _).trans ?_
  rw [if_pos (timerReached_due htimer hdue)]
  simp only [requestMade, requestFrame_eq, queueAfter, hup, if_true, periodQueue]
  by_cases hown : s.demand.source = .own <;> simp [hown]

theorem exec_statusPeriodExpiry_short {us : Nat} (hp : s.reader.applied = some p) (htimer : s.link.statusTimer = some us)
    (hshort : us < p.link.statusPeriod * 1000) : exec .statusPeriodExpiry s = .next s := by
  refine (next_withParams hp _).trans ?_
  rw [if_neg (not_timerReached htimer hshort)]

/-- R157, R159: into an empty queue the DEMAND joins ahead of the STATUS. -/
theorem periodQueue_empty (hempty : s.link.queue = []) :
    periodQueue s = if s.demand.source = .own then [.made (demandContent s.demand.ownRecord), .status] else [.status] := by
  simp [periodQueue, hempty, enqueue, insertFrame, txKind, contentKind, demandContent, cancelledKind]

section Waiting
variable (hroom : s.link.queue.length < 7)
include hroom

theorem room_enqueue_status : (enqueue .status s.link.queue).length < 8 :=
  Nat.lt_of_le_of_lt (length_enqueue_le_succ .status (by omega)) (by omega)

theorem status_mem_periodQueue : .status ∈ periodQueue s := by
  have hstatus : TxFrame.status ∈ enqueue .status s.link.queue := mem_enqueue_self (by omega)
  unfold periodQueue
  split
  · exact mem_enqueue_of_mem hstatus (by simp [txKind, demandContent, contentKind])
      (by simp [txKind, demandContent, contentKind, cancelledKind]) (room_enqueue_status hroom)
  · exact hstatus

theorem demand_mem_periodQueue (hown : s.demand.source = .own) :
    .made (demandContent s.demand.ownRecord) ∈ periodQueue s := by
  rw [periodQueue, if_pos hown]
  exact mem_enqueue_self (room_enqueue_status hroom)

/-- R157: neither STATUS nor DEMAND cancels a frame, so what is of another kind waits on. -/
theorem mem_periodQueue_of_mem {f : TxFrame} (hf : f ∈ s.link.queue) (hstatus : txKind f ≠ 9)
    (hdemand : s.demand.source = .own → txKind f ≠ 5) : f ∈ periodQueue s := by
  have hkept : f ∈ enqueue .status s.link.queue :=
    mem_enqueue_of_mem hf hstatus (by simp [txKind, cancelledKind]) (by omega)
  unfold periodQueue
  split
  · next hown =>
    exact mem_enqueue_of_mem hkept (hdemand hown) (by simp [txKind, demandContent, contentKind, cancelledKind])
      (room_enqueue_status hroom)
  · exact hkept

end Waiting

theorem mem_of_mem_periodQueue {f : TxFrame} (hf : f ∈ periodQueue s) :
    f = .status ∨ s.demand.source = .own ∧ f = .made (demandContent s.demand.ownRecord) ∨ f ∈ s.link.queue := by
  unfold periodQueue at hf
  split at hf
  · next hown =>
    rcases mem_of_mem_enqueue hf with hf | hf
    · exact .inr (.inl ⟨hown, hf⟩)
    · exact (mem_of_mem_enqueue hf).imp_right .inr
  · exact (mem_of_mem_enqueue hf).imp_right .inr

/-! ### The idle line -/

/-- R158: what a frame carries does not depend on what waits or on the receive state. -/
theorem formContent_link {l : Link} (hstate : l.state = s.link.state) (f : TxFrame) :
    formContent p { s with link := l } f = formContent p s f := by
  have hsilent : linkSilent { s with link := l } = linkSilent s := by simp [linkSilent, hstate]
  have hfigures : ownFigures p { s with link := l } = ownFigures p s := by
    unfold ownFigures
    rw [hsilent]
    rfl
  cases f with
  | made c => rfl
  | status =>
    unfold formContent ownStatus
    rw [hfigures]
    rfl
  | reply dest kind part => rfl

theorem exec_lineIdle_up (hp : s.reader.applied = some p) (hup : s.link.state = .up) (hquiet : sending s = false) :
    exec .lineIdle s = .next (beginSending p { s with link := { s.link with receive := .idle } }) := by
  refine (next_withParams hp _).trans ?_
  simp [hup, hquiet]

/-- R156, R158: the head of the queue begins its first try, with the content it has at this moment. -/
theorem lineIdle_begins_head (hp : s.reader.applied = some p) {f : TxFrame} {rest : List TxFrame}
    (hup : s.link.state = .up) (hbuffer : s.link.buffer = none) (hqueue : s.link.queue = f :: rest) :
    exec .lineIdle s = .next { s with link := { s.link with
      queue := rest, receive := .idle
      buffer := some { frame := f, content := formContent p s f, tries := 1, onLine := true } } } := by
  rw [exec_lineIdle_up hp hup (by simp [sending, hbuffer])]
  simp only [beginSending, hbuffer, hqueue, beginTry]
  rw [formContent_link (s := s) (by rfl)]

/-- R158: the frame in the buffer begins its next try. -/
theorem lineIdle_begins_buffer (hp : s.reader.applied = some p) {b : TxBuffer} (hup : s.link.state = .up)
    (hbuffer : s.link.buffer = some b) (hoff : b.onLine = false) :
    exec .lineIdle s = .next { s with link := { s.link with
      receive := .idle
      buffer := some { b with content := formContent p s b.frame, onLine := true } } } := by
  rw [exec_lineIdle_up hp hup (by simp [sending, hbuffer, hoff])]
  simp only [beginSending, hbuffer, beginTry]
  rw [formContent_link (s := s) (by rfl)]

/-- R155, R156: with nothing to send, and in SILENT, only the receive state becomes idle. -/
theorem lineIdle_rests (hp : s.reader.applied = some p)
    (hnothing : s.link.state = .silent ∨ s.link.state = .up ∧ s.link.buffer = none ∧ s.link.queue = []) :
    exec .lineIdle s = .next { s with link := { s.link with receive := .idle } } := by
  rcases hnothing with hsilent | ⟨hup, hbuffer, hqueue⟩
  · refine (next_withParams hp _).trans ?_
    simp [hsilent]
  · rw [exec_lineIdle_up hp hup (by simp [sending, hbuffer])]
    simp [beginSending, hbuffer, hqueue]

end Sys2Proof.Machine

/-! PROOFS. What is sent: a STATUS and a REPLY show the values of the moment and pass the field checks (O51). -/

namespace Sys2Proof.Machine

variable {s t : State} {p : Params}

/-! ### STATUS -/

theorem lineFault_iff : lineFault s = true ↔ ∃ out, (outputOf s.lines out).present ≠ .none := by
  simp only [lineFault, Bool.or_eq_true, bne_iff_ne]
  constructor
  · rintro ((((h | h) | h) | h) | h)
    · exact ⟨.fuelPump, h⟩
    · exact ⟨.prelube, h⟩
    · exact ⟨.crankValve, h⟩
    · exact ⟨.rackEnable, h⟩
    · exact ⟨.loadPermit, h⟩
  · rintro ⟨out, h⟩
    cases out
    case fuelPump => exact .inl (.inl (.inl (.inl h)))
    case prelube => exact .inl (.inl (.inl (.inr h)))
    case crankValve => exact .inl (.inl (.inr h))
    case rackEnable => exact .inl (.inr h)
    case loadPermit => exact .inr h

theorem ownStatus_shows (p : Params) (s : State) : StatusShows p s (ownStatus p s) where
  engine := by
    cases hengine : s.seq.engine
    case stopping dest => cases dest <;> simp [ownStatus, hengine, engineCode, engineDest, destCode]
    all_goals simp [ownStatus, hengine, engineCode, enginePhase, engineReason]
  noPhase h := by
    cases hengine : s.seq.engine
    case starting phase => exact absurd hengine (h phase)
    all_goals simp [ownStatus, hengine, enginePhase]
  noDest h := by
    cases hengine : s.seq.engine
    case stopping dest => exact absurd hengine (h dest)
    all_goals simp [ownStatus, hengine, engineDest]
  destReason reason h := by simp [ownStatus, h, engineReason, Machine.destReason]
  noReason h := by
    cases hengine : s.seq.engine
    case lockedOut reason => exact absurd hengine (h reason).1
    case stopping dest =>
      cases dest
      case lockedOut reason => exact absurd hengine (h reason).2
      all_goals simp [ownStatus, hengine, engineReason, Machine.destReason]
    all_goals simp [ownStatus, hengine, engineReason, Machine.destReason]
  attempts := rfl
  crankCount := rfl
  rows := ⟨rfl, rfl, rfl, rfl⟩
  claim own h := by simp [ownStatus, h]
  noClaim h := by simp [ownStatus, h]
  intent := rfl
  figures := ⟨rfl, rfl, rfl⟩
  tempClass := rfl
  settled := rfl
  stalled := rfl
  stale := ⟨rfl, rfl, rfl, rfl⟩
  cabActive := rfl
  isolated := rfl
  derated := by simp [ownStatus, Machine.derated]
  laboring := rfl
  ground := rfl
  fuelHold := rfl
  handleFault := rfl
  demandLost := by simp [ownStatus, Machine.demandLost]
  demandConflict := by simp [ownStatus, Machine.demandConflict]
  rosterFull := rfl
  lineFault := lineFault_iff
  configClamped := rfl

/-- R127, R170: with powers of at most 1000 the three figures are. -/
theorem ownStatus_valid (hpower : ∀ r, powerOf (tableInForce p s) r ≤ 1000) : statusValid (ownStatus p s) = true := by
  have hfigures : (ownFigures p s).rated ≤ 1000 ∧ (ownFigures p s).avail ≤ 1000 ∧ (ownFigures p s).headroom ≤ 1000 := by
    unfold ownFigures
    dsimp only
    split
    · exact ⟨by decide, by decide, by decide⟩
    · refine ⟨hpower _, ?_, ?_⟩
      · dsimp only
        split
        · exact hpower _
        · exact Nat.zero_le _
      · dsimp only
        split
        · exact (Nat.sub_le _ _).trans (hpower _)
        · exact Nat.zero_le _
  obtain ⟨hrated, havail, hheadroom⟩ := hfigures
  simp [statusValid, ownStatus, hrated, havail, hheadroom]

/-! ### The records of a REPLY -/

theorem phaseEntryBytes_eq (s : State) (e : PhaseEntry) : phaseEntryBytes s e = phaseShown s e := by
  cases hspeed : e.speed <;> simp [phaseEntryBytes, phaseShown, hspeed, threeBytes, twoBytes]

@[simp] theorem tenthsOf_eq (age : Option Nat) : tenthsOf age = ageShown age := by
  cases age <;> rfl

theorem rosterItem_eq (s : State) (e : RosterEntry) : rosterItem s e = itemShown s e := by
  have hmarks : e.unit.val + (if e.intent.isSome then 64 else 0) + (if e.lastStep.isSome then 32 else 0)
      = e.unit.val + e.intent.isSome.toNat * 64 + e.lastStep.isSome.toNat * 32 := by
    cases e.intent.isSome <;> cases e.lastStep.isSome <;> rfl
  have hlevel : claimLevelByte s e.unit
      = ((claimOf (.unit e.unit) s.arb.claims).map fun c => levelByte c.level).getD 255 := by
    cases hclaim : claimOf (.unit e.unit) s.arb.claims <;> simp [claimLevelByte, hclaim]
  cases hstatus : e.status with
  | none => simp [rosterItem, itemShown, stateRowByte, hstatus, hmarks, hlevel, tenths, ageShown, tenthsOf_eq]
  | some c =>
    by_cases hrunning : c.engine = .running <;> cases hrow : c.current <;>
      simp [rosterItem, itemShown, stateRowByte, shownRow, hstatus, hmarks, hlevel, tenths, ageShown, tenthsOf_eq,
        hrunning, hrow]

theorem lineByte_eq (s : State) (out : Output) : lineByte s out = lineShown s out := by
  have hfault (fault : LineFault) : lineFaultCode fault = (match fault with
      | .none => 0
      | .sensedOn => 1
      | .sensedOff => 2) := by cases fault <;> rfl
  unfold lineByte lineShown
  rw [hfault, hfault]
  rcases sensed s out with _ | _ | _ <;> rfl

section Record
variable {kind part : Byte}

theorem attempt_shown (h : kind.toNat = 1) : (1 : Byte) :: attemptBytes s = recordShown s kind part := by
  unfold attemptBytes recordShown
  rw [h]
  cases hrecord : s.seq.record with
  | none => rfl
  | some r =>
    simp only [List.flatMap, funext (phaseEntryBytes_eq s)]
    rcases r.result with _ | result
    · rfl
    · cases result <;> rfl

theorem trip_shown (h : kind.toNat = 2) : (2 : Byte) :: tripBytes s = recordShown s kind part := by
  unfold tripBytes recordShown
  rw [h]
  cases hrecord : s.prot.record with
  | none => rfl
  | some r =>
    rcases hsource : r.source with _ | _ | u <;> cases hrow : r.row <;>
      simp [hsource, hrow, twoBytes, packBits, rowByte, cutSourceByte]

theorem roster_shown (h : kind.toNat = 3) : (3 : Byte) :: rosterBytes s part = recordShown s kind part := by
  have hfull : (if s.roster.full then 128 else 0) = s.roster.full.toNat * 128 := by cases s.roster.full <;> rfl
  unfold rosterBytes recordShown
  rw [h]
  simp [List.flatMap, funext (rosterItem_eq s), hfull, partEntries]

theorem lines_shown (h : kind.toNat = 4) : (4 : Byte) :: linesBytes s = recordShown s kind part := by
  unfold linesBytes recordShown
  rw [h]
  simp [lineByte_eq, packBits, twoBytes]

theorem other_shown (h : kind.toNat ∉ [1, 2, 3, 4]) : [0, kind] = recordShown s kind part := by
  unfold recordShown
  split <;> simp_all

theorem kind_cases (kind : Byte) : kind = 1 ∨ kind = 2 ∨ kind = 3 ∨ kind = 4 ∨ kind.toNat ∉ [1, 2, 3, 4] := by
  simp only [List.mem_cons, List.not_mem_nil, or_false]
  bv_omega

/-- R162: what stands after the destination in a REPLY. -/
theorem record_shown (s : State) (kind part : Byte) :
    replyKind kind :: recordBytes s kind part = recordShown s kind part := by
  rcases kind_cases kind with rfl | rfl | rfl | rfl | hother
  · exact attempt_shown rfl
  · exact trip_shown rfl
  · exact roster_shown rfl
  · exact lines_shown rfl
  · have hkind : replyKind kind = 0 := by
      refine if_neg ?_
      rintro (rfl | rfl | rfl | rfl) <;> exact hother (by decide)
    have hbytes : recordBytes s kind part = [kind] := by
      unfold recordBytes
      split <;> simp_all
    rw [hkind, hbytes]
    exact other_shown hother

/-! ### The length of a REPLY -/

theorem length_phaseShown (s : State) (e : PhaseEntry) : (phaseShown s e).length = 5 := rfl

theorem length_itemShown (s : State) (e : RosterEntry) : (itemShown s e).length = 6 := rfl

/-- R39: an attempt record holds at most four phase entries. -/
theorem attemptSound.phases_le {r : AttemptRecord} (hsound : attemptSound s) (hrecord : s.seq.record = some r) :
    r.phases.length ≤ 4 := by
  obtain ⟨hstarting, hended⟩ := hsound
  by_cases hphase : ∃ phase, s.seq.engine = .starting phase
  · obtain ⟨phase, hphase⟩ := hphase
    obtain ⟨r', hrecord', -, hlen⟩ := hstarting phase hphase
    obtain rfl : r' = r := by simpa [hrecord] using hrecord'.symm
    rw [hlen]
    cases phase <;> decide
  · obtain ⟨-, -, hlen⟩ := hended (fun phase h => hphase ⟨phase, h⟩) r hrecord
    exact hlen

theorem attempt_valid (hsound : attemptSound s) (dest : Byte) (h : kind.toNat = 1) :
    contentValid (.reply (dest :: recordShown s kind part)) = true := by
  unfold recordShown
  rw [h]
  cases hrecord : s.seq.record with
  | none => rfl
  | some r =>
    have hphases := hsound.phases_le hrecord
    have hlen : (r.phases.map (phaseShown s)).flatten.length = 5 * r.phases.length := by
      simp [List.length_flatten, Function.comp_def, length_phaseShown, Nat.mul_comm]
    have hbyte : r.phases.length % 256 = r.phases.length := Nat.mod_eq_of_lt (by omega)
    simp [contentValid, replyLengthOk, hlen, hbyte]
    omega

theorem length_signedTwoBytes (v : Option Int) : (signedTwoBytes v).length = 2 := by cases v <;> rfl

theorem trip_valid (dest : Byte) (h : kind.toNat = 2) :
    contentValid (.reply (dest :: recordShown s kind part)) = true := by
  unfold recordShown
  rw [h]
  cases hrecord : s.prot.record with
  | none => rfl
  | some r => simp [contentValid, replyLengthOk, length_signedTwoBytes]

/-- R162, R170: a part carries as many items as its count says. -/
theorem length_part (part : Byte) (entries : List RosterEntry) :
    (if part = 0 then entries.take 4 else if part = 1 then (entries.drop 4).take 3 else []).length
      = rosterItems part.toNat entries.length := by
  by_cases hfirst : part = 0
  · subst hfirst
    simp [rosterItems, Nat.min_comm]
  by_cases hsecond : part = 1
  · subst hsecond
    simp [rosterItems, Nat.min_comm]
  have hzero : part.toNat ≠ 0 := by bv_omega
  have hone : part.toNat ≠ 1 := by bv_omega
  rw [if_neg hfirst, if_neg hsecond, rosterItems, if_neg hzero, if_neg hone, List.length_nil]

theorem rosterItems_le (part count : Nat) : rosterItems part count ≤ 4 := by
  unfold rosterItems
  split <;> [skip; split] <;> omega

theorem roster_valid (hsound : rosterSound s) (dest : Byte) (h : kind.toNat = 3) :
    contentValid (.reply (dest :: recordShown s kind part)) = true := by
  have hfew := hsound.1
  unfold recordShown
  rw [h]
  generalize hitems : (if part = 0 then s.roster.entries.take 4
    else if part = 1 then (s.roster.entries.drop 4).take 3 else []) = items
  have hcount : items.length = rosterItems part.toNat s.roster.entries.length := by rw [← hitems, length_part]
  have hlen : (items.map (itemShown s)).flatten.length = 6 * items.length := by
    simp [List.length_flatten, Function.comp_def, length_itemShown, Nat.mul_comm]
  have hbyte : (s.roster.full.toNat * 128 + s.roster.entries.length) % 256 % 8 = s.roster.entries.length := by omega
  have hle := rosterItems_le part.toNat s.roster.entries.length
  simp [contentValid, replyLengthOk, hlen, hcount, hbyte]
  omega

theorem lines_valid (dest : Byte) (h : kind.toNat = 4) :
    contentValid (.reply (dest :: recordShown s kind part)) = true := by
  unfold recordShown
  rw [h]
  simp [contentValid, replyLengthOk]

theorem other_valid (dest : Byte) (h : kind.toNat ∉ [1, 2, 3, 4]) :
    contentValid (.reply (dest :: recordShown s kind part)) = true := by
  rw [← other_shown h]
  rfl

/-- R170: every REPLY formed passes the length check. -/
theorem reply_valid (hroster : rosterSound s) (hattempt : attemptSound s) (dest kind part : Byte) :
    contentValid (.reply (dest :: recordShown s kind part)) = true := by
  rcases kind_cases kind with rfl | rfl | rfl | rfl | hother
  · exact attempt_valid hattempt dest rfl
  · exact trip_valid dest rfl
  · exact roster_valid hroster dest rfl
  · exact lines_valid dest rfl
  · exact other_valid dest hother

end Record

/-- R162: a REPLY is its destination and the record asked for. -/
theorem formContent_reply (dest : UnitNo) (kind part : Byte) :
    formContent p s (.reply dest kind part) = .reply (BitVec.ofNat 8 dest.val :: recordShown s kind part) := by
  rw [formContent, replyPayload, ← record_shown]
  rfl

/-- R170: what is sent passes the field checks. -/
theorem formContent_valid {f : TxFrame} (hpower : ∀ r, powerOf (tableInForce p s) r ≤ 1000) (hroster : rosterSound s)
    (hattempt : attemptSound s) (hmade : ∀ c, f = .made c → contentValid c = true) :
    contentValid (formContent p s f) = true := by
  cases f with
  | made c => exact hmade c rfl
  | status => exact ownStatus_valid hpower
  | reply dest kind part =>
    rw [formContent_reply]
    exact reply_valid hroster hattempt _ kind part

/-- Settles O51: the period's two frames join the queue, the idle line begins the next one, and what it carries is
formed from the values of the moment. -/
theorem statusIsQueuedAndFramesBegin : Obligations.StatusIsQueuedAndFramesBegin := by
  intro p s hp
  refine ⟨fun us htimer hdue hopen => ?_, fun us => exec_statusPeriodExpiry_short hp,
    fun f rest => lineIdle_begins_head hp, fun b => lineIdle_begins_buffer hp, lineIdle_rests hp,
    fun us htimer hdue hup _ hroom => ?_, ⟨ownStatus p s, rfl, ownStatus_shows p s⟩,
    fun dest kind part => formContent_reply dest kind part, fun f => formContent_valid⟩
  · rw [exec_statusPeriodExpiry_due hp htimer hdue hopen.1, periodQueue_empty hopen.2]
    rfl
  · refine ⟨_, exec_statusPeriodExpiry_due hp htimer hdue hup, rfl, status_mem_periodQueue hroom,
      demand_mem_periodQueue hroom, fun f => mem_periodQueue_of_mem hroom, fun f => mem_of_mem_periodQueue⟩

end Sys2Proof.Machine
